-- ==== Sys2Proof/Word.lean ====
section
/-! DEFINITION. The word types of the YG-4 model and their plainest arithmetic (00_scope.md R4-R7). -/
namespace Sys2Proof

/-- A 32-bit register or instruction word. -/
abbrev Word := BitVec 32
/-- A byte of memory. -/
abbrev Byte := BitVec 8
/-- A 64-bit value, held in a register pair or a device register. -/
abbrev DWord := BitVec 64

/-- The word of a truth value. -/
def Word.ofBool (b : Bool) : Word := if b then 1 else 0

/-- Bits [hi:lo] of a natural number (R5, R11). -/
def bitsOf (x hi lo : Nat) : Nat := (x / 2 ^ lo) % 2 ^ (hi + 1 - lo)

/-- Bit n of a natural number. -/
def bitAt (x n : Nat) : Bool := (x / 2 ^ n) % 2 == 1

/-- The integer value of the low n bits of x, read as signed (R35 SignExtend). -/
def signExtend (x n : Nat) : Int :=
  let y := x % 2 ^ n
  if 2 * y < 2 ^ n then (y : Int) else (y : Int) - 2 ^ n

/-- x rounded up to a multiple of n. -/
def roundUp (x n : Nat) : Nat := (x + n - 1) / n * n

/-- x shifted left by d, or right when d is negative. -/
def shiftBy (x : Nat) (d : Int) : Nat := if 0 ≤ d then x <<< d.toNat else x >>> (-d).toNat

/-- The element of a list at a position, or a default. -/
def nth {α : Type} (d : α) (l : List α) (k : Nat) : α := l.getD k d

/-- A list with its element at position k replaced by f of it; unchanged when k is past the end. -/
def modifyNth {α : Type} (f : α → α) (k : Nat) (l : List α) : List α := l.modify k f

/-- A list with its element at position k removed. -/
def removeNth {α : Type} (k : Nat) (l : List α) : List α := l.eraseIdx k

/-- Sparse data by key: the value listed for k, or the default. -/
def assocGet {α : Type} (d : α) : List (Nat × α) → Nat → α
  | [], _ => d
  | (k, x) :: rest, n => if k = n then x else assocGet d rest n

/-- Sparse data by key in rising order of keys, without entries equal to the default. -/
def assocSet {α : Type} [DecidableEq α] (d : α) (n : Nat) (y : α) : List (Nat × α) → List (Nat × α)
  | [] => if y = d then [] else [(n, y)]
  | (k, x) :: rest =>
    if n < k then (if y = d then (k, x) :: rest else (n, y) :: (k, x) :: rest)
    else if n = k then (if y = d then rest else (n, y) :: rest)
    else (k, x) :: assocSet d n y rest

end Sys2Proof
end

