-- ==== Sys2Proof/Config.lean ====
section
/-! DEFINITION. What an implementation fixes, the arithmetic contracts of R78, and the free values: opaque
constants with no body, which stand for whatever the hardware gives where the spec gives no value. -/
namespace Sys2Proof

/-- The grouping of a collective reduction (R90). -/
inductive Grouping where | seqD | ptD | ptF
  deriving DecidableEq, Repr

/-- One row of the contract table (R78). `width = none` is "exact". -/
structure Contract where
  flush : Bool
  rev : Nat
  group : Nat
  width : Option Nat
  towardZero : Bool
  saturate : Bool
  grouping : Grouping
  gen : Nat
  full : Bool
  deriving DecidableEq, Repr

/-- The contract of a number (R78; R80 gives contract 0 the columns of contract 8). -/
def contractOf : Nat → Contract
  | 1 => ⟨true, 1, 4, some 26, true, true, .seqD, 1, false⟩
  | 2 => ⟨false, 1, 4, some 26, true, true, .seqD, 1, false⟩
  | 3 => ⟨false, 2, 8, some 28, false, true, .seqD, 1, false⟩
  | 4 => ⟨false, 2, 8, some 28, false, false, .ptD, 1, false⟩
  | 5 => ⟨false, 2, 16, some 30, false, false, .ptD, 2, true⟩
  | 6 => ⟨false, 3, 16, some 30, false, false, .ptD, 2, true⟩
  | 7 => ⟨false, 3, 32, none, false, false, .ptD, 2, true⟩
  | _ => ⟨false, 3, 32, none, false, false, .ptF, 2, true⟩

/-- Whether CONTRACTCAP has an entry other than 00 for the contract (R31, R82). -/
def contractPresent (c : Nat) : Bool := c ≤ 8

/-- The value of CONTRACTCAP (R82). -/
def contractCap : Word := 0x0002A956#32

/-- Whether a contract admits E4M3, E5M2, INT8 and INT4 (R81). -/
def admitsNarrow (c : Nat) : Bool := c == 0 || (3 ≤ c && c ≤ 8)

/-- Whether a contract admits E2M1, NQ4 and table-lookup mode (R81). -/
def admitsFour (c : Nat) : Bool := c == 0 || c == 7 || c == 8

namespace Config

/-- Bytes of HBM at the top that the firmware complex keeps for itself (R350). The spec gives no size: DESIGN CHOICE (log 5). -/
def firmwareHbm : Nat := 2 ^ 30
/-- The fused minimum image version (R382) is a value of the part. -/
opaque minVersion : Nat
/-- IDKEY0 to IDKEY3 are of the part (R377, R384). -/
opaque idKey : Nat → DWord
/-- SLICE, the length of a root slice in cycles (R351): no figure is given. -/
opaque sliceCycles : Nat

/-- The counter of a word given under contract 0, where words come in arrival order and the counter of the thread does not bind them (R80, R96): by
the cycle and that counter. -/
opaque looseCounter : Nat → Nat → Nat
/-- How a sum under contract 0 is grouped and ordered (R80): by the count of free values taken, and the place in the grouping (looseGroups,
looseMerge). -/
opaque loosePick : Nat → Nat → Nat
/-- The 64 bytes that KEYGEN drew for the key of a serial number: the data key and the tweak key (R381). -/
opaque keyBytes : Nat → List Byte
/-- SHA-512 of a list of bytes (R382, R383). -/
opaque sha512 : List Byte → List Byte
/-- The Ed25519 signature of the device identity key over some bytes (R384). -/
opaque identitySignature : List Byte → List Byte
/-- Whether a signature verifies under the Umathar release key (R382): signed bytes, signature. -/
opaque releaseVerifies : List Byte → List Byte → Bool
/-- The identity certificate (R385). -/
opaque certificate : List Byte
/-- The 32 bytes of the key that a CREATE agreed with a member (R403), by the count of free values taken at its completion, and the member. -/
opaque agreedKey : Nat → Nat → List Byte
/-- A byte of the frozen task window or L2 as the read-out gives it (R369): the spec gives no layout. -/
opaque readoutByte : Nat → Byte
/-- DETAIL of the fault record of a flock that a refused peer access aborts (R336, R380): no trap cause is given. -/
opaque peerDetail : Nat
/-- Whether a plain load of a core thread returns another agent's write that it need not return yet (11_consistency.md R267), by the count
of free values taken; log 1. -/
opaque seesLate : Nat → Bool
/-- Whether a core's read buffer still keeps the copy that a load would hit (11_consistency.md R262): the spec gives it 256 lines and no rule
of replacement; by the count of free values taken. Log 85. -/
opaque keepsCopy : Nat → Bool
/-- Whether a transform merges what it writes into the block that stood before another stream's swap, of those that came while its turn was in
progress (13_async_engines.md R320); by the count of free values taken. Log 92. -/
opaque losesBlock : Nat → Bool
/-- Which of the other entries that a walk may use is taken at a level of the page table, if any: by the cycle, the number of the 4 KiB page, and
the lowest index bit of the level (09_memory_levels.md R221, R222); the level 64 stands for PTROOT. Log 42. -/
opaque otherEntry : Nat → Nat → Nat → Nat
/-- Which of the replaced words of a code object a fetch takes, if any (11_consistency.md R261): by the cycle and the word's address. Log 80. -/
opaque otherWord : Nat → Nat → Nat
/-- A register word read after its check bits fail (R341, R342): free. -/
opaque storedGarbage : Nat → Word

end Config
end Sys2Proof
end

