-- ==== Sys2Proof/Machine/Num.lean ====
section
/-! DEFINITION. Numbers: the element formats, exact values, rounding and the special-value rules
(03_numbers_and_contracts.md R69-R90). -/
namespace Sys2Proof.Machine
open Sys2Proof

/-- The floating-point element formats of R69, and binary64, which only CVT reads. -/
inductive Fmt where | fp32 | fp16 | bf16 | e4m3 | e5m2 | e2m1 | f64
  deriving DecidableEq, Repr

/-- Width of the exponent field (R69). -/
def Fmt.eb : Fmt → Nat
  | .fp32 => 8 | .fp16 => 5 | .bf16 => 8 | .e4m3 => 4 | .e5m2 => 5 | .e2m1 => 2 | .f64 => 11
/-- Width of the fraction field (R69). -/
def Fmt.mb : Fmt → Nat
  | .fp32 => 23 | .fp16 => 10 | .bf16 => 7 | .e4m3 => 3 | .e5m2 => 2 | .e2m1 => 1 | .f64 => 52
/-- The bias (R69). -/
def Fmt.bias : Fmt → Int
  | .fp32 => 127 | .fp16 => 15 | .bf16 => 127 | .e4m3 => 7 | .e5m2 => 15 | .e2m1 => 1 | .f64 => 1023
/-- The unit exponent of the largest finite value and its integer fraction (R69). -/
def Fmt.maxE (f : Fmt) : Int :=
  match f with
  | .e4m3 => 5 | .e2m1 => 1 | _ => f.bias - f.mb
def Fmt.maxM (f : Fmt) : Nat :=
  match f with
  | .e4m3 => 14 | .e2m1 => 3 | _ => 2 ^ (f.mb + 1) - 1
/-- The canonical NaN (R69). E2M1 has none; R87 gives 0x0. -/
def Fmt.nan : Fmt → Nat
  | .fp32 => 0x7FC00000 | .fp16 => 0x7E00 | .bf16 => 0x7FC0 | .e4m3 => 0x7F | .e5m2 => 0x7E
  | .e2m1 => 0 | .f64 => 0x7FF8000000000000
/-- emax of R74. -/
def Fmt.scaleMax : Fmt → Int
  | .e4m3 => 8 | .e5m2 => 15 | _ => 2

/-- An exact value: NaN, an infinity, or (−1)^s × m × 2^e; m = 0 is the zero of that sign. -/
inductive Val where
  | nan
  | inf (s : Bool)
  | fin (s : Bool) (m : Nat) (e : Int)
  deriving DecidableEq, Repr

def Val.zero (s : Bool) : Val := .fin s 0 0
def Val.one : Val := .fin false 1 0
def Val.isNan : Val → Bool | .nan => true | _ => false
def Val.isInf : Val → Bool | .inf _ => true | _ => false
def Val.isZero : Val → Bool | .fin _ 0 _ => true | _ => false
def Val.neg : Val → Val | .nan => .nan | .inf s => .inf (!s) | .fin s m e => .fin (!s) m e
def Val.abs : Val → Val | .nan => .nan | .inf _ => .inf false | .fin _ m e => .fin false m e
def Val.sign : Val → Bool | .nan => false | .inf s => s | .fin s _ _ => s
/-- The value times 2^k. -/
def Val.scale (k : Int) : Val → Val
  | .fin s m e => .fin s m (e + k)
  | v => v

/-- Decode(fmt, bits) (R35, R69, R70). -/
def decode (f : Fmt) (x : Nat) : Val :=
  let fr := x % 2 ^ f.mb
  let ex := (x / 2 ^ f.mb) % 2 ^ f.eb
  let s := bitAt x (f.mb + f.eb)
  let top := 2 ^ f.eb - 1
  if f = .e4m3 && ex == 15 && fr == 7 then .nan
  else if f ≠ .e4m3 && f ≠ .e2m1 && ex == top then (if fr = 0 then .inf s else .nan)
  else if ex = 0 then .fin s fr (1 - f.bias - f.mb)
  else .fin s (2 ^ f.mb + fr) ((ex : Int) - f.bias - f.mb)

/-- floor(log2 (num/den × 2^e)) for positive num and den. -/
def floorLog2 (num den : Nat) (e : Int) : Int :=
  let k : Int := (Nat.log2 num : Int) - (Nat.log2 den : Int)
  let ge := if 0 ≤ k then decide (den * 2 ^ k.toNat ≤ num) else decide (den ≤ num * 2 ^ (-k).toNat)
  (if ge then k else k - 1) + e

/-- Encode(fmt, y) for a y that the format represents (R35). -/
def encode (f : Fmt) (v : Val) : Nat :=
  let sbit (s : Bool) : Nat := if s then 2 ^ (f.mb + f.eb) else 0
  match v with
  | .nan => f.nan
  | .inf s => sbit s + (2 ^ f.eb - 1) * 2 ^ f.mb
  | .fin s m e =>
    if m = 0 then sbit s
    else
      let k : Int := (Nat.log2 m : Int) + e
      if k < 1 - f.bias then sbit s + shiftBy m (e - (1 - f.bias - f.mb))
      else sbit s + (k + f.bias - 1).toNat * 2 ^ f.mb + shiftBy m (e - (k - f.mb))

/-- The rounding modes of Round (R35). SR carries k and the random word (R88). -/
inductive RMode where
  | ne | rz | rd | ru
  | sr (k w : Nat)
  deriving DecidableEq, Repr

/-- |x| / 2^q rounded to an integer, for |x| = num/den × 2^e. SR works on a den that is a power of two (R88). -/
def roundInt (mode : RMode) (s : Bool) (num den : Nat) (e q : Int) : Nat :=
  let n := if 0 ≤ e - q then num * 2 ^ (e - q).toNat else num
  let d := if 0 ≤ e - q then den else den * 2 ^ (q - e).toNat
  let t := n / d
  let r := n % d
  match mode with
  | .ne => if 2 * r < d then t else if d < 2 * r then t + 1 else if t % 2 = 0 then t else t + 1
  | .rz => t
  | .rd => if s && r ≠ 0 then t + 1 else t
  | .ru => if !s && r ≠ 0 then t + 1 else t
  | .sr k w => if r = 0 then t else if 2 ^ k ≤ r * 2 ^ k / d + w % 2 ^ k then t + 1 else t

/-- A rounded magnitude m × 2^e, and whether it exceeds the largest finite value (R85). -/
structure Rounded where
  m : Nat
  e : Int
  beyond : Bool
  deriving DecidableEq, Repr

/-- Whether m × 2^e is above the largest finite value of f. -/
def aboveMax (f : Fmt) (m : Nat) (e : Int) : Bool :=
  if e ≥ f.maxE then decide (f.maxM < m * 2 ^ (e - f.maxE).toNat)
  else decide (f.maxM * 2 ^ (f.maxE - e).toNat < m)

/-- Round of a positive magnitude, unbounded above, subnormals kept (R85). -/
def roundMag (f : Fmt) (mode : RMode) (s : Bool) (num den : Nat) (e : Int) : Rounded :=
  let k := floorLog2 num den e
  let q := max (k - f.mb) (1 - f.bias - f.mb)
  let m := roundInt mode s num den e q
  ⟨m, q, aboveMax f m q⟩

/-- Round of a positive magnitude with an exponent range unbounded both ways, for the flush test of R84. -/
def roundUnbounded (f : Fmt) (mode : RMode) (s : Bool) (num den : Nat) (e : Int) : Nat × Int :=
  let q := floorLog2 num den e - f.mb
  (roundInt mode s num den e q, q)

/-- Whether m × 2^e is below the smallest normal of f. -/
def belowNormal (f : Fmt) (m : Nat) (e : Int) : Bool :=
  m = 0 || decide ((Nat.log2 m : Int) + e < 1 - f.bias)

/-- A result: the value, and the exceptions it raised (R85, R86). -/
structure FRes where
  v : Val
  inv : Bool := false
  ovf : Bool := false
  deriving DecidableEq, Repr

/-- The overflow result of R85: largest finite or infinity. -/
def overflowVal (f : Fmt) (mode : RMode) (saturate s : Bool) : Val :=
  let big : Val := .fin s f.maxM f.maxE
  match mode with
  | .ne | .sr _ _ => if saturate then big else .inf s
  | .rz => big
  | .rd => if s then .inf s else big
  | .ru => if s then big else .inf s

/-- Round(x, fmt, mode) of a non-zero magnitude num/den × 2^e for FP32, FP16 and BF16, with flush and
overflow by the contract (R84, R85). -/
def roundC (flush saturate : Bool) (f : Fmt) (mode : RMode) (s : Bool) (num den : Nat) (e : Int) : FRes :=
  let u := roundUnbounded f mode s num den e
  if flush && belowNormal f u.1 u.2 then ⟨.zero s, false, false⟩
  else
    let r := roundMag f mode s num den e
    if r.beyond then ⟨overflowVal f mode saturate s, false, true⟩ else ⟨.fin s r.m r.e, false, false⟩

/-- Round of an exact value under a contract; NaN, infinities and zeros pass through. -/
def roundVal (c : Contract) (f : Fmt) (mode : RMode) : Val → FRes
  | .fin s m e => if m = 0 then ⟨.zero s, false, false⟩ else roundC c.flush c.saturate f mode s m 1 e
  | v => ⟨v, false, false⟩

/-- An operand as R84 reads it: under flush, a subnormal is the zero of its sign. -/
def flushIn (c : Contract) (f : Fmt) : Val → Val
  | .fin s m e => if c.flush && belowNormal f m e then .zero s else .fin s m e
  | v => v

/-- The signed integer of a finite value over 2^q, for q at most its exponent. -/
def asInt (s : Bool) (m : Nat) (e q : Int) : Int :=
  let x : Int := (m * 2 ^ (e - q).toNat : Nat)
  if s then -x else x

/-- Exact sum with the zero rule of R86 for modes other than RD; none when it is infinity − infinity. -/
def addExact : Val → Val → Option Val
  | .nan, _ => some .nan
  | _, .nan => some .nan
  | .inf s, .inf t => if s = t then some (.inf s) else none
  | .inf s, _ => some (.inf s)
  | _, .inf t => some (.inf t)
  | .fin s m e, .fin t n g =>
    if m = 0 && n = 0 then some (.zero (s && t))
    else
      let q := min e g
      let x := asInt s m e q + asInt t n g q
      if x = 0 then some (.zero false) else some (.fin (decide (x < 0)) x.natAbs q)

/-- Exact product; none when it is 0 × infinity. -/
def mulExact : Val → Val → Option Val
  | .nan, _ => some .nan
  | _, .nan => some .nan
  | .inf s, .inf t => some (.inf (s != t))
  | .inf s, .fin t n _ => if n = 0 then none else some (.inf (s != t))
  | .fin s m _, .inf t => if m = 0 then none else some (.inf (s != t))
  | .fin s m e, .fin t n g => some (.fin (s != t) (m * n) (e + g))

/-- Rounds an exact result, or gives the invalid result of R86. -/
def finish (c : Contract) (f : Fmt) : Option Val → FRes
  | none => ⟨.nan, true, false⟩
  | some v => roundVal c f .ne v

/-- FADD in a format (R114, R117). -/
def fadd (c : Contract) (f : Fmt) (a b : Val) : FRes :=
  finish c f (addExact (flushIn c f a) (flushIn c f b))
/-- FSUB (R114). -/
def fsub (c : Contract) (f : Fmt) (a b : Val) : FRes :=
  finish c f (addExact (flushIn c f a) (flushIn c f b).neg)
/-- FMUL (R114). -/
def fmul (c : Contract) (f : Fmt) (a b : Val) : FRes :=
  finish c f (mulExact (flushIn c f a) (flushIn c f b))
/-- FFMA: one rounding; 0 × infinity is tested before c is added, but a NaN operand comes first (R114). -/
def ffma (c : Contract) (f : Fmt) (a b d : Val) : FRes :=
  if a.isNan || b.isNan || d.isNan then ⟨.nan, false, false⟩
  else match mulExact (flushIn c f a) (flushIn c f b) with
    | none => ⟨.nan, true, false⟩
    | some p => finish c f (addExact p (flushIn c f d))

/-- Whether a < b for values that are not NaN, with −0 and +0 equal. -/
def ltVal : Val → Val → Bool
  | .inf s, .inf t => s && !t
  | .inf s, _ => s
  | _, .inf t => !t
  | .fin s m e, .fin t n g => let q := min e g; decide (asInt s m e q < asInt t n g q)
  | _, _ => false
/-- Whether a = b for values that are not NaN, with −0 and +0 equal. -/
def eqVal : Val → Val → Bool
  | .inf s, .inf t => s == t
  | .fin s m e, .fin t n g => let q := min e g; decide (asInt s m e q = asInt t n g q)
  | _, _ => false

/-- FMIN (R115): −0 is below +0; a single NaN gives the other operand. -/
def fmin (c : Contract) (f : Fmt) (a b : Val) : Val :=
  let a := flushIn c f a
  let b := flushIn c f b
  if a.isNan then b else if b.isNan then a
  else if ltVal a b then a else if ltVal b a then b else if a.sign then a else b
/-- FMAX (R115). -/
def fmax (c : Contract) (f : Fmt) (a b : Val) : Val :=
  let a := flushIn c f a
  let b := flushIn c f b
  if a.isNan then b else if b.isNan then a
  else if ltVal a b then b else if ltVal b a then a else if a.sign then b else a

/-- A narrow conversion with the limits of R87: FP8 and FP4, saturating or not. -/
def narrow (f : Fmt) (saturating : Bool) (mode : RMode) (v : Val) : FRes :=
  let big (s : Bool) : Val := .fin s f.maxM f.maxE
  let limit (s : Bool) : Val := if saturating || f = .e2m1 then big s else if f = .e4m3 then .nan else .inf s
  match v with
  | .nan => if f = .e2m1 then ⟨.zero false, true, false⟩ else ⟨.nan, false, false⟩
  | .inf s => ⟨limit s, false, false⟩
  | .fin s m e =>
    if m = 0 then ⟨.zero s, false, false⟩
    else
      let r := roundMag f mode s m 1 e
      if r.beyond then ⟨limit s, false, true⟩ else ⟨.fin s r.m r.e, false, false⟩

/-- Round(x, integer, mode) of a finite value, signed. -/
def toInteger (mode : RMode) (s : Bool) (m : Nat) (e : Int) : Int :=
  let r : Int := (roundInt mode s m 1 e 0 : Nat)
  if s then -r else r

/-- An offset-binary code of x already divided by its scale (R75, R87): the code, whether it was clamped, whether it was invalid. -/
def offsetCode (bits z : Nat) (mode : RMode) (v : Val) : Nat × Bool × Bool :=
  let top : Nat := 2 ^ bits - 1
  match v with
  | .nan => (z, false, true)
  | .inf s => (if s then 0 else top, true, false)
  | .fin s m e =>
    let u : Int := (z : Int) + (if m = 0 then 0 else toInteger mode s m e)
    if u < 0 then (0, true, false) else if (top : Int) < u then (top, true, false) else (u.toNat, false, false)

/-- The element formats that operands, layout records and quantisers name (R73-R76, R274, R298). -/
inductive Elem where | bf16 | fp16 | e4m3 | e5m2 | e2m1 | nq4 | int8 | int4 | fp32
  deriving DecidableEq, Repr

/-- Width of an element in bits. -/
def Elem.bits : Elem → Nat
  | .bf16 => 16 | .fp16 => 16 | .e4m3 => 8 | .e5m2 => 8 | .e2m1 => 4 | .nq4 => 4 | .int8 => 8 | .int4 => 4 | .fp32 => 32
/-- The element a code of R274 or R298 names. -/
def Elem.ofCode : Nat → Option Elem
  | 0 => some .bf16 | 1 => some .fp16 | 2 => some .e4m3 | 3 => some .e5m2 | 4 => some .e2m1
  | 5 => some .nq4 | 6 => some .int8 | 7 => some .int4 | 8 => some .fp32 | _ => none
/-- Whether an element has a 4-bit delta per square (R73). -/
def Elem.hasDelta : Elem → Bool
  | .e4m3 | .e5m2 | .e2m1 | .int8 | .int4 => true
  | _ => false
def Elem.hasZero : Elem → Bool
  | .int8 | .int4 => true
  | _ => false
/-- emax of R74. -/
def Elem.emax : Elem → Int
  | .e4m3 => 8 | .e5m2 => 15 | .e2m1 => 2 | .int8 => 7 | .int4 => 3 | _ => 0
/-- Whether a contract admits the format (R81). -/
def Elem.admitted (c : Nat) : Elem → Bool
  | .bf16 | .fp16 | .fp32 => true
  | .e2m1 | .nq4 => admitsFour c
  | _ => admitsNarrow c
/-- The floating-point format of an element, if it has one. -/
def Elem.fmt : Elem → Option Fmt
  | .bf16 => some .bf16 | .fp16 => some .fp16 | .e4m3 => some .e4m3 | .e5m2 => some .e5m2
  | .e2m1 => some .e2m1 | .fp32 => some .fp32 | _ => none

/-- The NQ4 codebook of R76 as sign and multiple of 2^-13. -/
def nq4Code (c : Nat) : Val :=
  let m := nth 0 [8192, 5792, 4448, 3408, 2544, 1768, 1040, 344, 344, 1040, 1768, 2544, 3408, 4448, 5792, 8192] (c % 16)
  .fin (decide (c % 16 < 8)) m (-13)

/-- What scales an element: the tile exponent E, the square's delta and zero point, and for NQ4 the
sub-square scale and super-scale (R73-R76). -/
structure Scaling where
  e : Nat := 127
  delta : Nat := 0
  zero : Nat := 0
  sub : Nat := 0
  super : Word := 0
  deriving DecidableEq, Repr

/-- A scaled element as an exact value over a denominator: v / den. The denominator is 255 for NQ4, else 1. -/
def elemValue (f : Elem) (code : Nat) (sc : Scaling) : Val × Nat :=
  let k : Int := (sc.e : Int) - 127 + sc.delta
  match f with
  | .nq4 =>
    if sc.sub = 0 then (.zero false, 255)
    else match decode .fp32 sc.super.toNat with
      | .fin s m e =>
        (match mulExact (nq4Code code) (.fin s (m * sc.sub) e) with | some v => (v, 255) | none => (.nan, 255))
      | _ => (.nan, 255)
  | .int8 | .int4 =>
    if sc.delta = 15 then (.zero false, 1)
    else
      let d : Int := (code : Int) - sc.zero
      (.fin (decide (d < 0)) d.natAbs k, 1)
  | _ =>
    match f.fmt with
    | some g =>
      if f.hasDelta then (if sc.delta = 15 then (.zero false, 1) else ((decode g code).scale k, 1))
      else (decode g code, 1)
    | none => (.nan, 1)

/-- The delta of a square and its saturation flag (R74), from the largest magnitude. -/
def chooseDelta (f : Elem) (e : Nat) (amax : Val) : Nat × Bool :=
  match amax with
  | .fin _ m x =>
    if m = 0 then (15, false)
    else
      let d : Int := floorLog2 m 1 x - f.emax - ((e : Int) - 127)
      if d < 0 then (0, false) else if 14 < d then (14, true) else (d.toNat, false)
  | _ => (14, true)

/-- The largest magnitude of a list, infinities and NaN counted as +infinity (R74). -/
def amaxOf (vs : List Val) : Val :=
  vs.foldl (fun a v => match v with
    | .fin _ m e => if ltVal a (.fin false m e) then .fin false m e else a
    | _ => .inf false) (.zero false)

/-- One converted element: its code, and whether it was clamped, overflowed, converted invalidly. -/
structure Coded where
  code : Nat
  clamped : Bool := false
  ovf : Bool := false
  inv : Bool := false
  deriving DecidableEq, Repr

/-- The saturating conversion of an element, already divided by its scale, to a scaled or plain format
(R74, R87); BF16, FP16 and FP32 follow R84 and R85 under the contract. `keep` keeps subnormals (R84). -/
def elemCode (c : Contract) (keep : Bool) (f : Elem) (z : Nat) (mode : RMode) (v : Val) : Coded :=
  match f with
  | .int8 => let r := offsetCode 8 z mode v; ⟨r.1, r.2.1, false, r.2.2⟩
  | .int4 => let r := offsetCode 4 z mode v; ⟨r.1, r.2.1, false, r.2.2⟩
  | .e4m3 => let r := narrow .e4m3 true mode v; ⟨encode .e4m3 r.v, r.ovf || v.isInf, false, r.inv⟩
  | .e5m2 => let r := narrow .e5m2 true mode v; ⟨encode .e5m2 r.v, r.ovf || v.isInf, false, r.inv⟩
  | .e2m1 => let r := narrow .e2m1 true mode v; ⟨encode .e2m1 r.v, r.ovf || v.isInf, false, r.inv⟩
  | .nq4 => ⟨0, false, false, false⟩
  | .bf16 => let r := roundVal { c with flush := c.flush && !keep } .bf16 mode v; ⟨encode .bf16 r.v, r.ovf && c.saturate, r.ovf, false⟩
  | .fp16 => let r := roundVal { c with flush := c.flush && !keep } .fp16 mode v; ⟨encode .fp16 r.v, r.ovf && c.saturate, r.ovf, false⟩
  | .fp32 => let r := roundVal { c with flush := c.flush && !keep } .fp32 mode v; ⟨encode .fp32 r.v, r.ovf && c.saturate, r.ovf, false⟩

/-- One product of an accumulation with the denominator of its group; `none` is the NaN of 0 × infinity. -/
def prod (a b : Val) : Val := (mulExact a b).getD .nan

/-- x truncated toward zero to a multiple of 2^q (R89); a value truncated to zero counts as +0. -/
def truncTo (q : Int) : Val → Val
  | .fin s m e =>
    if e ≥ q then .fin s m e
    else
      let t := m / 2 ^ (q - e).toNat
      if t = 0 && m ≠ 0 then .zero false else .fin s t q
  | v => v

/-- The sum of one group (R89): values over a common denominator. -/
def groupSum (c : Contract) (den : Nat) (grp : List Val) : Val :=
  let bad := grp.any Val.isNan || (grp.any (fun v => v.isInf && v.sign) && grp.any (fun v => v.isInf && !v.sign))
  if bad then .nan
  else match grp.find? Val.isInf with
    | some v => v
    | none =>
      let tops := grp.filterMap (fun v => match v with | .fin _ m e => if m = 0 then none else some (floorLog2 m den e) | _ => none)
      let grp := match c.width, tops with
        | some w, t :: ts => grp.map (truncTo (ts.foldl max t - w))
        | _, _ => grp
      match grp with
      | [] => .zero false
      | g :: gs => gs.foldl (fun a v => (addExact a v).getD .nan) g

/-- A value over a denominator. -/
def Val.over (den : Nat) : Val → Val
  | .fin s m e => .fin s (m * den) e
  | v => v
/-- The value over 1 of a value over a denominator that divides it. -/
def Val.under (den : Nat) : Val → Val
  | .fin s m e => .fin s (m / den) e
  | v => v
/-- One rounding to FP32 of a sum of two values over a denominator (R89). -/
def roundSum (c : Contract) (den : Nat) (a b : Val) : Val :=
  match a, b with
  | .nan, _ => .nan
  | _, .nan => .nan
  | .inf a, .inf b => if a = b then .inf a else .nan
  | .inf a, _ => .inf a
  | _, .inf b => .inf b
  | .fin sa m e, .fin sb n g =>
    match addExact (.fin sa m e) (.fin sb n g) with
    | some (.fin t k q) =>
      if k = 0 then .zero t
      else
        let r := roundMag .fp32 (if c.towardZero then .rz else .ne) t k den q
        if r.beyond then (if c.saturate then .fin t Fmt.fp32.maxM Fmt.fp32.maxE else .inf t) else .fin t r.m r.e
    | _ => .nan

/-- GroupRound (R89): one rounding of c + s/den to FP32. -/
def groupRound (c : Contract) (den : Nat) (acc s : Val) : Val := roundSum c den (acc.over den) s

/-- The list cut into pieces of n, with fuel. -/
def chunks {α : Type} (n : Nat) : Nat → List α → List (List α)
  | 0, _ => []
  | _, [] => []
  | fuel + 1, l => l.take n :: chunks n fuel (l.drop n)

/-- GroupAccumulate (R89). -/
def groupAccumulate (c : Contract) (den : Nat) (acc : Word) (ps : List Val) : Word :=
  let r := (chunks c.group ps.length ps).foldl (fun a g => groupRound c den a (groupSum c den g)) (decode .fp32 acc.toNat)
  BitVec.ofNat 32 (encode .fp32 r)

/-- Some terms in groups that a choice makes: term k is of group pick k, and the groups stand in their order. -/
def looseGroups {α : Type} (pick : Nat → Nat) (l : List α) : List (List α) :=
  ((List.range l.length).map fun g => (l.zipIdx.filter fun q => pick q.2 % l.length == g).map Prod.fst).filter fun l => !l.isEmpty
/-- The sum of a list in the order and by the tree that a choice makes: n times two elements are taken out and their sum put in. -/
def looseMerge {α : Type} (add : α → α → α) (pick : Nat → Nat) : Nat → List α → List α
  | 0, l => l
  | n + 1, l =>
    let i := pick (2 * n) % l.length
    let rest := removeNth i l
    let j := pick (2 * n + 1) % rest.length
    match l[i]?, rest[j]? with
    | some a, some b => looseMerge add pick n (add a b :: removeNth j rest)
    | _, _ => l
/-- An accumulation under contract 0 (R80): the arithmetic of contract 8, with the products in any groups, and the groups' sums and the old
element added in any order and by any tree, each addition with one rounding. -/
def looseAccumulate (c : Contract) (seed den : Nat) (acc : Word) (ps : List Val) : Word :=
  let sums := (looseGroups (Config.loosePick seed) ps).map (groupSum c den)
  match looseMerge (fun a b => (roundSum c den a b).over den) (fun k => Config.loosePick seed (64 + k)) sums.length
      ((decode .fp32 acc.toNat).over den :: sums) with
  | v :: _ => BitVec.ofNat 32 (encode .fp32 (v.under den))
  | [] => 0
/-- An accumulation under a contract; the count of free values taken if it is contract 0. -/
def accumulate (c : Contract) (loose : Option Nat) (den : Nat) (acc : Word) (ps : List Val) : Word :=
  match loose with
  | none => groupAccumulate c den acc ps
  | some seed => looseAccumulate c seed den acc ps

/-- One level of the pairwise tree (R90). -/
def pairLevel {α : Type} (f : α → α → α) : List α → List α
  | a :: b :: rest => f a b :: pairLevel f rest
  | l => l

/-- The pairwise tree of R90 (PT), with fuel; an odd last element is carried. -/
def pairTree {α : Type} (f : α → α → α) : Nat → List α → List α
  | 0, l => l
  | _, [] => []
  | _, [a] => [a]
  | fuel + 1, l => pairTree f fuel (pairLevel f l)

/-- Decode of a 32-bit register as FP32. -/
def f32 (x : Word) : Val := decode .fp32 x.toNat
/-- Encode of an FP32 value into a register. -/
def w32 (v : Val) : Word := BitVec.ofNat 32 (encode .fp32 v)

end Sys2Proof.Machine
end

