-- ==== Sys2Proof/Syntax.lean ====
section
/-! DEFINITION. The instructions: one constructor per row of the opcode table. Rows that are words of threads carry
the fields of 02_formats_and_assembly.md; rows that are crook operations carry the fields of R355; every other row is
a step of the device that no word encodes (an event); what it acts on stands in State.subject. -/
namespace Sys2Proof

/-- A 5-bit register field (R49): v0-v23 or w0-w7. -/
inductive Reg where
  | v (n : Fin 24)
  | w (n : Fin 8)
  deriving DecidableEq, Repr

/-- A source field with its trap-if-empty bit, Fa or Fb (R25). -/
structure Src where
  reg : Reg
  trap : Bool
  deriving DecidableEq, Repr

/-- A guard: register index G and sense S (R36). -/
structure Guard where
  index : Fin 16
  sense : Bool
  deriving DecidableEq, Repr

/-- The common top bits of a word: the chain bit C, and the guard when E = 1 (R36). -/
structure Head where
  chain : Bool
  guard : Option Guard
  deriving DecidableEq, Repr

inductive Instr where
  -- Integer and address arithmetic (04 R103-R110)
  | iadd (h : Head) (d : Reg) (a b : Src)
  | isub (h : Head) (d : Reg) (a b : Src)
  | imul (h : Head) (d : Reg) (a b : Src)
  | imulh (h : Head) (m : Bool) (d : Reg) (a b : Src)
  | imad (h : Head) (d : Reg) (a b : Src) (c : Reg)
  | imin (h : Head) (m : Bool) (d : Reg) (a b : Src)
  | imax (h : Head) (m : Bool) (d : Reg) (a b : Src)
  | and (h : Head) (d : Reg) (a b : Src)
  | or (h : Head) (d : Reg) (a b : Src)
  | xor (h : Head) (d : Reg) (a b : Src)
  | andn (h : Head) (d : Reg) (a b : Src)
  | shl (h : Head) (d : Reg) (a b : Src)
  | shr (h : Head) (d : Reg) (a b : Src)
  | sar (h : Head) (d : Reg) (a b : Src)
  | rotl (h : Head) (d : Reg) (a b : Src)
  | fshr (h : Head) (d : Reg) (a b : Src) (c : Reg)
  | bfe (h : Head) (m : Bool) (d : Reg) (a b : Src)
  | bfi (h : Head) (d : Reg) (a b : Src) (c : Reg)
  | bshuf (h : Head) (d : Reg) (a b : Src) (c : Reg)
  | sel (chain : Bool) (g : Fin 16) (sense : Bool) (d : Reg) (a b : Src)
  | iadd64 (h : Head) (d : Reg) (a b : Src)
  | lea64 (chain : Bool) (n : Fin 16) (d : Reg) (a b : Src)
  | lea64s (chain : Bool) (n : Fin 16) (d : Reg) (a b : Src)
  | mov (h : Head) (d : Reg) (a : Src)
  | not (h : Head) (d : Reg) (a : Src)
  | ineg (h : Head) (d : Reg) (a : Src)
  | iabs (h : Head) (d : Reg) (a : Src)
  | popc (h : Head) (d : Reg) (a : Src)
  | clz (h : Head) (d : Reg) (a : Src)
  | brev (h : Head) (d : Reg) (a : Src)
  | ctz (h : Head) (d : Reg) (a : Src)
  | addi (h : Head) (d a : Reg) (imm : Int)
  | andi (h : Head) (d a : Reg) (imm : Int)
  | ori (h : Head) (d a : Reg) (imm : Int)
  | xori (h : Head) (d a : Reg) (imm : Int)
  | shli (h : Head) (d a : Reg) (imm : Int)
  | shri (h : Head) (d a : Reg) (imm : Int)
  | sari (h : Head) (d a : Reg) (imm : Int)
  | muli (h : Head) (d a : Reg) (imm : Int)
  | movi (h : Head) (d : Reg) (imm : Int)
  | movl (h : Head) (d : Reg) (lit : Word)
  -- Compares and guard logic (04 R111-R113)
  | icmp (h : Head) (k : Bool) (gd : Fin 16) (cc : Fin 8) (a b : Reg)
  | icmpi (h : Head) (k : Bool) (gd : Fin 16) (cc : Fin 8) (a : Reg) (imm : Int)
  | fcmp (h : Head) (k : Bool) (gd : Fin 16) (cc : Fin 8) (a b : Reg)
  | plop (h : Head) (gd ga gb tt : Fin 16)
  | pmov (h : Head) (d : Reg) (a b : Src)
  -- FP32 and packed arithmetic, functions and conversions (04 R114-R125)
  | fadd (h : Head) (d : Reg) (a b : Src)
  | fsub (h : Head) (d : Reg) (a b : Src)
  | fmul (h : Head) (d : Reg) (a b : Src)
  | ffma (h : Head) (d : Reg) (a b : Src) (c : Reg)
  | fmin (h : Head) (d : Reg) (a b : Src)
  | fmax (h : Head) (d : Reg) (a b : Src)
  | frndNe (h : Head) (d : Reg) (a : Src)
  | frndFl (h : Head) (d : Reg) (a : Src)
  | frndCe (h : Head) (d : Reg) (a : Src)
  | frndTr (h : Head) (d : Reg) (a : Src)
  | hadd2 (h : Head) (m : Bool) (d : Reg) (a b : Src)
  | hmul2 (h : Head) (m : Bool) (d : Reg) (a b : Src)
  | hfma2 (h : Head) (m : Bool) (d : Reg) (a b : Src) (c : Reg)
  | hmin2 (h : Head) (m : Bool) (d : Reg) (a b : Src)
  | hmax2 (h : Head) (m : Bool) (d : Reg) (a b : Src)
  | rcp (h : Head) (d : Reg) (a : Src)
  | rsq (h : Head) (d : Reg) (a : Src)
  | sqrt (h : Head) (d : Reg) (a : Src)
  | exp2 (h : Head) (d : Reg) (a : Src)
  | log2 (h : Head) (d : Reg) (a : Src)
  | sin (h : Head) (d : Reg) (a : Src)
  | cos (h : Head) (d : Reg) (a : Src)
  | tanh (h : Head) (d : Reg) (a : Src)
  | cvt (h : Head) (code : Nat) (d : Reg) (a : Src)
  | cvtsr (chain : Bool) (k : Nat) (m : Bool) (d : Reg) (a : Src)
  | fpack (h : Head) (d : Reg) (a b : Src)
  | funpk (h : Head) (code : Nat) (d : Reg) (a : Src)
  | qexp (h : Head) (d : Reg) (a b : Src)
  | qcvt (h : Head) (d : Reg) (a b : Src)
  -- Control transfer (04 R126-R130; 05 R144; 06 R163, R164; 15 R328-R331)
  | bra (h : Head) (off : Int)
  | brx (h : Head) (a : Src)
  | call (h : Head) (off : Int)
  | ret (h : Head)
  | join (h : Head)
  | yield (h : Head)
  | exit (h : Head)
  | trap (h : Head) (code : Fin 32)
  | tret (h : Head)
  | bkpt (h : Head) (code : Fin 256)
  | nop (h : Head)
  -- Special and control registers (04 R131-R134)
  | movs (h : Head) (n : Nat) (d : Reg)
  | movcRead (h : Head) (r : Nat) (d : Reg)
  | movcWrite (h : Head) (r : Nat) (a : Src)
  -- The decision queue (06 R175-R177)
  | brdq (h : Head) (off : Int)
  | dqpush (h : Head) (a : Src)
  | dqpop (h : Head) (d : Reg)
  -- Loads and stores (04 R135, R136)
  | ldb (h : Head) (q : Fin 4) (d a : Reg) (off : Int)
  | ldbs (h : Head) (q : Fin 4) (d a : Reg) (off : Int)
  | ldh (h : Head) (q : Fin 4) (d a : Reg) (off : Int)
  | ldhs (h : Head) (q : Fin 4) (d a : Reg) (off : Int)
  | ldw (h : Head) (q : Fin 4) (d a : Reg) (off : Int)
  | ldd (h : Head) (q : Fin 4) (d a : Reg) (off : Int)
  | ldq (h : Head) (q : Fin 4) (d a : Reg) (off : Int)
  | stb (h : Head) (q : Bool) (a : Reg) (off : Int) (src : Reg)
  | sth (h : Head) (q : Bool) (a : Reg) (off : Int) (src : Reg)
  | stw (h : Head) (q : Bool) (a : Reg) (off : Int) (src : Reg)
  | std (h : Head) (q : Bool) (a : Reg) (off : Int) (src : Reg)
  | stq (h : Head) (q : Bool) (a : Reg) (off : Int) (src : Reg)
  -- Atomics, ordered accesses, tag table, granules (10 R244-R257)
  | atomiAdd (h : Head) (d a b : Reg)
  | atomiMin (h : Head) (d a b : Reg)
  | atomiMax (h : Head) (d a b : Reg)
  | atomiMinu (h : Head) (d a b : Reg)
  | atomiMaxu (h : Head) (d a b : Reg)
  | atomiAnd (h : Head) (d a b : Reg)
  | atomiOr (h : Head) (d a b : Reg)
  | atomiXor (h : Head) (d a b : Reg)
  | atomfFadd (h : Head) (d a b : Reg)
  | atomfFmin (h : Head) (d a b : Reg)
  | atomfFmax (h : Head) (d a b : Reg)
  | atomfBfadd2 (h : Head) (d a b : Reg)
  | atomfHadd2 (h : Head) (d a b : Reg)
  | atomfXchg (h : Head) (d a b : Reg)
  | cas (h : Head) (d : Reg) (a b : Src) (c : Reg)
  | ldx (h : Head) (mask : Nat) (d : Reg) (a : Src)
  | stx (h : Head) (mask : Nat) (a b : Src)
  | fence (h : Head) (mask : Nat)
  | tagq (h : Head) (d : Reg) (a : Src)
  | tagw (h : Head) (d : Reg) (a b : Src)
  | fest (h : Head) (d : Reg) (a b : Src)
  | pref (h : Head) (a b : Src)
  -- Warp operations (06 R166-R169)
  | vany (h : Head) (d : Reg) (a : Src)
  | vall (h : Head) (d : Reg) (a : Src)
  | ballot (h : Head) (d : Reg) (a : Src)
  | actm (h : Head) (d : Reg)
  | first (h : Head) (d : Reg) (a : Src)
  | count (h : Head) (d : Reg) (a : Src)
  | wsync (h : Head)
  | shflIdx (h : Head) (d : Reg) (a : Src) (b : Reg)
  | shflUp (h : Head) (d : Reg) (a : Src) (b : Reg)
  | shflDown (h : Head) (d : Reg) (a : Src) (b : Reg)
  | shflXor (h : Head) (d : Reg) (a : Src) (b : Reg)
  | wredAdd (h : Head) (d : Reg) (a : Src)
  | wredMin (h : Head) (d : Reg) (a : Src)
  | wredMax (h : Head) (d : Reg) (a : Src)
  | wredMinu (h : Head) (d : Reg) (a : Src)
  | wredMaxu (h : Head) (d : Reg) (a : Src)
  | wredAnd (h : Head) (d : Reg) (a : Src)
  | wredOr (h : Head) (d : Reg) (a : Src)
  | wredXor (h : Head) (d : Reg) (a : Src)
  | wredFadd (h : Head) (d : Reg) (a : Src)
  | wredFmin (h : Head) (d : Reg) (a : Src)
  | wredFmax (h : Head) (d : Reg) (a : Src)
  -- Hurdles, promise, continuations, gang register, queues (06 R165, R171-R180; 12 R287)
  | hurdle (h : Head) (n : Fin 16)
  | hurdleF (h : Head) (n : Fin 16)
  | arrive (h : Head) (d : Reg) (a : Src)
  | await (h : Head) (a b : Src)
  | prog (h : Head) (a : Src)
  | cont (h : Head) (a b : Src)
  | gang (h : Head) (a : Src)
  | qpush (h : Head) (a : Src)
  | qpop (h : Head) (n : Nat) (d : Reg)
  -- Matrix words (12 R285-R296)
  | mma (h : Head) (z t : Bool) (tile : Fin 8) (a b : Src)
  | mlut (h : Head) (z t : Bool) (tile : Fin 8) (a b : Src)
  | mzero (h : Head) (t : Bool) (tile : Fin 8)
  | mload (h : Head) (m t : Bool) (tile : Fin 8) (a : Src)
  | mstore (h : Head) (m t : Bool) (tile : Fin 8) (a : Src)
  | mstoresr (chain : Bool) (k : Nat) (t : Bool) (tile : Fin 8) (a : Src)
  | mstoresrGuarded (chain : Bool) (g : Guard) (t : Bool) (tile : Fin 8) (a : Src)
  -- Engine words (13 R304-R315)
  | xform (h : Head) (a b : Src)
  | post (h : Head) (a b : Src)
  | tlwait (h : Head) (d : Reg) (a : Src)
  | tlread (h : Head) (d : Reg) (a : Src)
  | bwaitFull (h : Head) (a : Src)
  | bwaitFree (h : Head) (a : Src)
  | bstate (h : Head) (d : Reg) (a : Src)
  | brel (h : Head) (a : Src)
  | boinit (h : Head) (d : Reg) (a : Src)
  | boarr (h : Head) (d : Reg) (a : Src)
  | boexp (h : Head) (d : Reg) (a : Src)
  | botest (h : Head) (d : Reg) (a : Src)
  | bowait (h : Head) (a : Src)
  -- Crook operations (16 R355)
  | crkLdf (d f : Fin 16)
  | crkLdg (d g : Fin 16)
  | crkLdi (d : Fin 16) (imm : Int)
  | crkAdd (d a b : Fin 16)
  | crkSub (d a b : Fin 16)
  | crkMul (d a b : Fin 16)
  | crkMin (d a b : Fin 16)
  | crkMax (d a b : Fin 16)
  | crkAnd (d a b : Fin 16)
  | crkOr (d a b : Fin 16)
  | crkShl (d a b : Fin 16)
  | crkShr (d a b : Fin 16)
  | crkClt (d a b : Fin 16)
  | crkCeq (d a b : Fin 16)
  | crkBf (a : Fin 16) (off : Nat)
  | crkBnf (a : Fin 16) (off : Nat)
  | crkScore (a : Fin 16)
  | crkVerdict (v : Fin 4)
  | crkHalt
  -- Steps of the device that no word encodes; their operands stand in State.subject
  | resultLand
  | randomWordDelivery
  | joinlimExpiry
  | threadCease
  | workgroupEnd
  | nestedNotice
  | xfthreshNotice
  | flockAbort
  | timeLimitExpiry
  | poolFlushTimeout
  | poolDrain
  | matrixOpExecute
  | matrixOpComplete
  | tileCopyToScratchpad
  | tileCopyToTensor
  | tileCopyComplete
  | xformCopy
  | xformCast
  | xformQuant
  | xformDequant
  | xformTrans
  | xformPack
  | xformUnpack
  | xformGather
  | xformScatadd
  | xformMxin
  | xformMxout
  | transformTurn
  | transformComplete
  | poolemptyResume
  | packedChainReclaim
  | logicalClockAdvance
  | bulkCopy
  | bulkFill
  | bulkSignal
  | bulkWait
  | taskRun
  | taskPool
  | taskCopy
  | taskXform
  | taskOffload
  | taskRecall
  | taskWait
  | taskSignal
  | taskAlloc
  | taskFree
  | taskFence
  | taskRepeat
  | taskEndrep
  | taskMark
  | collRun
  | collCreate
  | collDestroy
  | copyForward
  | allocZeroFill
  | taskEngineStreamComplete
  | taskRetire
  | taskFaultRecovery
  | sqctlEnable
  | sqctlResumeRetry
  | sqctlResumeSkip
  | sqwriteWrite
  | registerWrite
  | tlbinvPage
  | tlbinvAll
  | tlbinvComplete
  | chkpush
  | btvalWrite
  | bqdescEnable
  | bqdescDisable
  | expbaseWrite
  | crkctlLoad
  | crkProgramActivate
  | faultcmdReplay
  | faultcmdCancel
  | haltres
  | faultRingFree
  | dispatch
  | preempt
  | faultDecision
  | crkBudgetOverrun
  | sliceBoundary
  | grantDeadline
  | foldAreaWrite
  | wholeDeviceReset
  | partitionReset
  | functionLevelReset
  | partitionStart
  | firmwareImageStart
  | firmwareNudge
  | firmwareCoreRestart
  | bellWord
  | freezePin
  | freezeWrite
  | powerWindow
  | mbResync
  | mbResume
  | mbKeygen
  | mbKeyassign
  | mbKeyclear
  | mbAttest
  | mbPartcfg
  | hostRead
  | hostWrite
  | hostAtomicCompletion
  | peerAccess
  | peerAccessTimeout
  | uncorrFound
  | mctpReadout
  | mctpReadCertificate
  | mctpWritePwrlim
  | collSend
  | collRecv
  | collRrs
  | collLcopy
  | collCwait
  | collArm
  | collLoop
  | collEndl
  | collPeer
  | collCbar
  | collChunkSend
  | collChunkReceive
  | collCreateComplete
  | collRunComplete
  | collPeerAbort
  | collPeerdown
  | illegalWord
  | fetchBeyondCodeObject
  | illegalRecord
  | bulkQueueError
  | illegalStep
  | collCbarRelease
  | loadStoreDomainJoin
  | storageError
  deriving DecidableEq, Repr

end Sys2Proof
end

