-- ==== Sys2Proof/Machine/State.lean ====
section
/-! DEFINITION. The state of the YG-4: every piece of state the spec names, as plain data, and the state after a
whole-device reset. INVENTORY.md lists each field with its rule. Fields marked (model) are the model's own. -/
namespace Sys2Proof.Machine
open Sys2Proof

/-- Why the machine stops: no rule of the spec leads here. -/
inductive Fault where
  /-- A thread word was executed while no group issues a chain (State.issue is none). Raised by every meaning of a thread
  word; no turn of the rules leads here, only `exec` applied by itself, or an agenda that names a thread word as an event.
  Safe: nothing is claimed of such a state. -/
  | noIssuer
  deriving DecidableEq, Repr

/-- Why an instruction has no meaning. -/
inductive Refusal where
  /-- An arm of `exec` whose meaning is not written yet; safe. -/
  | notModelled (mnemonic : String)
  deriving DecidableEq, Repr

/-! ## Threads and warps -/

/-- A nested trap that holds its thread (R333): the cause it raised and its TRAPADDR. -/
structure HeldTrap where
  cause : Nat
  addr : DWord
  serial : Nat
  deriving DecidableEq, Repr

/-- Whether a thread lives, and what keeps it from issuing for good or for long (R129, R139, R326, R333, R336). -/
inductive Life where
  /-- a lane of a pool warp that never held a thread (R159) -/
  | absent
  | live
  /-- stopped by a trap with TRAPVEC.ENTRY = 0 (R32) -/
  | stopped
  /-- held by a nested trap (R333) -/
  | held (t : HeldTrap)
  /-- parked as a stray under a fault identifier, with its own faulting address (R336, R338) -/
  | stray (fid : Word) (addr : DWord)
  /-- has executed CONT to the pool of a task, with its TARGET: the record is formed once the words it carries are full and the area has
  room (R180) -/
  | cont (pool target : Nat)
  /-- ended by EXIT or CONT, waiting for its registers (R129, R158) -/
  | ending
  | ended
  deriving DecidableEq, Repr

/-- What holds a live thread with its group (R142). -/
inductive Hold where
  | none
  /-- at a JOIN since a cycle (R144), or released from it because JOINLIM has passed -/
  | join (since : Nat)
  | joinPast
  /-- at a WSYNC (R167), or released from it -/
  | wsync
  | wsyncPast
  /-- after HURDLE: the scope, the hurdle, the phases still to complete, and whether the thread arrives again when
  the first of two completes (R171) -/
  | hurdle (flock : Bool) (h : Nat) (left : Nat) (again : Bool)
  /-- at the stile with a gang round (R288), released from it, or told that its round has closed (R289) -/
  | stile
  | stilePast
  | stileBad
  /-- at an AWAIT, a decision-queue wait, a TLWAIT, a BWAIT or a BOWAIT (R142, R344) -/
  | wait
  /-- at a DQPOP or BRDQ until these lanes, which were parked as strays, have come to the same PC (R151) -/
  | strays (lanes : BitVec 32)
  deriving DecidableEq, Repr

/-- A thread (R14). -/
structure Thread where
  v : Vector Word 24
  full : BitVec 24
  g : BitVec 16
  pc : BitVec 24
  trapvec : Word
  trapen : Word
  srseed : Word
  trapcause : Word
  trappc : Word
  trapaddr : DWord
  trapMode : Bool
  seq : BitVec 30
  clockhi : Word
  arrived : BitVec 32
  life : Life
  hold : Hold
  /-- the wait count of its group (R142) -/
  wait : Nat
  deriving DecidableEq, Repr

/-- A yielded group and the threads that have still to issue or end (R143). -/
structure Yield where
  lanes : BitVec 32
  owed : BitVec 32
  deriving DecidableEq, Repr

/-- A warp, or a herder with its one thread (R138, R148). -/
structure Warp where
  threads : List Thread
  w : Vector Word 8
  wfull : BitVec 8
  fairness : BitVec 16
  joinlim : BitVec 16
  progress : Bool
  gang : Word
  /-- decision-queue entries consumed (R150) -/
  cursor : Nat
  /-- command words pushed to q0 and not yet a command (R178) -/
  q0 : List Word
  yields : List Yield
  /-- the slice it is bound to, and which of the slice's eight places it holds (R137, R142) -/
  slice : Nat
  slot : Nat := 0
  deriving DecidableEq, Repr

/-! ## Workgroups and flocks -/

/-- A word that a thread word of a matrix operation names: how its two descriptors read (R273). -/
structure Desc where
  word0 : Word
  word1 : Word
  deriving DecidableEq, Repr

/-- The kinds of matrix operation, in the order of KIND (R282). -/
inductive MatKind where | mma | mlut | mzero | mload | mstore | mstoresr
  deriving DecidableEq, Repr

/-- An accepted matrix operation (R279). -/
structure MatOp where
  kind : MatKind
  z : Bool
  token : Bool
  tile : Nat
  a : Desc
  b : Desc
  num : Nat
  /-- MSTORESR: k, and the unit, lane and SEQ that its random words belong to (R296) -/
  k : Nat
  u : Nat
  lane : Nat
  seq : BitVec 30
  srseed : Word
  /-- the warps whose earlier accesses its acceptance released, its cycle, and the chain that it came from (R279, R290, R336) -/
  units : Word := 0
  since : Nat := 0
  pc : Nat := 0
  started : Bool
  /-- what its stores reported: OVF, INV, SAT (R282) -/
  ovf : Bool
  inv : Bool
  sat : Bool
  deriving DecidableEq, Repr

/-- A tile-copy command that has been accepted and has not completed (R300-R302). -/
structure CopyCmd where
  words : List Word
  stampMask : Bool
  /-- its number in its workgroup (model, R268) -/
  num : Nat := 0
  /-- the record it read at acceptance, as bytes, once read (R298) -/
  record : Option (List Byte)
  /-- the thread that pushed its fourth word, and its chain (R342) -/
  u : Nat
  lane : Nat
  pc : Nat
  /-- rows moved so far and nibbles of the next one, their byte count, whether a mismatch was masked, and the error that ended it -/
  row : Nat
  part : Nat
  moved : Nat
  masked : Bool
  error : Nat
  finished : Bool
  /-- the fault identifier while a translation fault holds it -/
  fault : Option Word
  deriving DecidableEq, Repr

/-- A wait-qualified load that is not satisfied (R212, R242). -/
structure WaitLoad where
  /-- issuing unit and executing lanes; one lane but for a uniform load -/
  m : Nat
  u : Nat
  lanes : List Nat
  /-- the granule it waits on: member and granule number -/
  target : Nat
  granule : Nat
  addr : DWord
  clear : Bool
  size : Nat
  signed : Bool
  dest : Reg
  /-- the registers of the destination that no later write of the chain overrides (R55) -/
  keep : List Reg
  /-- the cycle it issued in, and the hurdles at which its thread has arrived since (R174, R269) -/
  since : Nat := 0
  owes : BitVec 32 := 0
  /-- its chain, and its address as its thread gave it -/
  pc : Nat := 0
  va : DWord := 0
  deriving DecidableEq, Repr

/-- A pop that waits for its word (R176, R179): queue 1 or 3, or 0 for the decision queue, with the entry index. -/
structure Pop where
  queue : Nat
  u : Nat
  lanes : List Nat
  dest : Reg
  entry : Nat
  deriving DecidableEq, Repr

/-- An open stile round (R288): mask, operation, and the warps that have arrived. -/
structure Round where
  mask : Word
  op : List Nat
  arrived : Word
  deriving DecidableEq, Repr

/-- A notice for a herder (R333, R335). -/
inductive Notice where
  | nested (u lane : Nat)
  | xfthresh (jcb : DWord)
  deriving DecidableEq, Repr

/-- The operation of another agent that writes (R268): a tile copy of a workgroup, a transform, with the flock
that issued it, or a bulk packet of a queue, by its number. -/
inductive WriteOp where
  | none
  | copy (f m n : Nat)
  | stream (f : Option Nat) (n : Nat)
  | bulk (q : Nat) (n : Word)
  deriving DecidableEq, Repr

/-- A workgroup (R152). -/
structure Workgroup where
  wgid : Nat
  member : Nat
  stage : Nat
  core : Nat
  /-- which of its core's four places it holds (R148, R280) -/
  slot : Nat := 0
  warps : List Warp
  herder : Option Warp
  /-- where its allocation lies in its core's scratchpad (R209) -/
  scratchAt : Nat := 0
  scratch : List Host.Cell
  /-- granule bits, 1 full (R211) -/
  granules : BitVec 24576
  tags : List DWord
  tagUse : BitVec 30
  /-- accumulator tiles, sparse by 64·i + j, an unlisted element +0 (R272) -/
  tiles : List (List (Nat × Word))
  /-- the number of the next matrix operation (R279) -/
  opnum : BitVec 16
  matQ : List MatOp
  q3 : List Word
  q3asked : Nat
  q1 : List Word
  q1asked : Nat
  /-- the number of the command of each token of q1, and of the commands accepted (model, R268) -/
  q1ops : List Nat := []
  copyNum : Nat := 0
  /-- what engine arrivals at barrier objects counted: the object, PHASE before the arrival, and the operation (R268, R303) -/
  counted : List (Nat × Nat × WriteOp) := []
  copies : List CopyCmd
  hurdles : List Word
  /-- decision queue: the held entries, and the index of the first (R150) -/
  dq : List Word
  dqBase : Nat
  notices : List Notice
  waits : List WaitLoad
  pops : List Pop
  rounds : List Round
  ended : Bool
  deriving DecidableEq, Repr

/-- What a launch fixes for its flocks (R189, R155, R157). -/
structure Launch where
  code : Nat
  codelen : Nat
  contract : Nat
  /-- the launch image's address, and PARAM and PARAMLEN as the window read them (R189-R191) -/
  param : DWord
  params : Nat := 0
  paramLen : Nat := 0
  lseed : Word
  lattice : Bool
  stride : Word
  limit : Nat
  fair : Nat
  progress : Bool
  scratch : Nat
  tags : Nat
  acc : Nat
  wg : Nat
  m : Nat
  s : Nat
  nx : Nat
  ny : Nat
  nz : Nat
  /-- the pool number, and for a pool .pool n, record capacity, flush timeout and record area -/
  pool : Option Nat
  poolN : Nat
  capacity : Nat
  flush : Nat
  area : Nat
  /-- debug mode when the task was decoded (R360) -/
  debug : Bool
  /-- the cycle in which the task issued (R261) -/
  issuedAt : Nat := 0
  deriving DecidableEq, Repr

/-- Where a flock is in its life (R153, R339, R344). -/
inductive FlockStatus where
  | resident
  /-- stopped for pre-emption, its fold area still to be written; the code and FID of a BKPT halt, if one (R344) -/
  | folding (halt : Option (Nat × Word))
  /-- folded at an address; the code and FID of its halt until HALTRES names it, if one -/
  | folded (base : Nat) (halt : Option (Nat × Word))
  /-- stopping to be aborted with a cause; the unit and lane that caused it (R339) -/
  | aborting (cause m u lane : Nat) (addr : DWord) (pc : Nat)
  | aborted
  | retired
  deriving DecidableEq, Repr

/-- A mark that a fault command left on a stray of a folded flock (R338). -/
structure StrayMark where
  fid : Word
  cancel : Bool
  mask : Word
  deriving DecidableEq, Repr

/-- A flock. -/
structure Flock where
  p : Nat
  seq : Nat
  launch : Launch
  x : Nat
  y : Nat
  z : Nat
  wgs : List Workgroup
  hurdles : List Word
  status : FlockStatus
  placedAt : Nat
  preempted : Nat
  marks : List StrayMark
  deriving DecidableEq, Repr

/-- A long-latency result in flight (R24), with the cause bits it raised: one lane's, or a uniform word's. -/
structure Landing where
  f : Nat
  m : Nat
  u : Nat
  lanes : List Nat
  dests : List Reg
  vals : List Word
  pipeF : Bool
  inv : Bool
  ovf : Bool
  /-- a host AtomicOp whose completion has not come (R248) -/
  host : Bool
  /-- the rank of the peer device whose answer it awaits (R380) -/
  peer : Option Nat
  /-- the chain and the address of such an access (R336), and its cycle (R380) -/
  pc : Nat := 0
  addr : DWord := 0
  since : Nat := 0
  deriving DecidableEq, Repr

/-- A request for a random word (R96): CVTSR converts it, QPOP delivers it. -/
structure RandomRequest where
  f : Nat
  m : Nat
  u : Nat
  lanes : List Nat
  lane : Nat
  seq : BitVec 30
  srseed : Word
  dest : Reg
  /-- none: QPOP; some: the source word, k and whether E4M3 -/
  convert : Option (Word × Nat × Bool)
  /-- a later write in the same chain overrides the result (R55) -/
  drop : Bool
  deriving DecidableEq, Repr

/-! ## Issue and agents (model) -/

/-- An effect of a chain that comes after the effects of its other words (R129, R164, R180, R329-R331). -/
inductive Deferred where
  | exit (lane : Nat)
  | cont (lane pool target : Nat)
  | trap (lane code : Nat)
  | tret (lane : Nat)
  | bkpt (code lane : Nat)
  | yield
  deriving DecidableEq, Repr

/-- A leaf that a walk found: the start of its page, its size, and the entry's fields (R219); CLASS is cls. -/
structure Leaf where
  start : Nat
  size : Nat
  frame : Nat
  r : Bool
  w : Bool
  stamp : Nat
  key : Nat
  packed : Bool
  mut_ : Bool
  cls : Nat := 0
  deriving DecidableEq, Repr

/-- The chain being issued (model): its unit, the threads of the group, where it starts, the index of the word being
executed, the index after it, and the registers that its words read (R21). -/
structure Issue where
  f : Nat
  m : Nat
  u : Nat
  lanes : List Nat
  pc : Nat
  here : Nat
  next : Nat
  snap : Warp
  /-- the chain cannot issue yet: a register is empty, a queue is full, a wait is not over -/
  blocked : Bool
  /-- the group is held before issue at a JOIN, a WSYNC or the stile -/
  held : Option Hold
  /-- traps raised: lane, cause, address; and translation faults: lane, address, detail (R336) -/
  traps : List (Nat × Nat × DWord)
  strays : List (Nat × DWord × Nat)
  deferred : List Deferred
  /-- the chain issues: what its words ask before that is settled (R21) -/
  going : Bool := false
  /-- the threads of the group in which the chain takes no effect, once it issues: they trap or stray (R21, R326, R336) -/
  gone : List Nat := []
  /-- the addresses that the chain's memory word has looked up and the pages it has found, the lines and blocks that it has asked for, and
  the blocks of packed pages that it has fetched, by the address of the map word (R223, R231) -/
  looks : List Nat := []
  pages : List Leaf := []
  asked : List (Nat × Nat) := []
  blocks : List (Nat × List Byte) := []
  deriving DecidableEq, Repr

/-- The operands of an event (model): which partition, index, member, unit and lane it concerns, and values. -/
structure Subject where
  p : Nat := 0
  k : Nat := 0
  m : Nat := 0
  u : Nat := 0
  lane : Nat := 0
  x : DWord := 0
  y : DWord := 0
  on : Bool := false
  bytes : List Byte := []
  deriving DecidableEq, Repr

/-- Which agent moves in a step (model, log 3). -/
inductive Turn where
  | event (i : Instr) (on : Subject)
  | slice (core sl : Nat)
  | scalar (core : Nat)
  | crook (p : Nat)
  deriving DecidableEq, Repr

/-! ## Engines -/

/-- A layout record as an engine read it (R298). -/
structure Layout where
  base : Nat
  ext0 : Nat
  ext1 : Nat
  ext2 : Nat
  stride1 : Nat
  stride2 : Nat
  etype : Nat
  box0 : Nat
  box1 : Nat
  sbase : Nat
  se : Nat
  scl : Nat
  bad : Bool
  deriving DecidableEq, Repr

/-- A transform stream (R315-R319). -/
structure Stream where
  p : Nat
  /-- its number (model, R268) -/
  num : Nat := 0
  die : Nat
  op : Nat
  k : Nat
  contract : Nat
  stampMask : Bool
  jcb : Nat
  src : Nat
  dst : Nat
  /-- the records of the source and the destination, once read, and the error code of one that was refused when the stream was accepted (R298) -/
  srcRec : Option Layout
  dstRec : Option Layout
  refusal : Nat
  /-- the issuing workgroup, its thread and chain, and its barrier object; or the task -/
  wg : Option (Nat × Nat)
  u : Nat := 0
  lane : Nat := 0
  pc : Nat := 0
  bar : Option Nat
  task : Option Nat
  /-- random words: key words, lattice stride, and the counter of element 0 -/
  lattice : Option Word
  ka : Word
  kb : Word
  counter : Nat
  /-- elements done, and what the stream has counted since it last wrote the JCB -/
  pos : Nat
  /-- scales chosen for squares or blocks whose first element has been reached, by their index (R317) -/
  chosen : List (Nat × Nat)
  /-- thresholds crossed: bit 0 SAT, 1 FTZ, 2 NAN (R318) -/
  flags : Nat
  masked : Bool
  error : Nat
  active : Bool
  started : Bool
  finished : Bool
  /-- in a pen, and why: a fault identifier, or POOLEMPTY -/
  penned : Bool
  fault : Option Word
  /-- chunks it waits for, with reason POOLEMPTY; 0 if none -/
  need : Nat
  /-- its STATUS is not written: a fault on it was cancelled (R318) -/
  noStatus : Bool := false
  /-- the cycle of its latest turn (R320) -/
  turnAt : Nat
  deriving DecidableEq, Repr

/-- The stream's layout records, once both are read. -/
def Stream.layouts (t : Stream) : Option (Layout × Layout) :=
  match t.srcRec, t.dstRec with | some a, some b => some (a, b) | _, _ => none

/-- A swap of a block's map word by a transform: the block, the stream, the bytes that the block held before, and the cycle (R320). -/
structure Swap where
  block : Nat
  p : Nat
  jcb : Nat
  old : List Byte
  since : Nat
  deriving DecidableEq, Repr

/-- An enabled bulk queue (R310): what its descriptor gave, how far it has come, and what it is about. -/
structure BulkQueue where
  desc : Nat
  /-- whether the descriptor has been read -/
  bound : Bool
  ring : Nat
  log2 : Nat
  tl : Nat
  countbase : Nat
  read : Word
  done : Nat
  /-- the packet in progress has made its start transition; bytes of it already moved -/
  begun : Bool
  moved : Nat
  stopped : Bool
  /-- what of a packet that is done has still to be written, 0 nothing, 1 word 0 and READ, 2 READ; whether it interrupts, and whether it stops
  the queue (R311, R312) -/
  ending : Nat := 0
  irq : Bool := false
  halts : Bool := false
  /-- EN has been cleared while a packet is in progress -/
  closing : Bool
  fault : Option Word
  deriving DecidableEq, Repr

/-! ## The task window -/

/-- A region slot of a task as it was decoded: kind 1 or 2, mode, hull, and what it is bound to (R187, R195). -/
structure Region where
  kind : Nat
  mode : Nat
  buf : Nat
  offset : Nat
  rowbytes : Nat
  rows : Nat
  pitch : Nat
  inplace : Bool
  /-- logical: the physical handle; fixed: base, target, peer -/
  handle : Nat
  base : Nat
  target : Nat
  peer : Nat
  deriving DecidableEq, Repr

/-- A version that a task made current: logical buffer, handle, the previous one, and whether it is still to be
initialised from it (R195), or zero-filled (R198). -/
structure NewVersion where
  buf : Nat
  handle : Nat
  size : Nat
  prev : Option Nat
  copy : Bool
  zero : Bool
  deriving DecidableEq, Repr

/-- A logical buffer that is bound: size and current handle (R194). -/
structure Binding where
  size : Nat
  handle : Nat
  deriving DecidableEq, Repr

/-- Where a task is in the window. -/
inductive TaskStatus where
  | decoded
  | issued
  | completed
  | faulted (cause detail : Nat)
  deriving DecidableEq, Repr

/-- A task in the window (R193). -/
structure Task where
  /-- its record as decode read it, 128 bytes (R185, R369) -/
  raw : List Byte := []
  seq : Nat
  index : Nat
  op : Nat
  flags : Nat
  arg : Nat
  ptr : Nat
  tlc : Nat
  regions : List (Option Region)
  news : List NewVersion
  /-- the bindings, the open REPEAT records, the depth of a skipped body and the epoch tag before this record was decoded (R202, R204) -/
  before : List (Option Binding)
  repeats : List (Word × Nat)
  skipping : Nat := 0
  epoch : Word
  /-- handles that this task supersedes (R197) -/
  superseded : List Nat
  status : TaskStatus
  /-- the cycle in which it became ready (R356) -/
  readyAt : Option Nat
  launch : Option Launch
  /-- debug mode when the task was decoded (R360) -/
  debug : Bool
  /-- RUN: flocks placed so far; POOL: warps placed so far -/
  placed : Nat
  /-- cycles counted against the time limit, and whether counting has begun (R362) -/
  ticked : Nat
  ticking : Bool
  /-- engine stream: bytes moved, its error code once it has ended (0 none), and the fault that holds it -/
  moved : Nat
  ended : Option Nat
  fault : Option Word
  /-- a RECALL by the shortcut, and its OFFLOAD's sequence number (R324) -/
  shortcut : Option Nat
  deriving DecidableEq, Repr

/-- A recall link on a buffer-table entry (R323). -/
structure RecallLink where
  entry : Nat
  handle : Nat
  size : Nat
  region : Region
  task : Nat
  deriving DecidableEq, Repr

/-- A continuation record in a pool's sorter (R158): its bytes as words and when it arrived. -/
structure ContRecord where
  words : List Word
  arrived : Nat
  deriving DecidableEq, Repr

/-- A live pool (R157-R159). -/
structure Pool where
  number : Nat
  seq : Nat
  records : List ContRecord
  /-- warps formed since its launch, and of these the ones not placed yet: WGID and records (R159, R353) -/
  formed : Nat
  warps : List (Nat × List ContRecord) := []
  deriving DecidableEq, Repr

/-- The TARGET of a record. -/
def ContRecord.target (r : ContRecord) : Nat := (nth 0 r.words 0).toNat
/-- A pool's records without the first n of a bin. -/
def dropBin (target : Nat) : Nat → List ContRecord → List ContRecord
  | _, [] => []
  | 0, rs => rs
  | n + 1, r :: rs => if r.target = target then dropBin target n rs else r :: dropBin target (n + 1) rs
/-- The records of a bin, in arrival order, and the targets that have records. -/
def Pool.bin (q : Pool) (target : Nat) : List ContRecord := q.records.filter fun r => r.target == target
def Pool.targets (q : Pool) : List Nat := (q.records.map ContRecord.target).eraseDups
/-- The sorter forms a warp from the first records of a bin, at most 32 (R159): its WGID counts the warps formed before it (log 83). -/
def Pool.form (q : Pool) (target : Nat) : Pool :=
  match (q.bin target).take 32 with
  | [] => q
  | rs => { q with formed := q.formed + 1, warps := q.warps ++ [(q.formed % 2 ^ 23, rs)], records := dropBin target rs.length q.records }
/-- The sorter forms a warp of each bin that holds 32 records (R159). -/
def Pool.formFull : Nat → Pool → Pool
  | 0, q => q
  | n + 1, q =>
    match q.targets.find? fun x => decide (32 ≤ (q.bin x).length) with
    | some x => (q.form x).formFull n
    | none => q
/-- The sorter takes records. -/
def Pool.take (q : Pool) (rs : List ContRecord) : Pool :=
  let q := { q with records := q.records ++ rs }
  q.formFull q.records.length
/-- The sorter empties every bin (R159). -/
def Pool.drain (q : Pool) : Pool := q.targets.foldl Pool.form q
/-- Records that a pool's area holds: those of warps not placed yet among them. -/
def Pool.held (q : Pool) : Nat := q.warps.foldl (fun a w => a + w.2.length) q.records.length

/-- What a fault record reports, so that a fault command can find it (R336, R337). -/
inductive FaultContext where
  | stray (f m u : Nat)
  | tileCopy (f m : Nat)
  | transform (jcb : Nat)
  | bulk (q : Nat)
  | task (seq : Nat)
  | halt (f : Nat)
  | abort (f : Nat)
  deriving DecidableEq, Repr

/-- A fault record (R336), and whether it is still to be decided by the crook program (R352). -/
structure FaultRec where
  fid : Word
  kind : Nat
  detail : Nat
  seq : Nat
  wgid : Nat
  lanes : Word
  lane : Nat
  warp : Nat
  va : DWord
  context : FaultContext
  at_ : Nat
  pending : Bool
  decide : Bool
  deriving DecidableEq, Repr

/-- A crook program that passed its check (R359). -/
abbrev Program := List Word

/-- A crook run in progress (R357): decision kind, candidates' fields, the index of the candidate, the operation
index, registers, scores and verdicts, interpreter cycles. -/
structure CrookRun where
  kind : Nat
  /-- a PREEMPT that a DISPATCH winner asked for -/
  asked : Bool := false
  /-- the candidates: task sequence numbers, flocks, or the fault identifier -/
  cands : List Nat
  fields : List (List Word)
  globals : List Word
  cand : Nat
  op : Nat
  k : Vector Word 16
  scores : List Int
  verdict : Nat
  cycles : Nat
  overBudget : Bool
  deriving DecidableEq, Repr

/-! ## Collectives -/

/-- A contribution to a pooled reduction (R400), an own one that has left or another member's that has arrived: the member, the number of its
pooled SEND, its chunk, LEN, RED and values. -/
structure Contribution where
  member : Nat
  index : Nat
  chunk : Nat
  len : Nat
  red : Nat
  data : List Byte
  deriving DecidableEq, Repr

/-- A chunk as it arrives (R396): the member it came from, the number of its send, the send's length, the DTYPE if it is compressed, and its
bytes. -/
structure Arrival where
  member : Nat
  index : Nat
  len : Nat
  comp : Option Nat
  data : List Byte
  deriving DecidableEq, Repr
/-- A chunk staged in the pool (R396): the same, with the pool buffer that holds its bytes, and how many they are. -/
structure StagedChunk where
  member : Nat
  index : Nat
  len : Nat
  comp : Option Nat
  slot : Nat
  size : Nat
  deriving DecidableEq, Repr

/-- What has come for the next RUN before it issues here (R396, R400): the chunks staged in the pool, how many have come from each member, the
contributions to its pooled reductions, and the abort code and member with which it will fail, if one of them was wrong. -/
structure Early where
  staged : List StagedChunk := []
  chunksIn : List (Nat × Nat) := []
  contributions : List Contribution := []
  fail : Option (Nat × Nat) := none
  deriving DecidableEq, Repr

/-- A communicator (R386, R387): its descriptor's fields, the rank words of its members, its contract, the ordinal of its last
RUN, and the ordinals that another member has aborted. -/
structure Communicator where
  id : Nat
  ranks : List Nat
  own : Nat
  contract : Nat
  tag : DWord
  isSealed : Bool
  vc : Nat
  prio : Nat
  efbase : Nat
  eflen : Nat
  poolbase : Nat
  pooln : Nat
  abortbase : Nat
  ordinal : Nat
  aborts : List Nat
  /-- the count of free values taken when its keys were agreed (R403) -/
  agreed : Nat := 0
  early : Early := {}
  deriving DecidableEq, Repr

/-- A CREATE that has issued (R388): its task, the address of its descriptor, what it would create, REQ, and since when. -/
structure Creating where
  seq : Nat
  desc : Nat
  comm : Communicator
  req : Nat
  since : Nat
  deriving DecidableEq, Repr

/-- A local range of a step (R392): slot, byte offset in the slot's region, and its address. -/
structure LocalRange where
  slot : Nat
  off : Nat
  va : Nat
  deriving DecidableEq, Repr

/-- What a started transfer is (R394). -/
inductive TransferKind where | send | recv | rrs | copy | poolSend | poolRecv
  deriving DecidableEq, Repr

/-- A started transfer or an armed send (R394-R400): its ranges, RED, counter and threshold; the members it goes to and comes
from with its number among the sends and receives of that pair; the bytes it has taken in and sent, and the results of an RRS
that are still to be sent. -/
structure Transfer where
  kind : TransferKind
  src : Option LocalRange
  dst : Option LocalRange
  len : Nat
  red : Nat
  ctr : Nat
  thr : Nat
  cnt : Bool
  comp : Bool
  dest : Option (Nat × Nat)
  source : Option (Nat × Nat)
  index : Nat
  got : Nat
  out : Nat
  results : List (List Byte)
  /-- a transfer of no bytes whose length has still to be compared with its match (R396, R400) -/
  unmatched : Bool := false
  deriving DecidableEq, Repr

/-- An open loop (R395): the step after its LOOP, its iterations, and the iteration index. -/
structure LoopLevel where
  start : Nat
  count : Nat
  iter : Nat
  deriving DecidableEq, Repr

/-- A collective run (R390-R400). -/
structure CollRun where
  seq : Nat
  comm : Nat
  ordinal : Nat
  root : Nat
  mask : Bool
  steps : List (List Byte)
  pos : Nat
  loops : List LoopLevel
  counters : List Nat
  /-- P0 to P3: a virtual peer, or absent -/
  peers : List (Option Nat)
  started : List Transfer
  armed : List Transfer
  /-- sends and receives started by member, and the chunks sent to and received from each -/
  sends : List (Nat × Nat)
  recvs : List (Nat × Nat)
  chunksOut : List (Nat × Nat)
  chunksIn : List (Nat × Nat)
  poolSends : Nat
  poolRecvs : Nat
  staged : List StagedChunk
  contributions : List Contribution
  /-- the program is at a CBAR, and has told the others -/
  atBar : Bool
  /-- the cycle of its last progress, and since when a ready chunk has waited (R398, R404) -/
  since : Nat
  ready : Option Nat
  /-- hull chunks that a step has written: slot and chunk (R405) -/
  written : List (Nat × Nat)
  deriving DecidableEq, Repr

/-- What has left on a communicator's virtual channel (model): a chunk for a member, or for every member (none), with the
number of its send and its bytes as they travel; or the notice of an abort (R396, R404). -/
structure CollMessage where
  comm : Nat
  ordinal : Nat
  member : Option Nat
  index : Nat
  notice : Bool
  data : List Byte
  deriving DecidableEq, Repr

/-! ## Partitions -/

/-- The configuration record of a partition (R350). -/
structure PartConfig where
  gbase : Nat
  glen : Nat
  hvbase : Nat
  counts : List Nat
  deriving DecidableEq, Repr

/-- The stream control block (R182). -/
structure StreamBlock where
  base : DWord := 0
  log2 : Nat := 4
  write : Word := 0
  read : Word := 0
  overrun : Bool := false
  faulted : Bool := false
  enable : Bool := false
  quota : Nat := 16
  cause : Nat := 0
  detail : Nat := 0
  fseq : DWord := 0
  fidx : Word := 0
  space : DWord := 0
  img : DWord := 0
  deriving DecidableEq, Repr

/-- An invalidation of translations (R222): the cycle of the write to TLBINV, and the start and size of the page it names, none for ALL. -/
structure TlbInv where
  since : Nat
  page : Option (Nat × Nat)
  deriving DecidableEq, Repr

/-- A leaf entry that a walk has read: its physical address, the start and size of its page, and the cycle (R221). -/
structure Walked where
  at_ : Nat
  start : Nat
  size : Nat
  since : Nat
  deriving DecidableEq, Repr

/-- The memory control block (R217). -/
structure MemBlock where
  ptroot : DWord := 0
  l2ways : DWord := 0
  /-- the invalidation in progress: BUSY while there is one (R222) -/
  tlbWork : Option TlbInv := none
  /-- invalidations that have completed, since the last of ALL, and the values PTROOT had, each with the cycle of its end (R222) -/
  tlbDone : List TlbInv := []
  oldRoots : List (Nat × Nat) := []
  /-- the leaf entries that walks have read and no invalidation has covered since (R221) -/
  walked : List Walked := []
  tlbLost : Bool := false
  chkbase : DWord := 0
  chklink : DWord := 0
  chksize : Word := 0
  chklow : Word := 0
  low : Bool := false
  /-- the free list: CHKAVAIL, head and tail (R234) -/
  avail : Nat := 0
  head : Nat := 0
  tail : Nat := 0
  deriving DecidableEq, Repr

/-- The engine control block (R309) and what it shows. -/
structure EngineBlock where
  ltbase : DWord := 0
  btidx : Nat := 0
  tlidx : Nat := 0
  bqdesc : List DWord := List.replicate 16 0
  /-- timeline counters other than 0, sparse (R306) -/
  timeline : List (Nat × DWord) := []
  /-- buffer table, sparse, 0 FREE (R313) -/
  buffers : List (Nat × Nat) := []
  /-- the packets that made entries FULL (R268, R314) -/
  filled : List (Nat × WriteOp) := []
  bulk : List (Option BulkQueue) := List.replicate 16 none
  deriving DecidableEq, Repr

/-- The scheduler control block (R360) and the interpreter. -/
structure SchedBlock where
  crksrc : DWord := 0
  len : Nat := 0
  load : Bool := false
  erridx : Nat := 0
  gen : BitVec 16 := 0
  err : Bool := false
  shadow : Option Program := none
  active : Option Program := none
  overrun : Word := 0
  g : List Word := List.replicate 8 0
  faultmask : Word := 0
  debug : Bool := false
  sdbase : DWord := 0
  sdlog2 : Nat := 8
  sdwrite : Word := 0
  sdovf : Word := 0
  grant : Nat := 0
  /-- the cycle of the slice boundary that gave the grant (R351) -/
  grantAt : Nat := 0
  run : Option CrookRun := none
  /-- pending decisions of kind PREEMPT that a DISPATCH winner asked for, by the cycles in which they arose (R352); those that the grant forces
  follow from the state (R351) -/
  preempts : List Nat := []
  deriving DecidableEq, Repr

/-- A partition. -/
structure Partition where
  sq : StreamBlock := {}
  mem : MemBlock := {}
  eng : EngineBlock := {}
  sched : SchedBlock := {}
  config : Option PartConfig := none
  pendingConfig : Option PartConfig := none
  started : Bool := false
  /-- a write of 1 to SQCTL.ENABLE held until the free lists are complete (R349) -/
  enableHeld : Bool := false
  nextSeq : Nat := 1
  /-- open REPEAT records: index of the record, passes left (R202) -/
  repeats : List (Word × Nat) := []
  epoch : Word := 0
  buffers : List (Option Binding) := List.replicate 256 none
  /-- free lists of the five size classes, smallest class first (R194) -/
  free : List (List Nat) := [[], [], [], [], []]
  /-- total handles of each class -/
  totals : List Nat := [0, 0, 0, 0, 0]
  /-- superseded handles that wait for the tasks bound to them (R197) -/
  leaving : List Nat := []
  /-- the decoder skips the body of a REPEAT of 0: its depth (R202) -/
  skipping : Nat := 0
  window : List Task := []
  links : List RecallLink := []
  pools : List Pool := []
  ring : List FaultRec := []
  waitingRecs : List FaultRec := []
  faults : List FaultRec := []
  ringOverflow : Nat := 0
  /-- the ring's indices, and the fault interrupts raised at the firmware core (R361) -/
  ringWrite : Word := 0
  ringRead : Word := 0
  faultIrq : Nat := 0
  nextFid : Word := 0
  expbase : DWord := 0
  /-- the export entries as they are cached (R380) -/
  exports : Option (List Byte) := none
  mbcmd : DWord := 0
  mbarg : DWord := 0
  mbstat : Word := 0
  measure : List Byte := List.replicate 64 0
  bell : DWord := 0
  /-- interrupts raised at the firmware core: for the chunk pool (R234), and by bulk queues (R312) -/
  poolIrq : Nat := 0
  bulkIrq : Nat := 0
  comms : List Communicator := []
  creates : List Creating := []
  colls : List CollRun := []
  /-- the communicator that the engine served last of each PRIO (R398), and what has left (model) -/
  collLast : List Nat := [63, 63, 63, 63]
  sent : List CollMessage := []
  keys : List Nat := []
  deriving DecidableEq, Repr

/-! ## The device -/

/-- Where check bits fail (R341, R342): an HBM code word of 32 bytes, an aligned 8 bytes of a line that the L2 holds, a cached translation
of the page that starts at a virtual address of a partition, a register, an aligned 8 bytes of a scratchpad, an accumulator tile, a tag entry. -/
inductive BadWord where
  | hbm (w : Nat)
  | l2 (w : Nat)
  | tlb (p start : Nat)
  | reg (f m u lane : Nat) (r : Reg)
  | scratch (f m w : Nat)
  | tile (f m t : Nat)
  | tag (f m slot : Nat)
  deriving DecidableEq, Repr

/-- Who writes to HBM beside the core threads: its class as an observer mask numbers it (R58), and for an engine the partition, the task that it
works for, and the operation. -/
structure Writer where
  cls : Nat
  p : Nat := 0
  seq : Option Nat := none
  op : WriteOp := .none
  deriving DecidableEq, Repr
/-- A write of another agent to an aligned unit of HBM, or to a block of a packed page, that has not yet entered the single order
(R267): who writes, the cycle of its home step, the block's map word if there is one, where the unit
starts (in HBM, or in the block), the key serial it was written under, and what the core threads may still read instead. -/
structure LateWrite where
  writer : Writer
  since : Nat
  block : Option Nat
  start : Nat
  key : Nat
  old : List Byte
  deriving DecidableEq, Repr

/-- A line of 128 bytes of HBM that the L2 of its home die holds (R225): its number, its way, the key slot under which it was read or
written, and while it is dirty what HBM still holds: the serial number of the key it stands under there, and its bytes under that key. -/
structure L2Line where
  line : Nat
  way : Nat
  slot : Nat
  dirty : Option (Nat × List Byte)
  deriving DecidableEq, Repr

/-- A copy that a core keeps under a lease (R262): of a line of HBM, or of a block of a packed page (named by its map word's address), where
it starts there, the serial number of the key it was read under, its bytes, the end of its lease, and the writes of other agents that it carries
though they had not entered the single order (R267). -/
structure Copy where
  core : Nat
  block : Option Nat
  start : Nat
  key : Nat
  data : List Byte
  leaseEnd : Nat
  news : List LateWrite := []
  deriving DecidableEq, Repr

/-- A valid page-table entry that a write replaced (R222): its physical address, the key serial it stood under, its value, and the cycle of
the write. A translation cached before then may still be in use. -/
structure OldEntry where
  at_ : Nat
  key : Nat
  value : Nat
  since : Nat
  deriving DecidableEq, Repr

/-- A word of a code object in use that a store replaced (R261): its partition and virtual address, its value, and the cycle of the store. -/
structure OldWord where
  p : Nat
  va : Nat
  value : Nat
  since : Nat
  deriving DecidableEq, Repr

/-- A range of a peer's memory that its export table opens to a partition of this device (model: what another device
holds; log 21). -/
structure PeerGrant where
  rank : Nat
  p : Nat
  base : Nat
  length : Nat
  write : Bool
  deriving DecidableEq, Repr

/-- A request that the device sent to the host (R374): the function whose requester ID it carries, 0 the PF, and its bus address, length and
kind. -/
inductive HostOp where | read | write | fetchAdd | swap | cas
  deriving DecidableEq, Repr
structure HostRequest where
  fn : Nat
  addr : Nat
  len : Nat
  op : HostOp
  deriving DecidableEq, Repr

/-- The physical function's registers and other device state (R377, R381, R383). -/
structure Device where
  /-- the fuses that DEVCAP reports (R1, R2, R371, R377): the B grade, the enabled physical clusters and HBM stacks; a whole A-grade part
  unless another is given (log 5) -/
  gradeB : Bool := false
  clusterMap : BitVec 48 := BitVec.allOnes 48
  stackMap : BitVec 8 := BitVec.allOnes 8
  rank : Nat := 0
  belladdr : DWord := 0
  frozen : Bool := false
  pwrlim : Nat := 2400
  pwrnow : Nat := 0
  throttle : Bool := false
  fwstat : Word := 0
  mbcmd : DWord := 0
  mbarg : DWord := 0
  mbstat : Word := 0
  eccdie : List DWord := List.replicate 5 0
  eccstk : List DWord := List.replicate 8 0
  atomicEnable : Bool := false
  dm0 : List Byte := List.replicate 64 0
  dm1 : List Byte := List.replicate 64 0
  /-- key slots that hold a key: slot to serial number of the key, 0 empty; slot 1,023 is the firmware's (R381) -/
  slots : List (Nat × Nat) := []
  /-- the serial number of the next key; 2 stands for no encryption -/
  keySerial : Nat := 3
  bell : DWord := 0
  sliceNo : Nat := 0
  msix : List (Nat × Nat) := []
  /-- firmware cores that run an image, root first, each one's private memory of 256 KiB, sparse, and the interrupts that nudges raised at them
  (R364, R366, R382) -/
  coresOn : List Bool := List.replicate 17 false
  coreMem : List (List Host.Cell) := List.replicate 17 []
  nudges : List Nat := List.replicate 17 0
  /-- physical addresses of uncorrectable errors found without a consumer, as reported to the firmware (R342) -/
  errors : List Nat := []
  /-- the answer to the last host, peer or management read: none, refused (R369, R377, R380) -/
  reply : Option (List Byte) := none
  joined : Bool := false
  /-- requests sent to the host, oldest first (R374) -/
  requests : List HostRequest := []
  peerGrants : List PeerGrant := []
  deriving DecidableEq, Repr

/-- A chain of a packed block that leases still protect (R232, R265): its chunks, the end of the last lease on its map
word in logical time, and the cycle in which the map word was replaced. -/
structure Reclaim where
  p : Nat
  chunks : List Nat
  leaseEnd : Nat
  since : Nat
  deriving DecidableEq, Repr

structure State where
  /-- every flock that was ever placed, retired ones too, in the order of their placement -/
  flocks : List Flock
  partitions : List Partition
  device : Device
  streams : List Stream
  /-- how many streams have been submitted (model) -/
  streamNum : Nat
  landings : List Landing
  randoms : List RandomRequest
  reclaims : List Reclaim
  /-- the swaps that a stream's turn in progress may have read before (R320) -/
  swaps : List Swap
  hbm : List Host.Cell
  /-- the key serial each 128-byte line was written under, sparse, 0 never written (R227) -/
  lineKeys : List (Nat × Nat)
  /-- the lines that the L2 of the four dies hold, the one used last first (R225, R226) -/
  l2 : List L2Line
  hostMem : List Host.Cell
  /-- HBM of peer devices, by rank · 2^39 + offset, and their virtual spaces, by rank · 2^56 + address (R215, R188) -/
  peerMem : List Host.Cell
  peerSpace : List Host.Cell
  bad : List BadWord
  /-- writes of engines, peers and the host that have not entered the single order, oldest first (R267) -/
  late : List LateWrite
  /-- words that could be valid page-table entries and were overwritten, oldest first (R222) -/
  oldEntries : List OldEntry
  /-- words of code objects in use that were overwritten, oldest first (R261) -/
  oldCode : List OldWord
  /-- how far the logical clocks of cores stand beyond their idle advance of one tick in 32 cycles, sparse; the write time and the lease end of
  lines at their homes, sparse; and the copies that cores keep (R262) -/
  clocks : List (Nat × Nat)
  homes : List (Nat × (Nat × Nat))
  copies : List Copy
  /-- the place after that of the warp chosen last on each slice, sparse by 16·core + slice; of the workgroup whose herder was chosen last by
  core; and of the one whose matrix operation was taken last (R142, R148, R280) -/
  sliceLast : List (Nat × Nat)
  scalarLast : List (Nat × Nat)
  matLast : List (Nat × Nat)
  /-- the partition whose waiting stream took the last free place of a die's transform engine, sparse, 15 none (R348) -/
  dieLast : List (Nat × Nat)
  /-- the cycle, one a step (log 4) -/
  cycle : Nat
  issue : Option Issue
  subject : Subject
  agenda : List Turn
  turn : Nat
  /-- the loader's choices (model, log 34; R155), by the flock's place in State.flocks: which of the places that fit it takes, 0 the first; and
  where in its field the search for the next flock to place begins, sparse, else the count of those placed -/
  cores : List (Nat × Nat)
  order : List (Nat × Nat)
  /-- how many free values have been taken (model) -/
  fresh : Nat
  deriving DecidableEq, Repr

/-- The machine after a whole-device reset (R9): every field at its Reset value. -/
def State.reset : State where
  flocks := []
  partitions := List.replicate 16 {}
  device := {}
  streams := []
  streamNum := 0
  landings := []
  randoms := []
  reclaims := []
  swaps := []
  hbm := []
  lineKeys := []
  l2 := []
  hostMem := []
  peerMem := []
  peerSpace := []
  bad := []
  late := []
  oldEntries := []
  oldCode := []
  clocks := []
  homes := []
  copies := []
  sliceLast := []
  scalarLast := []
  matLast := []
  dieLast := []
  cycle := 0
  issue := none
  subject := {}
  agenda := []
  turn := 0
  cores := []
  order := []
  fresh := 0

end Sys2Proof.Machine
end

