-- ==== Sys2Proof/WellFormed.lean ====
section
/-! DEFINITION. Which instructions the encoding admits: the register, range and selector conditions of R15, R40, R46,
R49, R50, R51, R58, R59, R278 and R355. A word that breaks one is ILLEGAL. -/
namespace Sys2Proof

/-- Whether a field names a w register. -/
def Reg.isW : Reg → Bool | .v _ => false | .w _ => true
/-- The number of a register field (R49). -/
def Reg.code : Reg → Nat | .v n => n.val | .w n => 24 + n.val
/-- Whether a field names a pair (R15). -/
def Reg.pair (r : Reg) : Bool := r.code % 2 == 0
/-- Whether a field names a four (R15). -/
def Reg.four (r : Reg) : Bool := r.code % 4 == 0
/-- The register at offset k in the pair or four that a field names; the field itself at offset 0. -/
def Reg.at (r : Reg) (k : Nat) : Reg :=
  match r with
  | .v n => .v ⟨(n.val + k) % 24, Nat.mod_lt _ (by decide)⟩
  | .w n => .w ⟨(n.val + k) % 8, Nat.mod_lt _ (by decide)⟩

namespace WellFormed

/-- A uniform word reads w registers only (R50). -/
def uniform (d : Reg) (srcs : List Reg) : Bool := !d.isW || srcs.all Reg.isW
/-- In a guarded word the third source is the destination (R40). -/
def third (h : Head) (d c : Reg) : Bool := h.guard.isNone || c == d
/-- A signed immediate of n bits, n + 5 when unguarded (R41, R42, R43, R46). -/
def immS (h : Head) (n : Nat) (imm : Int) : Bool :=
  let b : Int := if h.guard.isSome then 2 ^ (n - 1) else 2 ^ (n + 4)
  decide (-b ≤ imm) && decide (imm < b)
/-- A zero-extended immediate (R41). -/
def immZ (h : Head) (n : Nat) (imm : Int) : Bool :=
  decide (0 ≤ imm) && decide (imm < if h.guard.isSome then 2 ^ n else 2 ^ (n + 5))
/-- An observer mask (R58). -/
def mask5 (k : Nat) : Bool := decide (1 ≤ k) && decide (k ≤ 31)
/-- A field of a matrix word names a w pair (R278). -/
def wPair (r : Reg) : Bool := r.isW && r.pair

end WellFormed
open WellFormed

/-- Whether an instruction is one that some word encodes, as far as its fields go; every event is. -/
def Instr.wf : Instr → Bool
  | .iadd _ d a b => uniform d [a.reg, b.reg]
  | .isub _ d a b => uniform d [a.reg, b.reg]
  | .imul _ d a b => uniform d [a.reg, b.reg]
  | .imulh _ _ d a b => uniform d [a.reg, b.reg]
  | .imad h d a b c => uniform d [a.reg, b.reg, c] && third h d c
  | .imin _ _ d a b => uniform d [a.reg, b.reg]
  | .imax _ _ d a b => uniform d [a.reg, b.reg]
  | .and _ d a b => uniform d [a.reg, b.reg]
  | .or _ d a b => uniform d [a.reg, b.reg]
  | .xor _ d a b => uniform d [a.reg, b.reg]
  | .andn _ d a b => uniform d [a.reg, b.reg]
  | .shl _ d a b => uniform d [a.reg, b.reg]
  | .shr _ d a b => uniform d [a.reg, b.reg]
  | .sar _ d a b => uniform d [a.reg, b.reg]
  | .rotl _ d a b => uniform d [a.reg, b.reg]
  | .fshr h d a b c => uniform d [a.reg, b.reg, c] && third h d c
  | .bfe _ _ d a b => uniform d [a.reg, b.reg]
  | .bfi h d a b c => uniform d [a.reg, b.reg, c] && third h d c
  | .bshuf h d a b c => uniform d [a.reg, b.reg, c] && third h d c
  | .sel _ _ _ d a b => uniform d [a.reg, b.reg]
  | .iadd64 _ d a b => uniform d [a.reg, b.reg] && d.pair && a.reg.pair && b.reg.pair
  | .lea64 _ _ d a b => uniform d [a.reg, b.reg] && d.pair && a.reg.pair
  | .lea64s _ _ d a b => uniform d [a.reg, b.reg] && d.pair && a.reg.pair
  | .mov _ _ _ => true
  | .not _ d a => uniform d [a.reg]
  | .ineg _ d a => uniform d [a.reg]
  | .iabs _ d a => uniform d [a.reg]
  | .popc _ d a => uniform d [a.reg]
  | .clz _ d a => uniform d [a.reg]
  | .brev _ d a => uniform d [a.reg]
  | .ctz _ d a => uniform d [a.reg]
  | .addi h d a imm => uniform d [a] && immS h 8 imm
  | .andi h d a imm => uniform d [a] && immZ h 8 imm
  | .ori h d a imm => uniform d [a] && immZ h 8 imm
  | .xori h d a imm => uniform d [a] && immZ h 8 imm
  | .shli h d a imm => uniform d [a] && immS h 8 imm
  | .shri h d a imm => uniform d [a] && immS h 8 imm
  | .sari h d a imm => uniform d [a] && immS h 8 imm
  | .muli h d a imm => uniform d [a] && immS h 8 imm
  | .movi h _ imm => immS h 13 imm
  | .movl _ _ _ => true
  | .icmp _ _ _ _ _ _ => true
  | .icmpi _ _ _ _ _ imm => decide (-16 ≤ imm) && decide (imm ≤ 15)
  | .fcmp _ _ _ _ _ _ => true
  | .plop _ _ _ _ _ => true
  | .pmov _ d a b => uniform d [a.reg, b.reg]
  | .fadd _ d a b => uniform d [a.reg, b.reg]
  | .fsub _ d a b => uniform d [a.reg, b.reg]
  | .fmul _ d a b => uniform d [a.reg, b.reg]
  | .ffma h d a b c => uniform d [a.reg, b.reg, c] && third h d c
  | .fmin _ d a b => uniform d [a.reg, b.reg]
  | .fmax _ d a b => uniform d [a.reg, b.reg]
  | .frndNe _ d a => uniform d [a.reg]
  | .frndFl _ d a => uniform d [a.reg]
  | .frndCe _ d a => uniform d [a.reg]
  | .frndTr _ d a => uniform d [a.reg]
  | .hadd2 _ _ d a b => uniform d [a.reg, b.reg]
  | .hmul2 _ _ d a b => uniform d [a.reg, b.reg]
  | .hfma2 h _ d a b c => uniform d [a.reg, b.reg, c] && third h d c
  | .hmin2 _ _ d a b => uniform d [a.reg, b.reg]
  | .hmax2 _ _ d a b => uniform d [a.reg, b.reg]
  | .rcp _ d a => uniform d [a.reg]
  | .rsq _ d a => uniform d [a.reg]
  | .sqrt _ d a => uniform d [a.reg]
  | .exp2 _ d a => uniform d [a.reg]
  | .log2 _ d a => uniform d [a.reg]
  | .sin _ d a => uniform d [a.reg]
  | .cos _ d a => uniform d [a.reg]
  | .tanh _ d a => uniform d [a.reg]
  | .cvt _ code d a => uniform d [a.reg] && decide (code < 24) && (!(code == 8 || code == 9) || a.reg.pair)
  | .cvtsr _ k _ d a => uniform d [a.reg] && decide (1 ≤ k) && decide (k ≤ 24)
  | .fpack _ d a b => uniform d [a.reg, b.reg]
  | .funpk _ code d a => uniform d [a.reg] && decide (code < 20)
  | .qexp _ d a b => uniform d [a.reg, b.reg]
  | .qcvt _ d a b => uniform d [a.reg, b.reg]
  | .bra h off => immS h 18 off
  | .brx _ _ => true
  | .call h off => immS h 18 off
  | .ret _ => true
  | .join _ => true
  | .yield _ => true
  | .exit _ => true
  | .trap _ _ => true
  | .tret _ => true
  | .bkpt _ _ => true
  | .nop _ => true
  | .movs _ n _ => decide (n < 28)
  | .movcRead _ r _ => decide (r < 6)
  | .movcWrite _ r _ => decide (r < 6)
  | .brdq h off => immS h 18 off
  | .dqpush _ _ => true
  | .dqpop _ _ => true
  | .ldb h _ d a off => uniform d [a] && a.pair && immS h 6 off
  | .ldbs h _ d a off => uniform d [a] && a.pair && immS h 6 off
  | .ldh h _ d a off => uniform d [a] && a.pair && immS h 6 off
  | .ldhs h _ d a off => uniform d [a] && a.pair && immS h 6 off
  | .ldw h _ d a off => uniform d [a] && a.pair && immS h 6 off
  | .ldd h _ d a off => uniform d [a] && a.pair && immS h 6 off && d.pair
  | .ldq h _ d a off => uniform d [a] && a.pair && immS h 6 off && d.four
  | .stb h _ a off _ => a.pair && immS h 6 off
  | .sth h _ a off _ => a.pair && immS h 6 off
  | .stw h _ a off _ => a.pair && immS h 6 off
  | .std h _ a off src => a.pair && immS h 6 off && src.pair
  | .stq h _ a off src => a.pair && immS h 6 off && src.four
  | .atomiAdd _ d a b => uniform d [a, b] && a.pair
  | .atomiMin _ d a b => uniform d [a, b] && a.pair
  | .atomiMax _ d a b => uniform d [a, b] && a.pair
  | .atomiMinu _ d a b => uniform d [a, b] && a.pair
  | .atomiMaxu _ d a b => uniform d [a, b] && a.pair
  | .atomiAnd _ d a b => uniform d [a, b] && a.pair
  | .atomiOr _ d a b => uniform d [a, b] && a.pair
  | .atomiXor _ d a b => uniform d [a, b] && a.pair
  | .atomfFadd _ d a b => uniform d [a, b] && a.pair
  | .atomfFmin _ d a b => uniform d [a, b] && a.pair
  | .atomfFmax _ d a b => uniform d [a, b] && a.pair
  | .atomfBfadd2 _ d a b => uniform d [a, b] && a.pair
  | .atomfHadd2 _ d a b => uniform d [a, b] && a.pair
  | .atomfXchg _ d a b => uniform d [a, b] && a.pair
  | .cas h d a b c => uniform d [a.reg, b.reg, c] && third h d c && a.reg.pair
  | .ldx _ mask d a => uniform d [a.reg] && a.reg.pair && mask5 mask
  | .stx _ mask a _ => a.reg.pair && mask5 mask
  | .fence _ mask => mask5 mask
  | .tagq _ d a => uniform d [a.reg]
  | .tagw _ d a b => uniform d [a.reg, b.reg] && d.pair
  | .fest _ d a b => uniform d [a.reg, b.reg] && a.reg.pair
  | .pref _ a _ => a.reg.pair
  | .vany _ _ _ => true
  | .vall _ _ _ => true
  | .ballot _ _ _ => true
  | .actm _ _ => true
  | .first _ _ _ => true
  | .count _ _ _ => true
  | .wsync _ => true
  | .shflIdx _ d a b => uniform d [a.reg, b]
  | .shflUp _ d a b => uniform d [a.reg, b]
  | .shflDown _ d a b => uniform d [a.reg, b]
  | .shflXor _ d a b => uniform d [a.reg, b]
  | .wredAdd _ _ _ => true
  | .wredMin _ _ _ => true
  | .wredMax _ _ _ => true
  | .wredMinu _ _ _ => true
  | .wredMaxu _ _ _ => true
  | .wredAnd _ _ _ => true
  | .wredOr _ _ _ => true
  | .wredXor _ _ _ => true
  | .wredFadd _ _ _ => true
  | .wredFmin _ _ _ => true
  | .wredFmax _ _ _ => true
  | .hurdle _ _ => true
  | .hurdleF _ _ => true
  | .arrive _ d a => uniform d [a.reg]
  | .await _ _ _ => true
  | .prog _ _ => true
  | .cont _ _ _ => true
  | .gang _ a => a.reg.isW
  | .qpush _ _ => true
  | .qpop _ n _ => decide (1 ≤ n) && decide (n ≤ 3)
  | .mma _ _ _ _ a b => wPair a.reg && wPair b.reg
  | .mlut _ _ _ _ a b => wPair a.reg && wPair b.reg
  | .mzero _ _ _ => true
  | .mload _ _ _ _ a => wPair a.reg
  | .mstore _ _ _ _ a => wPair a.reg
  | .mstoresr _ k _ _ a => wPair a.reg && decide (1 ≤ k) && decide (k ≤ 24)
  | .mstoresrGuarded _ _ _ _ a => wPair a.reg
  | .xform _ a b => a.reg.pair && b.reg.pair
  | .post _ _ b => b.reg.pair
  | .tlwait _ d _ => d.pair
  | .tlread _ d a => uniform d [a.reg] && d.pair
  | .bwaitFull _ _ => true
  | .bwaitFree _ _ => true
  | .bstate _ d a => uniform d [a.reg]
  | .brel _ _ => true
  | .boinit _ d a => uniform d [a.reg] && a.reg.pair
  | .boarr _ d a => uniform d [a.reg] && a.reg.pair
  | .boexp _ d a => uniform d [a.reg] && a.reg.pair
  | .botest _ d a => uniform d [a.reg]
  | .bowait _ a => a.reg.pair
  | .crkLdf _ _ => true
  | .crkLdg _ _ => true
  | .crkLdi _ imm => decide (-16384 ≤ imm) && decide (imm < 16384)
  | .crkAdd _ _ _ => true
  | .crkSub _ _ _ => true
  | .crkMul _ _ _ => true
  | .crkMin _ _ _ => true
  | .crkMax _ _ _ => true
  | .crkAnd _ _ _ => true
  | .crkOr _ _ _ => true
  | .crkShl _ _ _ => true
  | .crkShr _ _ _ => true
  | .crkClt _ _ _ => true
  | .crkCeq _ _ _ => true
  | .crkBf _ off => decide (1 ≤ off) && decide (off ≤ 127)
  | .crkBnf _ off => decide (1 ≤ off) && decide (off ≤ 127)
  | .crkScore _ => true
  | .crkVerdict _ => true
  | .crkHalt => true
  | .resultLand => true
  | .randomWordDelivery => true
  | .joinlimExpiry => true
  | .threadCease => true
  | .workgroupEnd => true
  | .nestedNotice => true
  | .xfthreshNotice => true
  | .flockAbort => true
  | .timeLimitExpiry => true
  | .poolFlushTimeout => true
  | .poolDrain => true
  | .matrixOpExecute => true
  | .matrixOpComplete => true
  | .tileCopyToScratchpad => true
  | .tileCopyToTensor => true
  | .tileCopyComplete => true
  | .xformCopy => true
  | .xformCast => true
  | .xformQuant => true
  | .xformDequant => true
  | .xformTrans => true
  | .xformPack => true
  | .xformUnpack => true
  | .xformGather => true
  | .xformScatadd => true
  | .xformMxin => true
  | .xformMxout => true
  | .transformTurn => true
  | .transformComplete => true
  | .poolemptyResume => true
  | .packedChainReclaim => true
  | .logicalClockAdvance => true
  | .bulkCopy => true
  | .bulkFill => true
  | .bulkSignal => true
  | .bulkWait => true
  | .taskRun => true
  | .taskPool => true
  | .taskCopy => true
  | .taskXform => true
  | .taskOffload => true
  | .taskRecall => true
  | .taskWait => true
  | .taskSignal => true
  | .taskAlloc => true
  | .taskFree => true
  | .taskFence => true
  | .taskRepeat => true
  | .taskEndrep => true
  | .taskMark => true
  | .collRun => true
  | .collCreate => true
  | .collDestroy => true
  | .copyForward => true
  | .allocZeroFill => true
  | .taskEngineStreamComplete => true
  | .taskRetire => true
  | .taskFaultRecovery => true
  | .sqctlEnable => true
  | .sqctlResumeRetry => true
  | .sqctlResumeSkip => true
  | .sqwriteWrite => true
  | .registerWrite => true
  | .tlbinvPage => true
  | .tlbinvAll => true
  | .tlbinvComplete => true
  | .chkpush => true
  | .btvalWrite => true
  | .bqdescEnable => true
  | .bqdescDisable => true
  | .expbaseWrite => true
  | .crkctlLoad => true
  | .crkProgramActivate => true
  | .faultcmdReplay => true
  | .faultcmdCancel => true
  | .haltres => true
  | .faultRingFree => true
  | .dispatch => true
  | .preempt => true
  | .faultDecision => true
  | .crkBudgetOverrun => true
  | .sliceBoundary => true
  | .grantDeadline => true
  | .foldAreaWrite => true
  | .wholeDeviceReset => true
  | .partitionReset => true
  | .functionLevelReset => true
  | .partitionStart => true
  | .firmwareImageStart => true
  | .firmwareNudge => true
  | .firmwareCoreRestart => true
  | .bellWord => true
  | .freezePin => true
  | .freezeWrite => true
  | .powerWindow => true
  | .mbResync => true
  | .mbResume => true
  | .mbKeygen => true
  | .mbKeyassign => true
  | .mbKeyclear => true
  | .mbAttest => true
  | .mbPartcfg => true
  | .hostRead => true
  | .hostWrite => true
  | .hostAtomicCompletion => true
  | .peerAccess => true
  | .peerAccessTimeout => true
  | .uncorrFound => true
  | .mctpReadout => true
  | .mctpReadCertificate => true
  | .mctpWritePwrlim => true
  | .collSend => true
  | .collRecv => true
  | .collRrs => true
  | .collLcopy => true
  | .collCwait => true
  | .collArm => true
  | .collLoop => true
  | .collEndl => true
  | .collPeer => true
  | .collCbar => true
  | .collChunkSend => true
  | .collChunkReceive => true
  | .collCreateComplete => true
  | .collRunComplete => true
  | .collPeerAbort => true
  | .collPeerdown => true
  | .illegalWord => true
  | .fetchBeyondCodeObject => true
  | .illegalRecord => true
  | .bulkQueueError => true
  | .illegalStep => true
  | .collCbarRelease => true
  | .loadStoreDomainJoin => true
  | .storageError => true

end Sys2Proof
end

