-- ==== Sys2Proof/Machine/Ops.lean ====
section
/-! DEFINITION. Named operations over the state: reaching units, threads and registers, sparse memory, fault records,
landing results, and taking a trap and returning from one (15_traps_faults_preemption.md R325-R336). -/
namespace Sys2Proof.Machine
open Sys2Proof

/-! ## Bytes -/

/-- The n low bytes of x, least significant first (R4). -/
def leBytes : Nat → Nat → List Byte
  | 0, _ => []
  | n + 1, x => BitVec.ofNat 8 x :: leBytes n (x / 256)

/-- The number whose little-endian bytes are given (R4). -/
def ofBytes : List Byte → Nat
  | [] => 0
  | b :: bs => b.toNat + 256 * ofBytes bs

/-- The little-endian field of n bytes at an offset of a byte list. -/
def field (bs : List Byte) (off n : Nat) : Nat := ofBytes ((bs.drop off).take n)

/-- The words of a byte list. -/
def bytesToWords : List Byte → List Word
  | a :: b :: c :: d :: rest => BitVec.ofNat 32 (ofBytes [a, b, c, d]) :: bytesToWords rest
  | _ => []

/-- The bytes of a word list. -/
def wordsToBytes (ws : List Word) : List Byte := ws.flatMap fun w => leBytes 4 w.toNat

/-! ## Sparse byte memory, in canonical form: rising addresses, no listed zero -/

/-- The byte at an address; an unlisted byte reads 0 (log 2). -/
def cellGet (m : List Host.Cell) (a : Nat) : Byte := assocGet 0 m a
/-- Writes a byte. -/
def cellSet (a : Nat) (b : Byte) (m : List Host.Cell) : List Host.Cell := assocSet 0 a b m
/-- Reads n bytes. -/
def cellsRead (m : List Host.Cell) (a n : Nat) : List Byte := (List.range n).map fun k => cellGet m (a + k)
/-- Writes bytes at rising addresses. -/
def cellsWrite (m : List Host.Cell) (a : Nat) : List Byte → List Host.Cell
  | [] => m
  | b :: bs => cellsWrite (cellSet a b m) (a + 1) bs

/-- The canonical form of a byte memory whose entries stand at or above an address. -/
def cellsWfFrom : Nat → List Host.Cell → Bool
  | _, [] => true
  | lo, (a, b) :: rest => decide (lo ≤ a) && decide (b ≠ 0) && cellsWfFrom (a + 1) rest
/-- The canonical form of a byte memory. -/
def Memory.wf (m : List Host.Cell) : Bool := cellsWfFrom 0 m

/-! ## Units -/

/-- The unit number of a herder. -/
def herderUnit : Nat := 32

def State.flock? (s : State) (f : Nat) : Option Flock := s.flocks[f]?
def State.modFlock (s : State) (f : Nat) (g : Flock → Flock) : State := { s with flocks := modifyNth g f s.flocks }
def State.wg? (s : State) (f m : Nat) : Option Workgroup := (s.flock? f).bind fun fl => fl.wgs[m]?
def State.modWg (s : State) (f m : Nat) (g : Workgroup → Workgroup) : State :=
  s.modFlock f fun fl => { fl with wgs := modifyNth g m fl.wgs }
/-- A warp, or the herder for unit 32. -/
def Workgroup.unit? (wg : Workgroup) (u : Nat) : Option Warp := if u = herderUnit then wg.herder else wg.warps[u]?
def Workgroup.modUnit (wg : Workgroup) (u : Nat) (g : Warp → Warp) : Workgroup :=
  if u = herderUnit then { wg with herder := wg.herder.map g } else { wg with warps := modifyNth g u wg.warps }
/-- The units of a workgroup: warps and herder. -/
def Workgroup.units (wg : Workgroup) : List Nat := List.range wg.warps.length ++ (if wg.herder.isSome then [herderUnit] else [])
def State.unit? (s : State) (f m u : Nat) : Option Warp := (s.wg? f m).bind fun wg => wg.unit? u
def State.modUnit (s : State) (f m u : Nat) (g : Warp → Warp) : State := s.modWg f m fun wg => wg.modUnit u g
def Warp.modThread (w : Warp) (lane : Nat) (g : Thread → Thread) : Warp := { w with threads := modifyNth g lane w.threads }
def State.modThread (s : State) (f m u lane : Nat) (g : Thread → Thread) : State :=
  s.modUnit f m u fun w => w.modThread lane g
def State.thread? (s : State) (f m u lane : Nat) : Option Thread := (s.unit? f m u).bind fun w => w.threads[lane]?
def State.part? (s : State) (p : Nat) : Option Partition := s.partitions[p]?
def State.part (s : State) (p : Nat) : Partition := s.partitions.getD p {}
def State.modPart (s : State) (p : Nat) (g : Partition → Partition) : State :=
  { s with partitions := modifyNth g p s.partitions }
def State.modDevice (s : State) (g : Device → Device) : State := { s with device := g s.device }

/-- A new thread (R16), with its kernel's entry word. -/
def Thread.new : Thread where
  v := Vector.replicate 24 0
  full := BitVec.allOnes 24
  g := 0
  pc := 0
  trapvec := 0
  trapen := 4
  srseed := 0
  trapcause := 0
  trappc := 0
  trapaddr := 0
  trapMode := false
  seq := 0
  clockhi := 0
  arrived := 0
  life := .live
  hold := .none
  wait := 0

/-- A warp as its workgroup's creation leaves it (R138). -/
def Warp.new (l : Launch) (threads : List Thread) (slice : Nat) : Warp where
  threads := threads
  w := ((Vector.replicate 8 (0 : Word)).set 0 (l.param.setWidth 32)).set 1 ((l.param >>> 32).setWidth 32)
  wfull := BitVec.allOnes 8
  fairness := BitVec.ofNat 16 l.fair
  joinlim := 256
  progress := l.progress
  gang := 0
  cursor := 0
  q0 := []
  yields := []
  slice := slice
  slot := 0

/-- A thread that does not exist. -/
def Thread.missing : Thread := { Thread.new with life := .absent }
/-- A warp that does not exist. -/
def Warp.blank : Warp :=
  { threads := [], w := Vector.replicate 8 0, wfull := 0, fairness := 0, joinlim := 0, progress := false, gang := 0,
    cursor := 0, q0 := [], yields := [], slice := 0, slot := 0 }

/-- Live threads (R139): those parked as strays, stopped or held by a nested trap count. -/
def Thread.live (t : Thread) : Bool :=
  match t.life with
  | .absent | .ending | .ended => false
  | _ => true
/-- Threads that may issue. -/
def Thread.running (t : Thread) : Bool := t.life == .live
def Thread.stray (t : Thread) : Bool :=
  match t.life with
  | .stray _ _ => true
  | _ => false

/-- The lanes of a warp whose thread satisfies a test, ascending. -/
def Warp.lanesWith (w : Warp) (q : Thread → Bool) : List Nat :=
  (List.range w.threads.length).filter fun k => match w.threads[k]? with | some t => q t | none => false
def Warp.thread (w : Warp) (lane : Nat) : Thread := w.threads.getD lane Thread.missing
/-- Whether every thread of a warp has ended (R129, R139). -/
def Warp.allEnded (w : Warp) : Bool := w.threads.all fun t => !t.live
/-- Whether every thread of a warp has ceased to exist. -/
def Warp.gone (w : Warp) : Bool := w.threads.all fun t => t.life == .ended || t.life == .absent

/-- The mask of a list of lanes. -/
def laneMask (lanes : List Nat) : Nat := lanes.foldl (fun a k => a ||| 2 ^ k) 0

/-- Whether a firmware core runs its image, 0 the root (R364). -/
def State.coreOn (s : State) (k : Nat) : Bool := nth false s.device.coresOn k

/-! ## Registers -/

/-- The value of a register for a lane: the warp's for a w register (R27). -/
def Warp.get (w : Warp) (lane : Nat) : Reg → Word
  | .v n => (w.thread lane).v[n]
  | .w n => w.w[n]
/-- Its full/empty bit. -/
def Warp.isFull (w : Warp) (lane : Nat) : Reg → Bool
  | .v n => (w.thread lane).full.getLsbD n.val
  | .w n => w.wfull.getLsbD n.val
/-- Sets bit n of a register file's full/empty bits. -/
def setBit {k : Nat} (x : BitVec k) (n : Nat) (b : Bool) : BitVec k :=
  if b then x ||| (BitVec.ofNat k (2 ^ n)) else x &&& ~~~(BitVec.ofNat k (2 ^ n))
/-- Writes a register full (R24). -/
def Warp.put (w : Warp) (lane : Nat) (r : Reg) (x : Word) : Warp :=
  match r with
  | .v n => w.modThread lane fun t => { t with v := t.v.set n x, full := setBit t.full n.val true }
  | .w n => { w with w := w.w.set n x, wfull := setBit w.wfull n.val true }
/-- Makes a register empty. -/
def Warp.empty (w : Warp) (lane : Nat) (r : Reg) : Warp :=
  match r with
  | .v n => w.modThread lane fun t => { t with full := setBit t.full n.val false }
  | .w n => { w with wfull := setBit w.wfull n.val false }
/-- The registers of a pair or four (R15). -/
def regSpan (r : Reg) (n : Nat) : List Reg := (List.range n).map r.at
/-- The words of a register, pair or four. -/
def Warp.gets (w : Warp) (lane : Nat) (r : Reg) (n : Nat) : List Word := (regSpan r n).map (w.get lane)

/-- Whether a landing will write a register of a unit's lane. -/
def Landing.hits (l : Landing) (f m u lane : Nat) (r : Reg) : Bool :=
  l.f == f && l.m == m && l.u == u && l.dests.contains r && (r.isW || l.lanes.contains lane)

/-- A later write of a register in the same chain overrides a result in flight (R55). -/
def State.dropPending (s : State) (f m u lane : Nat) (r : Reg) : State :=
  let mine (m' u' : Nat) (lanes : List Nat) : Bool := m' == m && u' == u && (r.isW || lanes.contains lane)
  let landings : List Landing := s.landings.map fun l =>
    if l.hits f m u lane r then
      let keep := (l.dests.zip l.vals).filter fun q => q.1 ≠ r
      { l with dests := keep.map Prod.fst, vals := keep.map Prod.snd }
    else l
  let randoms : List RandomRequest := s.randoms.map fun q =>
    if q.f == f && q.dest == r && mine q.m q.u q.lanes then { q with drop := true } else q
  let waits (qs : List WaitLoad) : List WaitLoad :=
    qs.map fun q => if mine q.m q.u q.lanes then { q with keep := q.keep.filter (· ≠ r) } else q
  let pops (qs : List Pop) : List Pop :=
    qs.map fun q => if q.dest == r && q.u == u then { q with lanes := if r.isW then [] else q.lanes.filter (· ≠ lane) } else q
  let s : State := { s with landings := landings, randoms := randoms }
  (s.modFlock f fun fl => { fl with wgs := fl.wgs.map fun wg => { wg with waits := waits wg.waits } }).modWg f m fun wg =>
    { wg with pops := pops wg.pops }

/-- Of the places where check bits fail, those that a test keeps stay. -/
def State.mend (s : State) (keep : BadWord → Bool) : State := { s with bad := s.bad.filter keep }
/-- Whether a failing word is none of the registers that some words of a unit's lane go to. -/
def BadWord.outside (f m u lane : Nat) (qs : List (Reg × Word)) (b : BadWord) : Bool :=
  qs.all fun q => b ≠ .reg f m u (if q.1.isW then 0 else lane) q.1
/-- Writes a register of a unit full, overriding a result in flight to it; check bits that failed are good again (R342, log 78). -/
def State.putReg (s : State) (f m u lane : Nat) (r : Reg) (x : Word) : State :=
  let full := match s.unit? f m u with | some w => w.isFull lane r | none => true
  ((if full then s else s.dropPending f m u lane r).modUnit f m u fun w => w.put lane r x).mend (BadWord.outside f m u lane [(r, x)])

/-- Writes consecutive registers. -/
def State.putRegs (s : State) (f m u lane : Nat) : List Reg → List Word → State
  | r :: rs, x :: xs => (s.putReg f m u lane r x).putRegs f m u lane rs xs
  | _, _ => s

/-- Makes registers empty, overriding results in flight to them. -/
def State.emptyRegs (s : State) (f m u lane : Nat) : List Reg → State
  | [] => s
  | r :: rs =>
    let full := match s.unit? f m u with | some w => w.isFull lane r | none => true
    ((if full then s else s.dropPending f m u lane r).modUnit f m u fun w => w.empty lane r).emptyRegs f m u lane rs

/-! ## Free values (log 1) -/

/-- Advances the counter that free values are applied to. -/
def State.nextFresh (s : State) : State := { s with fresh := s.fresh + 1 }

/-! ## Fault records (R336, R361) -/

/-- Whether the record of a fault identifier still waits for a slot of the ring: its context stays as the fault left it (R361). -/
def Partition.waits (q : Partition) (fid : Word) : Bool := q.waitingRecs.any fun r => r.fid == fid
/-- Writes records to the ring: the write index advances, and the fault interrupt is raised for each (R361). -/
def Partition.writeRing (q : Partition) (rs : List FaultRec) : Partition :=
  { q with ring := q.ring ++ rs, ringWrite := q.ringWrite + BitVec.ofNat 32 rs.length, faultIrq := q.faultIrq + rs.length }
/-- Writes a fault record, or makes it wait while the ring holds 64, and gives it the next FID. -/
def State.raiseFault (s : State) (p : Nat) (r : FaultRec) : State :=
  s.modPart p fun q =>
    let r := { r with fid := q.nextFid, at_ := s.cycle }
    let q := { q with nextFid := q.nextFid + 1, faults := q.faults ++ [r] }
    if q.ring.length < 64 then q.writeRing [r]
    else { q with waitingRecs := q.waitingRecs ++ [r], ringOverflow := min (q.ringOverflow + 1) (2 ^ 32 - 1) }

/-- A fault record with nothing in it but its kind and context. -/
def FaultRec.blank (kind : Nat) (c : FaultContext) : FaultRec where
  fid := 0
  kind := kind
  detail := 0
  seq := 0
  wgid := 0
  lanes := 0
  lane := 0
  warp := 0xFF
  va := 0
  context := c
  at_ := 0
  pending := kind ≤ 6
  decide := kind ≤ 5

/-! ## Traps -/

/-- The cause codes of R327. -/
def causeIllegal : Nat := 0x01
def causeChainbad : Nat := 0x02
def causeEmptyread : Nat := 0x03
def causeAlign : Nat := 0x04
def causeQualbad : Nat := 0x05
def causeProtfault : Nat := 0x06
def causeCancelled : Nat := 0x07
def causeStampmix : Nat := 0x08
def causeFpinv : Nat := 0x09
def causeFpovf : Nat := 0x0A
def causeFmtbad : Nat := 0x0B
def causeDqbad : Nat := 0x0C
def causeGangbad : Nat := 0x0D
def causeRegionviol : Nat := 0x0E
def causeChainhaz : Nat := 0x0F
def causeNested : Nat := 0x10
def causeXfthresh : Nat := 0x11
def causeUncorr : Nat := 0x12
/-- UNCORR for data of the L2 or HBM: recorded as 0x12, and faults the task with UNCORR (R340, R342). -/
def causeUncorrMem : Nat := 0x112
def causeTimeout : Nat := 0x13
/-- A refused peer access (R380): it aborts its flock, and the task faults with MEMFAULT. -/
def causePeer : Nat := 0x200
/-- Whether a cause is TRAP with a user code. -/
def isUserTrap (c : Nat) : Bool := 0x20 ≤ c

/-- A flock starts to abort: the first thread that causes it is recorded (R339). -/
def State.startAbort (s : State) (f m u lane cause pc : Nat) (addr : DWord) : State :=
  s.modFlock f fun fl =>
    match fl.status with
    | .resident | .folding _ => { fl with status := .aborting cause m u lane addr pc }
    | _ => fl

/-- The specials that a trap records (R32). -/
def Thread.record (t : Thread) (cause pc : Nat) (addr : DWord) : Thread :=
  { t with trapcause := BitVec.ofNat 32 cause, trappc := BitVec.ofNat 32 pc, trapaddr := addr }

/-- The specials that UNCORR leaves in a thread (R32, R327, R342): none in trap mode (R333), nor for a refused peer access, which has no cause
code. -/
def Thread.recordUncorr (t : Thread) (cause pc : Nat) (addr : DWord) : Thread :=
  if t.trapMode || cause = causePeer then t else t.record causeUncorr pc addr

/-- Whether a herder can take a notice now or later (R333, R334). -/
def Workgroup.herderTakes (wg : Workgroup) : Bool :=
  match wg.herder with
  | some h => (h.thread 0).live && (h.thread 0).trapvec.toNat % 2 ^ 24 ≠ 0
  | none => false

/-- Serial number of the next nested trap of a workgroup: threads are noticed in the order they were held (R333). -/
def Workgroup.nextSerial (wg : Workgroup) : Nat :=
  wg.warps.foldl (fun a w => w.threads.foldl (fun b t => match t.life with | .held h => max b (h.serial + 1) | _ => b) a) 0

/-- Taking a trap (R32, R326, R333, R334): thread `lane` of unit u raises `cause` in the chain at `pc`; `next` is the
index after the chain. A thread outside trap mode records the cause and enters its handler with only its trap-mode bit
and PC changed, or stops and aborts its flock when TRAPVEC.ENTRY is 0. A nested trap keeps the specials and the PC and
holds the thread for its herder; a herder's, or one that no herder can take, aborts the flock. -/
def State.takeTrap (s : State) (f m u lane cause pc next : Nat) (addr : DWord) : State :=
  match s.wg? f m, s.thread? f m u lane with
  | some wg, some t =>
    let at_ := if isUserTrap cause then next else pc
    if t.trapMode then
      if u = herderUnit then
        (s.modThread f m u lane fun t => { t with life := .stopped, pc := BitVec.ofNat 24 pc }).startAbort f m u lane cause pc addr
      else
        let s := s.modThread f m u lane fun t =>
          { t with life := .held ⟨cause, addr, wg.nextSerial⟩, pc := BitVec.ofNat 24 pc, hold := .none }
        if wg.herderTakes then s.modWg f m fun wg => { wg with notices := wg.notices ++ [.nested u lane] }
        else s.startAbort f m u lane cause pc addr
    else if t.trapvec.toNat % 2 ^ 24 ≠ 0 then
      s.modThread f m u lane fun t =>
        { t.record cause at_ addr with trapMode := true, pc := BitVec.ofNat 24 t.trapvec.toNat, hold := .none }
    else
      (s.modThread f m u lane fun t =>
        { t.record cause at_ addr with life := .stopped, pc := BitVec.ofNat 24 pc }).startAbort f m u lane cause pc addr
  | _, _ => s

/-- Returning from a trap (R330): the PC is TRAPPC, or the index after the chain at TRAPPC for CANCELLED, which the
caller gives. -/
def Thread.returnFromTrap (t : Thread) (afterCancelled : Nat) : Thread :=
  { t with
    trapMode := false
    pc := if t.trapcause.toNat = causeCancelled then BitVec.ofNat 24 afterCancelled else BitVec.ofNat 24 t.trappc.toNat }

/-- A thread stops being live by EXIT or CONT; it ceases once its registers are full (R129). -/
def Thread.end_ (t : Thread) : Thread := { t with life := .ending, hold := .none }

/-- Appends to the device's MSI-X log (R375): function and vector. -/
def State.msix (s : State) (fn vec : Nat) : State := s.modDevice fun d => { d with msix := d.msix ++ [(fn, vec)] }

end Sys2Proof.Machine
end

