-- ==== Sys2Proof/Machine/Flags.lean ====
section
/-! DEFINITION. Conditions and flags: the condition codes of compares (02 R44, 04 R111), truth tables (R112), and the
enables and sticky bits of TRAPEN (01 R18, R34). -/
namespace Sys2Proof.Machine
open Sys2Proof

/-- ICMP and ICMPI (R44, R111). -/
def intCond (cc : Fin 8) (a b : Word) : Bool :=
  match cc.val with
  | 0 => a == b
  | 1 => a != b
  | 2 => a.slt b
  | 3 => a.sle b
  | 4 => b.slt a
  | 5 => b.sle a
  | 6 => a.ult b
  | _ => b.ule a

/-- FCMP (R44, R111), on values read under the contract's flush rule. -/
def floatCond (cc : Fin 8) (a b : Val) : Bool :=
  let un := a.isNan || b.isNan
  match cc.val with
  | 0 => !un && eqVal a b
  | 1 => !un && !eqVal a b
  | 2 => !un && ltVal a b
  | 3 => !un && (ltVal a b || eqVal a b)
  | 4 => !un && ltVal b a
  | 5 => !un && (ltVal b a || eqVal a b)
  | 6 => un
  | _ => un || !eqVal a b

/-- PLOP: tt[2·ga + gb] (R112). -/
def truthTable (tt : Fin 16) (ga gb : Bool) : Bool :=
  bitAt tt.val (2 * (if ga then 1 else 0) + (if gb then 1 else 0))

/-- The enables of TRAPEN (R18). -/
def Thread.invEn (t : Thread) : Bool := t.trapen.getLsbD 0
def Thread.ovfEn (t : Thread) : Bool := t.trapen.getLsbD 1
def Thread.stampEn (t : Thread) : Bool := t.trapen.getLsbD 2

/-- Sets the sticky bits of masked causes (R34). -/
def Thread.stick (t : Thread) (inv ovf stamp : Bool) : Thread :=
  let x := t.trapen
  let x := if inv then x ||| 0x10000 else x
  let x := if ovf then x ||| 0x20000 else x
  { t with trapen := if stamp then x ||| 0x40000 else x }

/-- TRAPEN after a MOVC write: enables stored, a 1 clears its sticky bit (R18, R134). -/
def trapenWrite (old x : Word) : Word := (x &&& 7) ||| (old &&& 0x70000 &&& ~~~x)

/-- The trap that a floating-point result raises, if its enable is 1 in one of the threads that take it (R33, R34,
R146). -/
def floatCause (ts : List Thread) (fmtbad inv ovf : Bool) : Option Nat :=
  if fmtbad then some causeFmtbad
  else if inv && ts.any Thread.invEn then some causeFpinv
  else if ovf && ts.any Thread.ovfEn then some causeFpovf
  else none

end Sys2Proof.Machine
end

