-- ==== Sys2Proof/Machine/Cipher.lean ====
section
/-! DEFINITION. How a line of HBM is encrypted (09 R227) and a chunk of a sealed communicator sealed (19 R403): AES-256-XTS and AES-256-GCM as
FIPS 197, IEEE 1619 and NIST SP 800-38D define them, log 86. -/
namespace Sys2Proof.Machine
open Sys2Proof

/-! ## The field of 256 elements, and the S-box -/

/-- A byte times x, modulo x^8 + x^4 + x^3 + x + 1. -/
def xtime (a : Nat) : Nat := if 128 ≤ a then ((2 * a) % 256) ^^^ 0x1B else 2 * a
/-- The product of two bytes, bit by bit of the second. -/
def gfMul (a b : Nat) : Nat :=
  ((List.range 8).foldl (fun q k => (if b / 2 ^ k % 2 = 1 then q.1 ^^^ q.2 else q.1, xtime q.2)) (0, a)).1
/-- The inverse, a to the power 254; 0 of 0. -/
def gfInv (a : Nat) : Nat := ((List.range 7).foldl (fun q _ => let sq := gfMul q.2 q.2; (gfMul q.1 sq, sq)) (1, a)).1
/-- A byte rotated left. -/
def rotByte (a k : Nat) : Nat := a * 2 ^ k % 256 + a / 2 ^ (8 - k)
def subByte (a : Nat) : Nat :=
  let b := gfInv a
  b ^^^ rotByte b 1 ^^^ rotByte b 2 ^^^ rotByte b 3 ^^^ rotByte b 4 ^^^ 0x63
def invSubByte (a : Nat) : Nat := gfInv (rotByte a 1 ^^^ rotByte a 3 ^^^ rotByte a 6 ^^^ 0x05)

/-! ## AES-256 on a block of 16 bytes, column by column -/

/-- Byte-wise exclusive or. -/
def xorBytes (a b : List Nat) : List Nat := List.zipWith (· ^^^ ·) a b
/-- The word of the key schedule that follows the words so far, newest first, when there are n of them. -/
def nextKeyWord (n : Nat) (ws : List (List Nat)) : List Nat :=
  let prev := nth [] ws 0
  let t :=
    if n % 8 = 0 then
      (match (prev.drop 1 ++ prev.take 1).map subByte with
        | b :: bs => (b ^^^ 2 ^ (n / 8 - 1)) :: bs
        | [] => [])
    else if n % 8 = 4 then prev.map subByte
    else prev
  xorBytes t (nth [] ws 7)
/-- The 15 round keys of a 32-byte key. -/
def roundKeys (key : List Nat) : List (List Nat) :=
  let first := (List.range 8).map fun k => (key.drop (4 * k)).take 4
  let ws := ((List.range 52).foldl (fun ws k => nextKeyWord (k + 8) ws :: ws) first.reverse).reverse
  (List.range 15).map fun r => ((ws.drop (4 * r)).take 4).flatten
/-- Row r of a block is turned by r places, leftwards, or rightwards to undo it. -/
def shiftRows (undo : Bool) (b : List Nat) : List Nat :=
  (List.range 16).map fun k => nth 0 b (k % 4 + 4 * ((k / 4 + (if undo then 4 - k % 4 else k % 4)) % 4))
/-- Each column times a circulant. -/
def mixColumns (row : List Nat) (b : List Nat) : List Nat :=
  (List.range 16).map fun k =>
    (List.range 4).foldl (fun a j => a ^^^ gfMul (nth 0 b (k / 4 * 4 + j)) (nth 0 row ((j + 4 - k % 4) % 4))) 0
/-- The cipher: every round but the last mixes the columns. -/
def aesEncrypt (keys : List (List Nat)) (block : List Nat) : List Nat :=
  let start := xorBytes block (nth [] keys 0)
  (List.range 14).foldl (fun b r =>
    let b := shiftRows false (b.map subByte)
    xorBytes (if r = 13 then b else mixColumns [2, 3, 1, 1] b) (nth [] keys (r + 1))) start
/-- The inverse cipher. -/
def aesDecrypt (keys : List (List Nat)) (block : List Nat) : List Nat :=
  (List.range 14).foldl (fun b r =>
    let b := xorBytes b (nth [] keys (14 - r))
    (shiftRows true (if r = 0 then b else mixColumns [14, 11, 13, 9] b)).map invSubByte) block |>.zipWith (· ^^^ ·) <| nth [] keys 0

/-! ## GCM over a chunk -/

/-- The number of a block, its first byte the most significant, and the block of a number. -/
def bigVal (b : List Nat) : Nat := b.foldl (fun a x => 256 * a + x) 0
def bigBlock (x : Nat) : List Nat := (List.range 16).map fun k => x / 256 ^ (15 - k) % 256
/-- The product of two blocks as numbers, modulo x^128 + x^7 + x^2 + x + 1, the most significant bit the lowest power. -/
def ghMul (x y : Nat) : Nat :=
  ((List.range 128).foldl (fun (q : Nat × Nat) i =>
    (if x.testBit (127 - i) then q.1 ^^^ q.2 else q.1, if q.2 % 2 = 1 then q.2 / 2 ^^^ 0xE1 * 2 ^ 120 else q.2 / 2)) (0, y)).1
/-- Sixteen bytes from an index on, with zeros past the end. -/
def blockAt (bs : List Nat) (k : Nat) : List Nat := (List.range 16).map fun j => nth 0 bs (k + j)
/-- The hash of a ciphertext without additional data. -/
def ghash (h : Nat) (c : List Nat) : Nat :=
  ghMul ((List.range ((c.length + 15) / 16)).foldl (fun y k => ghMul (y ^^^ bigVal (blockAt c (16 * k))) h) 0 ^^^ 8 * c.length) h
/-- The counter block of a 12-byte nonce. -/
def counterBlock (nonce : List Nat) (k : Nat) : List Nat := bigBlock (bigVal nonce * 2 ^ 32 + k)
/-- Byte j of the key stream; the text is encrypted and decrypted by it. -/
def streamByte (ks : List (List Nat)) (nonce : List Nat) (j : Nat) : Nat := nth 0 (aesEncrypt ks (counterBlock nonce (j / 16 + 2))) (j % 16)
def gcmText (ks : List (List Nat)) (nonce : List Nat) (bs : List Byte) : List Byte :=
  bs.zipIdx.map fun q => q.1 ^^^ BitVec.ofNat 8 (streamByte ks nonce q.2)
/-- The tag of a ciphertext. -/
def gcmTag (ks : List (List Nat)) (nonce : List Nat) (c : List Byte) : List Byte :=
  let h := bigVal (aesEncrypt ks (List.replicate 16 0))
  (xorBytes (bigBlock (ghash h (c.map BitVec.toNat))) (aesEncrypt ks (counterBlock nonce 1))).map (BitVec.ofNat 8 ·)
/-- A chunk sealed under a key and a nonce: the ciphertext, then its tag; and a sealed chunk opened, none when its tag is not right (R403). -/
def gcmSeal (key nonce : List Nat) (bs : List Byte) : List Byte :=
  let c := gcmText (roundKeys key) nonce bs
  c ++ gcmTag (roundKeys key) nonce c
def gcmOpen (key nonce : List Nat) (wire : List Byte) : Option (List Byte) :=
  let c := wire.take (wire.length - 16)
  if 16 ≤ wire.length ∧ wire.drop (wire.length - 16) = gcmTag (roundKeys key) nonce c then some (gcmText (roundKeys key) nonce c) else none
/-- The nonce of a chunk (R403): the low 32 bits of TAG, the ordinal, and its number in the pair's stream, each low byte first (log 66). -/
def chunkNonce (tag : DWord) (ordinal number : Nat) : List Nat :=
  [tag.toNat, ordinal, number].flatMap fun x => (List.range 4).map fun k => x / 256 ^ k % 256
/-- The key that CREATE agreed with a member (R403), by the count of free values taken then. -/
def pairKey (agreed member : Nat) : List Nat := (List.range 32).map fun k => (nth 0 (Config.agreedKey agreed member) k).toNat

/-! ## XTS over a line of 128 bytes -/

/-- The tweak of the next block: times x, modulo x^128 + x^7 + x^2 + x + 1. -/
def nextTweak (t : Nat) : Nat := if 2 ^ 127 ≤ t then (2 * t) % 2 ^ 128 ^^^ 0x87 else 2 * t
/-- The 16 bytes of a number, little-endian, and back. -/
def blockOf (x : Nat) : List Nat := (List.range 16).map fun k => x / 256 ^ k % 256
def blockVal (b : List Nat) : Nat := b.foldr (fun a r => a + 256 * r) 0
/-- The 64 key bytes of a serial number: the data key and the tweak key (R381). -/
def keyOfSerial (serial : Nat) : List Nat × List Nat :=
  let ks := Config.keyBytes serial
  let part := fun n => (List.range 32).map fun k => (nth 0 ks (n + k)).toNat
  (part 0, part 32)
/-- A line of a number (PA[51:7]) encrypted or decrypted under a key (R227). -/
def xtsLine (undo : Bool) (serial line : Nat) (bs : List Byte) : List Byte :=
  let ks := keyOfSerial serial
  let data := roundKeys ks.1
  let t0 := blockVal (aesEncrypt (roundKeys ks.2) (blockOf line))
  ((List.range 8).foldl (fun (q : List Nat × Nat) k =>
    let t := blockOf q.2
    let x := xorBytes ((List.range 16).map fun j => (nth 0 bs (16 * k + j)).toNat) t
    (q.1 ++ xorBytes (if undo then aesDecrypt data x else aesEncrypt data x) t, nextTweak q.2)) ([], t0)).1.map (BitVec.ofNat 8 ·)

/-- The serial number that stands for no encryption: of links (R228). -/
def plainKey : Nat := 2
/-- A line as HBM holds it, from its bytes under a key; a line that nothing has written (serial 0) is held as it reads (log 2). -/
def storedLine (serial line : Nat) (bs : List Byte) : List Byte :=
  if serial = 0 || serial = plainKey then bs else xtsLine false serial line bs
/-- A line as a read under a key gives it, from the bytes that HBM holds. -/
def openLine (serial line : Nat) (bs : List Byte) : List Byte := if serial = plainKey then bs else xtsLine true serial line bs
/-- A line written under one key and read under another. -/
def otherKey (old key line : Nat) (bs : List Byte) : List Byte := openLine key line (storedLine old line bs)

end Sys2Proof.Machine
end

