-- ==== Sys2Proof/Machine/Cache.lean ====
section
/-! DEFINITION. The part that the fuses leave (00 R1, R2; 18 R371), physical memory and keys (09 R215, R216, R227), and the lines that the L2
holds (R225, R226, 15 R341, R342). -/
namespace Sys2Proof.Machine
open Sys2Proof

/-! ## The part -/

/-- The enabled physical clusters and HBM stacks, ascending: a cluster's virtual number is its place here (R156, R216, R371). -/
def Device.clusterList (d : Device) : List Nat := (List.range 48).filter fun k => d.clusterMap.getLsbD k
def Device.stackList (d : Device) : List Nat := (List.range 8).filter fun k => d.stackMap.getLsbD k
/-- Enabled clusters and HBM bytes, 64 GiB to a stack (R1, R215). -/
def Device.clusters (d : Device) : Nat := d.clusterList.length
def Device.hbmBytes (d : Device) : Nat := 2 ^ 36 * d.stackList.length
/-- DEVCAP (R377). -/
def Device.devcap (d : Device) : Nat := (if d.gradeB then 2 ^ 56 else 0) + 2 ^ 48 * d.stackMap.toNat + d.clusterMap.toNat
/-- Whether the fuses are those of a grade (R1, R371). -/
def Device.fused (d : Device) : Bool :=
  if d.gradeB then
    d.clusters == 42 && d.stackList.length == 6 && (List.range 4).all fun k => decide (10 ≤ (d.clusterList.filter fun c => c / 12 == k).length)
  else d.clusters == 48 && d.stackList.length == 8
/-- The die of a virtual core (R156, R371). -/
def Device.coreDie (d : Device) (core : Nat) : Nat := nth 0 d.clusterList (core / 8) / 12
/-- The physical stack of an HBM address, and its home die (R216, R371). -/
def Device.stackOf (d : Device) (a : Nat) : Nat := nth 0 d.stackList (a / 4096 % d.stackList.length)
def Device.homeDie (d : Device) (a : Nat) : Nat := d.stackOf a / 2

/-! ## Physical memory -/

/-- The part of physical space that holds an address (R215). -/
inductive Phys where
  | hbm (a : Nat)
  | peer (a : Nat)
  | host (a : Nat)
  | nowhere
  deriving DecidableEq, Repr

/-- Where the peers' memory and the host's lie in the physical space (R215). -/
def peerBase : Nat := 0x4000000000000
def hostBase : Nat := 0x8000000000000
def Device.physOf (d : Device) (pa : Nat) : Phys :=
  if pa < d.hbmBytes then .hbm pa
  else if peerBase ≤ pa && pa < 0x5000000000000 then .peer (pa - peerBase)
  else if hostBase ≤ pa && pa < 0x10000000000000 then .host (pa - hostBase)
  else .nowhere
/-- Whether n bytes at a physical address lie in HBM. -/
def State.inHbm (s : State) (pa n : Nat) : Bool := decide (pa + n ≤ s.device.hbmBytes)

/-- The serial number of the firmware's key, in slot 1,023 (R381); 0 while the slot is empty. -/
def State.firmwareKey (s : State) : Nat := assocGet 0 s.device.slots 1023

/-- A byte of HBM under a key (R227): a line never written reads as plain, log 2. -/
def State.hbmByte (s : State) (key a : Nat) : Byte :=
  let old := assocGet 0 s.lineKeys (a / 128)
  if old = 0 || old = key then cellGet s.hbm a
  else nth 0 (otherKey old key (a / 128) (cellsRead s.hbm (a / 128 * 128) 128)) (a % 128)
def State.hbmRead (s : State) (key a n : Nat) : List Byte := (List.range n).map fun k => s.hbmByte key (a + k)

/-- Adds the words of a range of a byte memory that are valid as page-table entries to those that a cached translation may come from (R219,
R222): the range starts at a, and the memory at physical address base. -/
def State.noteEntries (s : State) (m : List Host.Cell) (base a n : Nat) : State :=
  if n = 0 then s
  else
    let words := ((List.range ((a + n - 1) / 8 - a / 8 + 1)).map (a / 8 + ·)).filter fun w => 128 ≤ (cellGet m (8 * w + 7)).toNat
    { s with oldEntries := s.oldEntries ++ words.map fun w =>
        { at_ := base + 8 * w, key := if base = 0 then assocGet 0 s.lineKeys (w / 16) else 0, value := ofBytes (cellsRead m (8 * w) 8), since := s.cycle } }

/-- A line becomes a line of another key, with the bytes that key reads (R225, R227). -/
def State.rekey (s : State) (key line : Nat) : State :=
  let old := assocGet 0 s.lineKeys line
  if old = key then s
  else
    let s := if old = 0 then s else s.noteEntries s.hbm 0 (line * 128) 128
    let hbm := if old = 0 then s.hbm else cellsWrite s.hbm (line * 128) (s.hbmRead key (line * 128) 128)
    { s with hbm := hbm, lineKeys := assocSet 0 line key s.lineKeys }

/-! ## The lines that the L2 holds (R225, R226)

State.hbm gives the bytes that an access to HBM finds, in the L2 or behind it. What a held line that is dirty has in HBM stands in its L2Line. -/

/-- The 128-byte lines of a range. -/
def linesOf (a n : Nat) : List Nat := if n = 0 then [] else (List.range ((a + n - 1) / 128 - a / 128 + 1)).map (a / 128 + ·)
def State.l2Line? (s : State) (line : Nat) : Option L2Line := s.l2.find? fun e => e.line == line
/-- The die and the set of a line (R225). -/
def Device.l2Set (d : Device) (line : Nat) : Nat × Nat := (d.homeDie (line * 128), line % 2 ^ 15 ^^^ line / 2 ^ 15 % 2 ^ 15)
/-- The ways that a partition may fill for a class (R226). -/
def MemBlock.ways (m : MemBlock) (cls : Nat) : Nat := bitsOf m.l2ways.toNat (16 * cls + 15) (16 * cls)
/-- What HBM holds of a line: the serial number of its key, and its bytes under that key. -/
def State.behind (s : State) (line : Nat) : Nat × List Byte :=
  match (s.l2Line? line).bind L2Line.dirty with
  | some x => x
  | none => (assocGet 0 s.lineKeys line, cellsRead s.hbm (line * 128) 128)
/-- A byte of HBM as it is stored, encrypted (R227, R369). -/
def State.storedByte (s : State) (a : Nat) : Byte :=
  let x := s.behind (a / 128)
  nth 0 (storedLine x.1 (a / 128) x.2) (a % 128)

/-- A saturating count in the low or the high half of an error register (R377). -/
def countError (uncorr : Bool) (x : DWord) : DWord :=
  let lo := x.toNat % 2 ^ 32
  let hi := x.toNat / 2 ^ 32
  let up (n : Nat) : Nat := min (n + 1) (2 ^ 32 - 1)
  BitVec.ofNat 64 (if uncorr then up hi * 2 ^ 32 + lo else hi * 2 ^ 32 + up lo)
/-- An error counted for the stack of an HBM address, and for a die, 4 the hub (R377). -/
def State.countStack (s : State) (a : Nat) (uncorr : Bool) : State :=
  s.modDevice fun d => { d with eccstk := modifyNth (countError uncorr) (d.stackOf a) d.eccstk }
def State.countDie (s : State) (die : Nat) (uncorr : Bool) : State :=
  s.modDevice fun d => { d with eccdie := modifyNth (countError uncorr) die d.eccdie }
/-- An uncorrectable error found without a consumer: the firmware learns its physical address (R342), and the PF vector 2 (R375). -/
def State.reportError (s : State) (pa : Nat) : State := (s.modDevice fun d => { d with errors := d.errors ++ [pa] }).msix 0 2

/-- The aligned 8 bytes of a line whose check bits fail in the L2. -/
def State.badHeld (s : State) (line : Nat) : List Nat :=
  s.bad.filterMap fun b => match b with | .l2 w => if w / 16 = line then some w else none | _ => none
/-- A held line leaves the L2. A dirty one is written back: HBM's code words are replaced, and those with data that cannot be corrected keep
check bits that fail, which is an error found without a consumer (R342). -/
def State.l2Drop (s : State) (e : L2Line) : State :=
  let lost := s.badHeld e.line
  let s := { s with l2 := s.l2.erase e, bad := s.bad.filter fun b => match b with | .l2 w => w / 16 ≠ e.line | _ => true }
  if e.dirty.isNone then s
  else
    let stay := s.bad.filter fun b => match b with | .hbm w => w / 4 ≠ e.line | _ => true
    let words := ((List.range 4).map fun k => 4 * e.line + k).filter fun c => lost.any fun w => w / 4 == c
    let s := { s with bad := stay ++ words.map BadWord.hbm }
    if words.isEmpty then s else (s.countDie (s.device.homeDie (e.line * 128)) true).reportError (e.line * 128)
/-- A held line is used: it comes first, and a write makes it dirty. -/
def State.l2Hit (s : State) (e : L2Line) (wr : Bool) : State :=
  let e' := if wr && e.dirty.isNone then { e with dirty := some (s.behind e.line) } else e
  { s with l2 := e' :: s.l2.erase e }
/-- A line that no way holds is filled into a way of a mask: the lowest invalid one, else the one whose line was used longest ago; with a mask
of 0 nothing is filled (R226). -/
def State.l2Fill (s : State) (ways slot line : Nat) (wr : Bool) : State :=
  let peers := s.l2.filter fun e => s.device.l2Set e.line == s.device.l2Set line
  let free := (List.range 16).find? fun w => bitAt ways w && peers.all fun e => e.way ≠ w
  let oldest := (peers.filter fun e => bitAt ways e.way).getLast?
  let fill (s : State) (way : Nat) : State :=
    let failing := s.bad.flatMap fun b => match b with | .hbm w => if w / 4 = line then (List.range 4).map fun k => BadWord.l2 (4 * w + k) else [] | _ => []
    { s with l2 := { line := line, way := way, slot := slot, dirty := if wr then some (s.behind line) else none } :: s.l2, bad := s.bad ++ failing }
  match free, oldest with
  | some w, _ => fill s w
  | none, some e => fill (s.l2Drop e) e.way
  | none, none => s
/-- One access to a line under a key slot, with the ways that it may fill: a hit in any way, a miss, or a line held under another slot, which is
dropped first (R225, R226). -/
def State.touchLine (s : State) (ways slot : Nat) (wr : Bool) (line : Nat) : State :=
  match s.l2Line? line with
  | some e => if e.slot = slot then s.l2Hit e wr else (s.l2Drop e).l2Fill ways slot line wr
  | none => s.l2Fill ways slot line wr
/-- An access to n bytes at a physical address: the L2 holds lines of HBM only (R225). -/
def State.touch (s : State) (p cls slot : Nat) (wr : Bool) (pa n : Nat) : State :=
  match s.device.physOf pa with
  | .hbm a => (linesOf a n).foldl (fun s line => s.touchLine ((s.part p).mem.ways cls) slot wr line) s
  | _ => s
/-- A request to the host, by a function (R374). -/
def State.request (s : State) (fn a n : Nat) (op : HostOp) : State := s.modDevice fun d => { d with requests := d.requests ++ [⟨fn, a, n, op⟩] }
/-- The same of any part of physical space: the host's memory is asked for by the partition's function (R374). -/
def State.touchPhys (s : State) (p cls slot : Nat) (wr : Bool) (pa n : Nat) : State :=
  match s.device.physOf pa with
  | .host a => s.request (p + 1) a n (if wr then .write else .read)
  | _ => s.touch p cls slot wr pa n
/-- An access of the firmware complex, which has no ways of its own: it fills nothing (log 85). -/
def State.touchFirmware (s : State) (a n : Nat) : State := (linesOf a n).foldl (fun s line => s.touchLine 0 1023 true line) s
/-- The lines held under a key slot are written back and dropped (R381). -/
def State.dropSlot (s : State) (slot : Nat) : State := (s.l2.filter fun e => e.slot == slot).foldl State.l2Drop s

/-! ## Reading and writing -/

/-- Writes bytes to HBM under a key. A write of a whole code word repairs it, where the write goes: in the L2 for a line that it holds
(R341, R342). -/
def State.hbmWrite (s : State) (key a : Nat) (bs : List Byte) : State :=
  if bs.isEmpty then s
  else
    let s := (linesOf a bs.length).foldl (fun s l => s.rekey key l) s
    let s := s.noteEntries s.hbm 0 a bs.length
    let whole (start n : Nat) : Bool := decide (a ≤ start) && decide (start + n ≤ a + bs.length)
    { s with
      hbm := cellsWrite s.hbm a bs
      bad := s.bad.filter fun b =>
        match b with
        | .hbm w => (s.l2Line? (w / 4)).isSome || !whole (w * 32) 32
        | .l2 w => !whole (w * 8) 8
        | _ => true }

/-- Whether data that an access to a range of HBM consumes has failing check bits, in the L2 or in HBM (R342). -/
def State.hbmBad (s : State) (a n : Nat) : Bool :=
  s.bad.any fun b =>
    match b with
    | .hbm w => (s.l2Line? (w / 4)).isNone && decide (a < w * 32 + 32) && decide (w * 32 < a + n)
    | .l2 w => decide (a < w * 8 + 8) && decide (w * 8 < a + n)
    | _ => false

/-- Writes bytes to a peer's memory, and to the host's. -/
def State.peerPut (s : State) (a : Nat) (bs : List Byte) : State :=
  { s.noteEntries s.peerMem peerBase a bs.length with peerMem := cellsWrite s.peerMem a bs }
def State.hostPut (s : State) (a : Nat) (bs : List Byte) : State :=
  { s.noteEntries s.hostMem hostBase a bs.length with hostMem := cellsWrite s.hostMem a bs }

def State.physRead (s : State) (key pa n : Nat) : List Byte :=
  match s.device.physOf pa with
  | .hbm a => s.hbmRead key a n
  | .peer a => cellsRead s.peerMem a n
  | .host a => cellsRead s.hostMem a n
  | .nowhere => List.replicate n 0
def State.physWrite (s : State) (key pa : Nat) (bs : List Byte) : State :=
  match s.device.physOf pa with
  | .hbm a => s.hbmWrite key a bs
  | .peer a => s.peerPut a bs
  | .host a => s.hostPut a bs
  | .nowhere => s
/-- Whether HBM data at a physical address has failing check bits. -/
def State.physBad (s : State) (pa n : Nat) : Bool :=
  match s.device.physOf pa with | .hbm a => s.hbmBad a n | _ => false

/-- The serial number of the key in a slot that is assigned to a partition; none otherwise (R222, R227). -/
def State.keyOf (s : State) (p slot : Nat) : Option Nat :=
  let k := assocGet 0 s.device.slots slot
  if (s.part p).keys.contains slot && k ≠ 0 then some k else none

end Sys2Proof.Machine
end

