-- ==== Sys2Proof/Machine/Memory.lean ====
section
/-! DEFINITION. Memory: the page-table walk (09 R218-R223), packed pages (R228-R234), the windows (R206-R208), leases and copies (11 R262,
R264), the writes of other agents that core threads need not see yet (11 R263, R266-R268), and the checks of a core thread's access (01 R28,
09 R235, 10 R236, R241). -/
namespace Sys2Proof.Machine
open Sys2Proof

/-- The slot number that stands for data held without a key: links (R228). -/
def noSlot : Nat := 1024

/-! ## The page table -/

/-- What an access asks of a page (R221). -/
inductive Perm where | read | write | atomic | fetch
  deriving DecidableEq, Repr

/-- What a walk or the checks after it give: no translation, PROTFAULT, a table entry with failing check bits (R342), or
the leaf. -/
inductive Walk where
  | absent
  | refused
  | uncorr
  | leaf (l : Leaf)
  deriving DecidableEq, Repr

/-- The page size of a code (R220), as a power of two. -/
def pageBits : Nat → Nat
  | 0 => 12 | 1 => 16 | 2 => 21 | 3 => 25 | 4 => 28 | 5 => 30 | _ => 34

/-- The levels (R218): lowest index bit, index width, codes of leaves. -/
def tableLevels : List (Nat × Nat × List Nat) :=
  [(48, 8, []), (39, 9, []), (30, 9, [5, 6]), (21, 9, [2, 3, 4]), (12, 9, [0, 1])]

/-- What an entry gives that maps a page for va, on a part with so many bytes of HBM (R219, R220, R221 item 2): its code must be one of the
level's. -/
def leafOf (hbm : Nat) (codes : List Nat) (va e : Nat) : Walk :=
  let code := bitsOf e 62 60
  let frame := bitsOf e 39 0
  let size := 2 ^ pageBits code
  let packed := bitAt e 41
  if !codes.contains code || (packed && decide (hbm ≤ frame * 4096)) then .refused
  else .leaf
    { start := va / size * size, size := size
      frame := if packed then frame else frame * 4096 / size * size / 4096
      r := bitAt e 59, w := bitAt e 58, stamp := bitsOf e 55 52, key := bitsOf e 51 42
      packed := packed, mut_ := bitAt e 40, cls := bitsOf e 57 56 }

/-- One read per level, from the root down, up to the first leaf (R221 items 1 and 2); a table that lies in no part of the
physical space refuses the access (R215). -/
def State.walkFrom (s : State) (key va : Nat) : List (Nat × Nat × List Nat) → Nat → Walk
  | [], _ => .refused
  | (lo, width, codes) :: rest, table =>
    let at_ := table * 4096 + 8 * (va / 2 ^ lo % 2 ^ width)
    let e := ofBytes (s.physRead key at_ 8)
    if s.device.physOf at_ == .nowhere then .refused
    else if s.physBad at_ 8 then .uncorr
    else if !bitAt e 63 then .absent
    else if bitsOf e 62 60 = 7 then (if rest.isEmpty then .refused else s.walkFrom key va rest (bitsOf e 39 0))
    else leafOf s.device.hbmBytes codes va e
/-- The addresses of the entries that a walk reads. -/
def State.walkReads (s : State) (key va : Nat) : List (Nat × Nat × List Nat) → Nat → List Nat
  | [], _ => []
  | (lo, width, _) :: rest, table =>
    let at_ := table * 4096 + 8 * (va / 2 ^ lo % 2 ^ width)
    let e := ofBytes (s.physRead key at_ 8)
    at_ :: (if bitAt e 63 && bitsOf e 62 60 = 7 then s.walkReads key va rest (bitsOf e 39 0) else [])

/-! ### Cached translations (R221, R222) -/

/-- The words of the table at address a of a byte memory that are valid as entries: index and value. -/
def validAt (m : List Host.Cell) (a : Nat) : List (Nat × Nat) :=
  (m.filter fun c => c.1 / 4096 == a / 4096 && c.1 % 8 == 7 && decide (128 ≤ c.2.toNat)).map fun c => (c.1 % 4096 / 8, ofBytes (cellsRead m (c.1 - 7) 8))

/-- Whether the entry of index j and value e serves an access of index i at the level whose lowest index bit is lo: it is the access's own,
or a replica of the page that holds it (R220). -/
def serves (lo : Nat) (codes : List Nat) (i j e : Nat) : Bool :=
  let code := bitsOf e 62 60
  i == j || (codes.contains code && i / 2 ^ (pageBits code - lo) == j / 2 ^ (pageBits code - lo))

/-- Whether a walk has read the leaf entry at an address as it stands now, since the last invalidation of its page; and whether one has read the
value of an entry that a write replaced (R221). -/
def State.walkedNow (s : State) (p a : Nat) : Bool :=
  (s.part p).mem.walked.any fun w => w.at_ == a && s.oldEntries.all fun o => o.at_ ≠ a || decide (o.since ≤ w.since)
def State.walkedBefore (s : State) (p : Nat) (o : OldEntry) : Bool :=
  (s.part p).mem.walked.any fun w => w.at_ == o.at_ && decide (w.since ≤ o.since)
/-- The entries beside the own one, of value e, that a translation of a partition in use at a level may come from: replicas that a walk has
read, and entries that a write replaced, with the cycle of the write (R221, R222). An entry that stands under another key is none of them. -/
def State.otherEntries (s : State) (p key table lo : Nat) (codes : List Nat) (i e : Nat) : List (Nat × Option Nat) :=
  let live : List (Nat × Nat) := match s.device.physOf (table * 4096) with
    | .hbm a => (validAt s.hbm a).filter fun q => let k := assocGet 0 s.lineKeys ((a + 8 * q.1) / 128); k == 0 || k == key
    | .peer a => validAt s.peerMem a
    | .host a => validAt s.hostMem a
    | .nowhere => []
  let now : List (Nat × Nat × Option Nat) := (live.filter fun q => s.walkedNow p (table * 4096 + 8 * q.1)).map fun q => (q.1, q.2, none)
  let past := (s.oldEntries.filter fun o =>
    o.at_ / 4096 == table && (o.key == 0 || o.key == key) && (o.at_ % 4096 / 8 == i || s.walkedBefore p o)).map fun o => (o.at_ % 4096 / 8, o.value, some o.since)
  ((now ++ past).filter fun q => bitAt q.2.1 63 && q.2.1 ≠ e && serves lo codes i q.1 q.2.1).map (·.2)

/-- The value used in place of one, and the cycle of its end if it has ended: any of the others, or none of them. -/
def State.pick (s : State) (va lo e : Nat) (others : List (Nat × Option Nat)) : Nat × Option Nat :=
  match others with
  | [] => (e, none)
  | _ => (others[Config.otherEntry s.cycle (va / 4096) lo]?).getD (e, none)

/-- The translation of va from some choice of entries, and the cycles in which the ended ones among them ended; none when the
choice gives no translation. -/
def State.cachedFrom (s : State) (p key va : Nat) : List (Nat × Nat × List Nat) → Nat → Option (Leaf × List Nat)
  | [], _ => none
  | (lo, width, codes) :: rest, table =>
    let i := va / 2 ^ lo % 2 ^ width
    let at_ := table * 4096 + 8 * i
    let e := ofBytes (s.physRead key at_ 8)
    let q := s.pick va lo e (s.otherEntries p key table lo codes i e)
    if s.device.physOf at_ == .nowhere || (q.1 == e && s.physBad at_ 8) || !bitAt q.1 63 then none
    else if bitsOf q.1 62 60 = 7 then (s.cachedFrom p key va rest (bitsOf q.1 39 0)).map fun r => (r.1, q.2.toList ++ r.2)
    else match leafOf s.device.hbmBytes codes va q.1 with
      | .leaf l => some (l, q.2.toList)
      | _ => none

/-- Whether a translation from an entry that a write ended in some cycle may still be in use: no invalidation of its page that was written later
has completed (R222). -/
def MemBlock.holds (m : MemBlock) (l : Leaf) (ended : Nat) : Bool :=
  m.tlbDone.all fun i => decide (i.since ≤ ended) || i.page.any fun q => q ≠ (l.start, l.size)

/-- A translation that an access of the partition may use though the table no longer gives it (R221, R222). -/
def State.cached (s : State) (p va : Nat) : Option Leaf :=
  let m := (s.part p).mem
  let root := s.pick va 64 m.ptroot.toNat (m.oldRoots.map fun r => (r.1, some r.2))
  (s.keyOf p (bitsOf root.1 10 1)).bind fun key =>
    (s.cachedFrom p key va tableLevels (bitsOf root.1 51 12)).bind fun r =>
      if (root.2.toList ++ r.2).all (m.holds r.1) then some r.1 else none

/-- The walk of the table as it stands (R221 items 1 and 2, R222). -/
def State.walk (s : State) (p va : Nat) : Walk :=
  let root := (s.part p).mem.ptroot.toNat
  match s.keyOf p (bitsOf root 10 1) with
  | none => .refused
  | some key => s.walkFrom key va tableLevels (bitsOf root 51 12)

/-- The physical address of a byte of a page that is not packed. -/
def Leaf.pa (l : Leaf) (va : Nat) : Nat := l.frame * 4096 + (va - l.start)

/-- The checks of R221 items 3 and 4, and of R227, on the leaf that an access uses; the KEY of a page of a peer's memory is ignored (R380). -/
def State.permit (s : State) (p va : Nat) (perm : Perm) (l : Leaf) : Walk :=
  let allowed := match perm with
    | .read | .fetch => l.r
    | .write => l.w
    | .atomic => l.r && l.w
  let phys := s.device.physOf (l.pa va)
  let peer := !l.packed && match phys with | .peer _ => true | _ => false
  if !allowed then .refused
  else if !l.packed && phys == .nowhere then .refused
  else if !peer && (s.keyOf p l.key).isNone then .refused
  else .leaf l

/-- The translation of an address, before its checks: a cached one that may still be in use, else a walk's (R217, R221, R222). -/
def State.lookup (s : State) (p va : Nat) : Walk :=
  if !(s.part p).mem.ptroot.getLsbD 0 || decide (0x00FD000000000000 ≤ va) then .refused
  else match s.cached p va with
    | some l => .leaf l
    | none => s.walk p va
/-- A translation that an access has, after the checks of R221. -/
def State.permitted (s : State) (p va : Nat) (perm : Perm) : Walk → Walk
  | .leaf l => if s.bad.contains (.tlb p l.start) then .uncorr else s.permit p va perm l
  | w => w
/-- The translation of an access, with the checks of R217 and R221. A cached translation whose check bits fail is as data of the L2 that an
access reads (R341, log 87). -/
def State.translate (s : State) (p va : Nat) (perm : Perm) : Walk := s.permitted p va perm (s.lookup p va)
/-- What the walk for an address leaves, where none has read the leaf entry of the address as it stands since the last invalidation: the L2 has
served the entries (R222), for class 0 (log 85), or the host (R374), and the leaf entry is one that a walk has read (R221). -/
def State.noteWalk (s : State) (p va : Nat) : State :=
  let m := (s.part p).mem
  let root := m.ptroot.toNat
  if !m.ptroot.getLsbD 0 || decide (0x00FD000000000000 ≤ va) then s
  else match s.keyOf p (bitsOf root 10 1) with
    | none => s
    | some key =>
      let reads := s.walkReads key va tableLevels (bitsOf root 51 12)
      if reads.getLast?.any (s.walkedNow p) then s
      else
      let t := reads.foldl (fun s a => s.touchPhys p 0 (bitsOf root 10 1) false a 8) s
      match s.walk p va, reads.getLast? with
      | .leaf l, some a => t.modPart p fun q => { q with mem := { q.mem with walked := q.mem.walked ++ [⟨a, l.start, l.size, s.cycle⟩] } }
      | _, _ => t
/-- The page of an address that the memory word of the chain has already looked up (R223). -/
def State.lookedUp (s : State) (va : Nat) : Option Leaf :=
  s.issue.bind fun c => c.pages.find? fun l => decide (l.start ≤ va) && decide (va < l.start + l.size)
/-- The translation that an access of the chain's memory word has: each page is looked up once (R223). -/
def State.translateOnce (s : State) (p va : Nat) (perm : Perm) : Walk :=
  match s.lookedUp va with
  | some l => s.permitted p va perm (.leaf l)
  | none => s.translate p va perm
/-- The memory word of the chain looks up the page of an address, unless it has done so. -/
def State.look (s : State) (p va : Nat) : State :=
  if (s.lookedUp va).isSome then s
  else
    let t := s.noteWalk p va
    { t with issue := t.issue.map fun c =>
        { c with looks := c.looks ++ [va], pages := match s.lookup p va with | .leaf l => c.pages ++ [l] | _ => c.pages } }

/-! ## Packed pages -/

/-- The address of the link of a chunk (R228), of the chunk, and of the map word of block j of a packed page. -/
def State.linkAt (s : State) (p c : Nat) : Nat := bitsOf (s.part p).mem.chklink.toNat 51 12 * 4096 + 4 * c
def State.chunkAt (s : State) (p c : Nat) : Nat := bitsOf (s.part p).mem.chkbase.toNat 51 12 * 4096 + 256 * c
def Leaf.mapAt (l : Leaf) (j : Nat) : Nat := l.frame * 4096 + 8 * j
/-- The link of a chunk (R228). -/
def State.link (s : State) (p c : Nat) : Nat :=
  ofBytes (s.hbmRead plainKey (s.linkAt p c) 4)
def State.setLink (s : State) (p c next : Nat) : State :=
  s.hbmWrite plainKey (s.linkAt p c) (leBytes 4 next)
/-- The chain of n chunks that starts at c; none when it names a chunk at or above CHKSIZE (R228), or one that does not lie in HBM, or whose
link is needed and does not (R215, log 88). -/
def State.chain (s : State) (p : Nat) : Nat → Nat → Option (List Nat)
  | 0, _ => some []
  | n + 1, c =>
    if (s.part p).mem.chksize.toNat ≤ c || !s.inHbm (s.chunkAt p c) 256 || (n ≠ 0 && !s.inHbm (s.linkAt p c) 4) then none
    else (s.chain p n (s.link p c)).map (c :: ·)

/-- The payload bytes of a sector code (R229). -/
def sectorBytes : Nat → Nat | 0 => 0 | 1 => 4 | 2 => 20 | _ => 64

/-- A sector from its code and payload (R229). -/
def expandSector (code : Nat) (pay : List Byte) : List Byte :=
  match code with
  | 0 => List.replicate 64 0
  | 1 => (List.replicate 16 (pay.take 4)).flatten
  | 2 => (List.range 16).flatMap fun k =>
      leBytes 4 (((field pay 0 4 : Int) + signExtend (field pay (4 + k) 1) 8) % 2 ^ 32).toNat
  | _ => pay

/-- The sectors of a block from its header and payload stream. -/
def expandSectors (header : Nat) : Nat → Nat → List Byte → List Byte
  | 0, _, _ => []
  | n + 1, k, pay =>
    let code := bitsOf header (2 * k + 1) (2 * k)
    let b := sectorBytes code
    expandSector code (pay.take b) ++ expandSectors header n (k + 1) (pay.drop b)

/-- The canonical code of a sector (R230). -/
def sectorCode (ws : List Word) : Nat :=
  let w0 := ws.headD 0
  if ws.all (· == 0) then 0
  else if ws.all (· == w0) then 1
  else if ws.all fun w => let d := (w - w0).toInt; decide (-128 ≤ d) && decide (d ≤ 127) then 2
  else 3
def packSector (ws : List Word) : List Byte :=
  let w0 := ws.headD 0
  match sectorCode ws with
  | 0 => []
  | 1 => leBytes 4 w0.toNat
  | 2 => leBytes 4 w0.toNat ++ ws.map fun w => (w - w0).setWidth 8
  | _ => wordsToBytes ws

/-- The list cut into pieces of n bytes, with fuel. -/
def pieces {α : Type} (n : Nat) : Nat → List α → List (List α)
  | 0, _ => []
  | fuel + 1, l => if l.isEmpty then [] else l.take n :: pieces n fuel (l.drop n)

/-- The canonical encoding of a block (R230): N, RAW and the bytes stored. -/
def packBlock (block : List Byte) : Nat × Bool × List Byte :=
  let secs := (pieces 64 32 block).map bytesToWords
  let header := (secs.zipIdx).foldl (fun a q => a + sectorCode q.1 * 4 ^ q.2) 0
  let stream := leBytes 8 header ++ secs.flatMap packSector
  if secs.all fun ws => sectorCode ws == 0 then (0, false, [])
  else if 2048 < stream.length then (8, true, block)
  else ((stream.length + 255) / 256, false, stream)

/-- The map word of block j of a packed page: N, RAW, FIRST (R228). -/
def State.mapWord (s : State) (key : Nat) (l : Leaf) (j : Nat) : Nat × Bool × Nat :=
  let w := ofBytes (s.hbmRead key (l.mapAt j) 8)
  (bitsOf w 63 60, bitAt w 59, bitsOf w 31 0)

/-- Block j of a packed page, expanded (R229, R231); none when its map word does not lie in HBM (R215) or its chain leaves the pool. -/
def State.readBlock (s : State) (p key : Nat) (l : Leaf) (j : Nat) : Option (List Byte) :=
  let (n, raw, first) := s.mapWord key l j
  if !s.inHbm (l.mapAt j) 8 then none
  else if n = 0 then some (List.replicate 2048 0)
  else (s.chain p (min n 8) first).map fun chunks =>
    let stream := chunks.flatMap fun c => s.hbmRead key (s.chunkAt p c) 256
    if raw then stream else expandSectors (field stream 0 8) 32 0 (stream.drop 8)

/-- Stores the bytes of a block into chunks. -/
def State.storeChunks (s : State) (p key : Nat) : List Nat → List Byte → State
  | [], _ => s
  | c :: cs, bs => (s.hbmWrite key (s.chunkAt p c) (bs.take 256)).storeChunks p key cs (bs.drop 256)

/-- Writes the map word of a block. -/
def State.setMapWord (s : State) (key : Nat) (l : Leaf) (j n : Nat) (raw : Bool) (first : Nat) : State :=
  s.hbmWrite key (l.mapAt j) (leBytes 8 (n * 2 ^ 60 + (if raw then 2 ^ 59 else 0) + first))

/-- The chain of 8 chunks that a mutable block owns (R233); none when it leaves the pool (R228). -/
def State.ownChain (s : State) (p key : Nat) (l : Leaf) (j : Nat) : Option (List Nat) := s.chain p 8 (s.mapWord key l j).2.2
/-- A write to a mutable packed block, into its own chain of 8 chunks (R233). -/
def State.writeMutable (s : State) (p key : Nat) (l : Leaf) (j : Nat) (block : List Byte) : Option State :=
  (s.ownChain p key l j).map fun chunks =>
    let (n, raw, stream) := packBlock block
    (s.storeChunks p key (chunks.take n) stream).setMapWord key l j n raw (s.mapWord key l j).2.2

/-- The pool interrupt and LOW, when CHKAVAIL falls below CHKLOW (R234). -/
def MemBlock.lowWater (m : MemBlock) (before : Nat) : MemBlock :=
  if m.avail < m.chklow.toNat && m.chklow.toNat ≤ before then { m with low := true } else m

/-- Takes k chunks from the head of the free list (R234); none when it holds fewer. Its links are read and written beside the L2 (log 85). -/
def State.takeChunks (s : State) (p k : Nat) : Option (List Nat × State) :=
  let m := (s.part p).mem
  if m.avail < k then none
  else
    let step := fun (q : List Nat × Nat) (_ : Nat) => (q.1 ++ [q.2], s.link p q.2)
    let (cs, head) := (List.range k).foldl step ([], m.head)
    some (cs, s.modPart p fun q =>
      let after := { q.mem with avail := q.mem.avail - k, head := head }
      { q with
        mem := after.lowWater q.mem.avail
        poolIrq := if after.avail < after.chklow.toNat && after.chklow.toNat ≤ q.mem.avail then q.poolIrq + 1 else q.poolIrq })

/-- Appends a chunk to the tail of the free list (R234), whose link is written beside the L2 (log 85). -/
def State.pushChunk (s : State) (p c : Nat) : State :=
  let m := (s.part p).mem
  let s := if m.avail = 0 then s else s.setLink p m.tail c
  s.modPart p fun q =>
    { q with mem := { q.mem with avail := q.mem.avail + 1, tail := c, head := if q.mem.avail = 0 then c else q.mem.head } }

/-! ## Access through a page -/

/-- The part of physical space that holds a byte of a page that is not packed (R215); none of a packed page. -/
def State.phys? (s : State) (l : Leaf) (va : Nat) : Option Phys := if l.packed then none else some (s.device.physOf (l.pa va))
/-- The peer address of a byte of a page, if the page maps peer memory, and the host address, if it maps the host's (R215). -/
def State.peerAt (s : State) (l : Leaf) (va : Nat) : Option Nat := match s.phys? l va with | some (.peer a) => some a | _ => none
def State.hostAt (s : State) (l : Leaf) (va : Nat) : Option Nat := match s.phys? l va with | some (.host a) => some a | _ => none

/-- The 1,024 bytes of a partition's export table (R380): as cached, or as its page holds them. -/
def State.exportBytes (s : State) (p : Nat) : List Byte :=
  match (s.part p).exports with
  | some bs => bs
  | none =>
    let va := bitsOf (s.part p).expbase.toNat 55 10 * 1024
    match s.translate p va .read with
    | .leaf l =>
      (match s.keyOf p l.key with
        | some key => if l.packed then ((s.readBlock p key l ((va - l.start) / 2048)).getD []).drop ((va - l.start) % 2048) |>.take 1024
                      else s.physRead key (l.pa va) 1024
        | none => [])
    | _ => []

/-- The key serial and the slot under which a partition's export table admits an access to n bytes at x by a partition of a rank: the
lowest-numbered entry that covers x and names the source decides (R380); reserved bits are ignored (R10). -/
def State.exported (s : State) (p rank src x n : Nat) (wr : Bool) : Option (Nat × Nat) :=
  let es := (pieces 16 64 (s.exportBytes p)).filter fun e =>
    let base := field e 0 8 / 4096 * 4096
    let len := 4096 * field e 8 4
    decide (base ≤ x) && decide (x < base + len) && field e 14 2 % 2 ^ 13 == rank + 512 * src
  match es with
  | e :: _ =>
    let attr := field e 12 2
    if (wr && !bitAt attr 10) || field e 0 8 / 4096 * 4096 + 4096 * field e 8 4 < x + n || !s.inHbm x n then none
    else (s.keyOf p (bitsOf attr 9 0)).map fun k => (k, bitsOf attr 9 0)
  | [] => none

/-- Whether an access of partition p to peer memory is accepted: by the own export table for the own rank, else by what
the peer has opened (R380, log 21). -/
def State.peerAccepts (s : State) (p a n : Nat) (wr : Bool) : Bool :=
  let rank := a / 2 ^ 39
  s.device.joined &&
    (if rank = s.device.rank then (s.exported p rank p (a % 2 ^ 39) n wr).isSome
     else s.device.peerGrants.any fun g =>
       g.rank == rank && g.p == p && decide (g.base ≤ a % 2 ^ 39) && decide (a % 2 ^ 39 + n ≤ g.base + g.length) && (g.write || !wr))

/-- The export entries are cached from the first access that they decide until EXPBASE is written (R380). -/
def State.cacheExports (s : State) (p : Nat) : State :=
  let bs := s.exportBytes p
  if (s.part p).exports.isSome || bs.length ≠ 1024 then s else s.modPart p fun q => { q with exports := some bs }

/-- Where bytes stand that a page of this device's memory maps: in HBM, or in the block of a packed page named by its map word's address, from
a place on; the key's serial number and slot; and whether a core may keep a copy of them (R262). -/
structure Spot where
  block : Option Nat
  at_ : Nat
  key : Nat
  slot : Nat
  copy : Bool
  deriving DecidableEq, Repr
/-- Where n bytes at va of a page stand; an access to the own rank comes back through the export table (R380). None of other memory. -/
def State.spot (s : State) (p : Nat) (l : Leaf) (va n : Nat) (wr : Bool) : Option Spot :=
  match s.phys? l va with
  | none => (s.keyOf p l.key).map fun k => ⟨some (l.mapAt ((va - l.start) / 2048)), (va - l.start) % 2048, k, l.key, true⟩
  | some (.hbm a) => (s.keyOf p l.key).map fun k => ⟨none, a, k, l.key, true⟩
  | some (.peer a) =>
    if s.device.joined && a / 2 ^ 39 == s.device.rank then
      (s.exported p s.device.rank p (a % 2 ^ 39) n wr).map fun k => ⟨none, a % 2 ^ 39, k.1, k.2, false⟩
    else none
  | some _ => none
/-- The line of HBM at whose home an access is made: that of its bytes, or of its block's map word (R231, R262). -/
def Spot.line (sp : Spot) : Nat := match sp.block with | some b => b / 128 | none => sp.at_ / 128

/-- Reads bytes that lie in one page, and in one block if it is packed; none when a chain leaves the pool or a peer
refuses. -/
def State.pageRead (s : State) (p : Nat) (l : Leaf) (va n : Nat) : Option (List Byte) :=
  match s.spot p l va n false with
  | some sp =>
    if sp.block.isSome then (s.readBlock p sp.key l ((va - l.start) / 2048)).map fun b => (b.drop sp.at_).take n
    else some (s.hbmRead sp.key sp.at_ n)
  | none =>
    match s.phys? l va with
    | some (.peer a) => if s.peerAccepts p a n false then some (cellsRead s.peerMem a n) else none
    | some (.host a) => if (s.keyOf p l.key).isSome then some (cellsRead s.hostMem a n) else none
    | _ => none

/-- Replaces bytes of a list at an offset. -/
def patch (bs : List Byte) (off : Nat) (new : List Byte) : List Byte :=
  bs.take off ++ new ++ bs.drop (off + new.length)

/-- Whether a code object has bytes in a range of virtual addresses. -/
def Launch.covers (l : Launch) (va n : Nat) : Bool := decide (l.code < va + n) && decide (va < l.code + 4 * l.codelen)
/-- The launches of a partition that have issued and may still fetch, and whose code objects have bytes in a range. -/
def State.codeAt (s : State) (p va n : Nat) : List Launch :=
  let tasks := (s.part p).window.filterMap fun t => if t.status == .issued then t.launch else none
  let flocks := (s.flocks.filter fun fl => fl.p == p && fl.status ≠ .retired && fl.status ≠ .aborted).map Flock.launch
  (tasks ++ flocks).filter fun l => l.covers va n
/-- Adds the words of code objects in use that a write of n bytes at va is about to replace to those that a fetch may still take (R261). -/
def State.noteCode (s : State) (p : Nat) (l : Leaf) (va n : Nat) : State :=
  let runs := s.codeAt p va n
  if runs.isEmpty then s
  else
    let words := ((List.range ((va + n - 1) / 4 - va / 4 + 1)).map (va / 4 + ·)).filter fun w => runs.any fun r => r.covers (4 * w) 4
    { s with oldCode := s.oldCode ++ words.filterMap fun w => (s.pageRead p l (4 * w) 4).map fun bs => ⟨p, 4 * w, ofBytes bs, s.cycle⟩ }

/-- Writes bytes that lie in one page, and in one block if it is packed and mutable. -/
def State.pageWrite (s : State) (p : Nat) (l : Leaf) (va : Nat) (bs : List Byte) : Option State :=
  let s := s.noteCode p l va bs.length
  match s.spot p l va bs.length true with
  | some sp =>
    if sp.block.isSome then
      let j := (va - l.start) / 2048
      (s.readBlock p sp.key l j).bind fun b => s.writeMutable p sp.key l j (patch b sp.at_ bs)
    else some (s.hbmWrite sp.key sp.at_ bs)
  | none =>
    match s.phys? l va with
    | some (.peer a) => if s.peerAccepts p a bs.length true then some (s.peerPut a bs) else none
    | some (.host a) => if (s.keyOf p l.key).isSome then some (s.hostPut a bs) else none
    | _ => none

/-- The chunks that a packed block's chain has now, and the own chain of a mutable one. -/
def State.blockChunks (s : State) (p key : Nat) (l : Leaf) (j : Nat) : List Nat :=
  let (k, _, first) := s.mapWord key l j
  (s.chain p (min k 8) first).getD []
/-- The ranges of HBM that a read through a page consumes: of a packed page, the block's map word, the links between its chunks, and its chunks
(R231). -/
def State.pageRanges (s : State) (p : Nat) (l : Leaf) (va n : Nat) (sp : Spot) : List (Nat × Nat) :=
  match sp.block with
  | some b =>
    let chunks := s.blockChunks p sp.key l ((va - l.start) / 2048)
    (b, 8) :: (chunks.dropLast.map fun c => (s.linkAt p c, 4)) ++ chunks.map fun c => (s.chunkAt p c, 256)
  | none => [(sp.at_, n)]
/-- Whether HBM data that a read through a page consumes has failing check bits (R342). -/
def State.pageBad (s : State) (p : Nat) (l : Leaf) (va n : Nat) : Bool :=
  if s.bad.isEmpty then false
  else match s.spot p l va n false with
    | some sp => (s.pageRanges p l va n sp).any fun r => s.hbmBad r.1 r.2
    | none => false

/-- The L2 serves an access to a page (R225, R226), or it goes to the host (R374): its lines; or the block's map word, and the chunks and links of its chain, the whole own
chain of a mutable block that is written (R231, R233). -/
def State.touchPage (s : State) (p : Nat) (l : Leaf) (wr : Bool) (va n : Nat) : State :=
  match s.spot p l va n wr with
  | some sp =>
    (match sp.block with
      | some b =>
        let j := (va - l.start) / 2048
        let chunks := if wr then (s.ownChain p sp.key l j).getD [] else s.blockChunks p sp.key l j
        let s := s.touch p l.cls sp.slot wr b 8
        let s := chunks.dropLast.foldl (fun s c => s.touch p l.cls noSlot false (s.linkAt p c) 4) s
        chunks.foldl (fun s c => s.touch p l.cls sp.slot wr (s.chunkAt p c) 256) s
      | none => s.touch p l.cls sp.slot wr sp.at_ n)
  | none =>
    match s.hostAt l va with
    | some a => s.request (p + 1) a n (if wr then .write else .read)
    | none => s
/-- The 128-byte line of an access through a page, or its block (R223): a line of HBM, a block by its map word's address, a line of the host's
memory, or nothing of this device's. -/
def State.lineAt (s : State) (p : Nat) (l : Leaf) (wr : Bool) (va n : Nat) : Nat × Nat :=
  match s.spot p l va n wr, s.hostAt l va with
  | some sp, _ => (match sp.block with | some b => (1, b) | none => (0, sp.at_ / 128))
  | none, some a => (2, a / 128)
  | none, none => (3, va / 128)
/-- The last request of a function for a line of the host's memory grows by another thread's bytes of it (R223, log 107). -/
def State.growRequest (s : State) (fn a n : Nat) : State :=
  s.modDevice fun d =>
    let grow (r : HostRequest) : HostRequest := { r with addr := min r.addr a, len := max (r.addr + r.len) (a + n) - min r.addr a }
    let k := (d.requests.zipIdx.filter fun r => r.1.fn == fn && r.1.addr / 128 == a / 128).getLast?
    { d with requests := match k with | some r => modifyNth grow r.2 d.requests | none => d.requests }
/-- A thread's access to a page: the memory word asks once for each line or block that its threads touch (R223). -/
def State.touchOnce (s : State) (p : Nat) (l : Leaf) (wr : Bool) (va n : Nat) : State :=
  let key := s.lineAt p l wr va n
  match s.issue with
  | some c =>
    if c.asked.contains key then (match s.hostAt l va with | some a => s.growRequest (p + 1) a n | none => s)
    else { s.touchPage p l wr va n with issue := some { c with asked := c.asked ++ [key] } }
  | none => s.touchPage p l wr va n

/-- An uncorrectable error that a consumer found in data at an HBM address is counted (R377): for the stack, where HBM's own code word fails,
else for the line's home die. -/
def State.countFound (s : State) (a : Nat) : State :=
  if s.bad.contains (.hbm (a / 32)) && (s.l2Line? (a / 128)).isNone then s.countStack a true else s.countDie (s.device.homeDie a) true
/-- The first aligned 8 bytes of some ranges of HBM whose check bits fail. -/
def State.firstBad (s : State) (ranges : List (Nat × Nat)) : Option Nat :=
  ranges.findSome? fun r => ((List.range (r.2 / 8 + 2)).map fun k => r.1 / 8 * 8 + 8 * k).find? fun a => decide (a < r.1 + r.2) && s.hbmBad a 8
/-- The same, of an access to n bytes at va: of the first failing word that it reads, in the table, in a cached translation (counted for a die,
4 the hub), or of its data. -/
def State.countFoundAt (s : State) (die p va n : Nat) : State :=
  let found (ranges : List (Nat × Nat)) : State := match s.firstBad ranges with | some a => s.countFound a | none => s
  match s.lookup p va with
  | .leaf l =>
    if s.bad.contains (.tlb p l.start) then s.countDie die true
    else (match s.spot p l va n false with | some sp => found (s.pageRanges p l va n sp) | none => s)
  | .uncorr =>
    let root := (s.part p).mem.ptroot.toNat
    let key := (s.keyOf p (bitsOf root 10 1)).getD 0
    found ((s.walkReads key va tableLevels (bitsOf root 51 12)).filterMap fun a => match s.device.physOf a with | .hbm x => some (x, 8) | _ => none)
  | _ => s

/-! ## Logical clocks, leases and copies (R262, R264) -/

/-- Whether a write still waits to enter the single order: at most 2,600 cycles (R263, R267). -/
def State.isLate (s : State) (w : LateWrite) : Bool := decide (s.cycle < w.since + 2600)
/-- Whether a write's unit has a byte in a range. -/
def LateWrite.meets (w : LateWrite) (block : Option Nat) (x n : Nat) : Bool :=
  w.block == block && decide (w.start < x + n) && decide (x < w.start + w.old.length)

/-- LEASE, in ticks (R262). -/
def leaseTicks : Nat := 64
/-- The logical clock of a core: one tick in 32 cycles, and what has raised it beyond that (R262). -/
def State.clock (s : State) (core : Nat) : Nat := assocGet 0 s.clocks core + s.cycle / 32
def State.raiseClock (s : State) (core x : Nat) : State :=
  if x ≤ s.clock core then s else { s with clocks := assocSet 0 core (x - s.cycle / 32) s.clocks }
/-- No core's clock is beyond this. -/
def State.clockMax (s : State) : Nat := s.clocks.foldl (fun a q => max a q.2) 0 + s.cycle / 32
/-- The write time and the lease end of a line at its home. -/
def State.home (s : State) (line : Nat) : Nat × Nat := assocGet (0, 0) s.homes line
def State.setHome (s : State) (line : Nat) (x : Nat × Nat) : State := { s with homes := assocSet (0, 0) line x s.homes }
/-- Where the unit starts that a core keeps a copy of: a line, or a whole block. -/
def Spot.unit (sp : Spot) : Nat := if sp.block.isSome then 0 else sp.at_ / 128 * 128
def Copy.is (c : Copy) (core : Nat) (sp : Spot) : Bool := c.core == core && c.block == sp.block && c.start == sp.unit
/-- The copy that a load of a core would hit: its lease end is not below the core's clock (R262). -/
def State.copyFor (s : State) (core : Nat) (sp : Spot) : Option Copy :=
  if sp.copy then s.copies.find? fun c => c.is core sp && c.key == sp.key && decide (s.clock core ≤ c.leaseEnd) else none
/-- A load that misses: the home extends the line's lease, the core's clock follows the write time, and the core keeps the copy, if there is
one to keep (R262). -/
def State.loadMiss (s : State) (core : Nat) (sp : Spot) (data : Option (List Byte)) (news : List LateWrite := []) : State :=
  let h := s.home sp.line
  let leaseEnd := max h.2 (s.clock core + leaseTicks)
  let t := (s.setHome sp.line (h.1, leaseEnd)).raiseClock core h.1
  let others := t.copies.filter fun c => !c.is core sp
  match data with
  | some bs => { t with copies := others ++ [⟨core, sp.block, sp.unit, sp.key, bs, min leaseEnd (t.clock core + leaseTicks), news⟩] }
  | none => { t with copies := others }
/-- A store, an atomic or a CAS at its home: it is made after every lease on the line, and the writer's clock follows (R262). -/
def State.storeTime (s : State) (core : Nat) (sp : Spot) : State :=
  let h := s.home sp.line
  let time := max (h.2 + 1) (s.clock core)
  (s.setHome sp.line (time, time)).raiseClock core time
/-- Copies that some writes have reached are dropped. -/
def State.dropCopies (s : State) (ws : List LateWrite) : State :=
  if ws.isEmpty then s
  else { s with copies := s.copies.filter fun c => ws.all fun w => !w.meets c.block c.start c.data.length }

/-! ## Writes of other agents that core threads need not see yet (R266-R268) -/

/-- The classes of observers by their bits in a mask (R58). -/
def classEngine : Nat := 1
def classPeer : Nat := 3
def classHost : Nat := 4
/-- An engine that works for no task, of partition 0 unless another is named, a peer, and the host, as writers. -/
def Writer.engine : Writer := { cls := classEngine }
def Writer.peer : Writer := { cls := classPeer }
def Writer.host : Writer := { cls := classHost }

/-- Notes what core threads may still read of n bytes of HBM that another agent is about to write: by aligned 16 bytes, by 8 for the host. -/
def State.noteHbm (s : State) (by_ : Writer) (key a n : Nat) : State :=
  let u := if by_.cls = classHost then 8 else 16
  if n = 0 then s
  else { s with late := s.late.filter s.isLate ++ (List.range ((a + n - 1) / u - a / u + 1)).map fun k =>
    ⟨by_, s.cycle, none, (a / u + k) * u, key, s.hbmRead key ((a / u + k) * u) u⟩ }
/-- The same for bytes of a page; a block of a packed page is one unit (R231). -/
def State.noteLate (s : State) (by_ : Writer) (p : Nat) (l : Leaf) (va n : Nat) : State :=
  match s.spot p l va n true with
  | some sp =>
    (match sp.block with
      | none => s.noteHbm by_ sp.key sp.at_ n
      | some b =>
        (match s.readBlock p sp.key l ((va - l.start) / 2048) with
          | some old => { s with late := s.late.filter s.isLate ++ [⟨by_, s.cycle, some b, 0, sp.key, old⟩] }
          | none => s))
  | none => s
/-- Of writes, oldest first, those that enter the single order when some do: all writes to one byte enter in the order of their home steps, so
each older one that reaches a byte of one that enters does too (R267). The test takes a write's place in the list. -/
def entering (test : Nat → LateWrite → Bool) (k : Nat) : List LateWrite → List LateWrite
  | [] => []
  | w :: rest =>
    let r := entering test (k + 1) rest
    if test k w || r.any (fun v => v.meets w.block w.start w.old.length) then w :: r else r
/-- Writes enter the single order: copies of what they wrote are kept no longer. -/
def State.enterThese (s : State) (ws : List LateWrite) : State :=
  if ws.isEmpty then s else { s with late := s.late.filter fun w => !ws.contains w }.dropCopies ws
/-- Every write of some writers enters the single order (R267, R268). -/
def State.enter (s : State) (test : Writer → Bool) : State := s.enterThese (entering (fun _ w => test w.writer) 0 s.late)
/-- The writes of the classes of an observer mask enter the single order (R268). -/
def State.enterClasses (s : State) (mask : Nat) : State := s.enter fun w => bitAt mask w.cls
/-- The writes that the engines have made for a task enter the single order (R200, R264, R268, R306). -/
def State.enterTask (s : State) (p seq : Nat) : State := s.enter fun w => w.p == p && w.seq == some seq
/-- The writes to n bytes of one page enter the single order. -/
def State.enterBytes (s : State) (p va n : Nat) : State :=
  match s.lookup p va with
  | .leaf l => (match s.spot p l va n true with
      | some sp => s.enterThese (entering (fun _ w => w.meets sp.block sp.at_ n) 0 s.late)
      | none => s)
  | _ => s
/-- The writes of operations of a partition's engines enter the single order (R268). -/
def State.enterOps (s : State) (p : Nat) (ops : WriteOp → Bool) : State := s.enter fun w => w.p == p && w.op ≠ .none && ops w.op

/-- The bytes of a unit that some late writes have not reached for a reader. -/
def unseen (left : List LateWrite) (block : Option Nat) (x : Nat) (home : List Byte) : List Byte :=
  home.zipIdx.map fun q =>
    match left.find? fun w => w.meets block (x + q.2) 1 with
    | some w => nth q.1 w.old (x + q.2 - w.start)
    | none => q.1
/-- What a load that misses reads of n bytes at a place of HBM or of a block: at home, but for writes of other agents that it does not return
yet; those that it returns enter the single order (R267). The core keeps a copy of the home's bytes, unless it passed over a write; the copy may
carry writes elsewhere in the line that have still to enter. -/
def State.missRead (s : State) (core : Nat) (sp : Spot) (n : Nat) (home unit : List Byte) : State × List Byte :=
  let meets (w : LateWrite) : Bool := s.isLate w && w.key == sp.key && w.meets sp.block sp.at_ n
  let carried (w : LateWrite) : Bool := s.isLate w && w.key == sp.key && w.meets sp.block sp.unit unit.length
  if !s.late.any meets then (s.loadMiss core sp (if sp.copy then some unit else none) (s.late.filter carried), home)
  else
    let seen := entering (fun k w => meets w && Config.seesLate (s.fresh + k)) 0 s.late
    let left := s.late.filter fun w => meets w && !seen.contains w
    let t : State := { s.enterThese seen with fresh := s.fresh + s.late.length }
    (t.loadMiss core sp (if sp.copy && left.isEmpty then some unit else none) (t.late.filter carried), unseen left sp.block sp.at_ home)
/-- The block that the chain's memory word has already fetched (R231). -/
def State.blockSeen (s : State) (sp : Spot) : Option (List Byte) :=
  sp.block.bind fun b => s.issue.bind fun c => (c.blocks.find? fun q => q.1 == b).map Prod.snd
def State.noteBlock (s : State) (sp : Spot) (bs : List Byte) : State :=
  match sp.block, s.issue with
  | some b, some c => { s with issue := some { c with blocks := c.blocks ++ [(b, bs)] } }
  | _, _ => s
/-- A load that hits a copy returns the writes among its bytes that have still to enter the single order: they enter it (R267). -/
def State.hitEnters (s : State) (c : Copy) (sp : Spot) (n : Nat) : State :=
  s.enterThese (entering (fun _ w => c.news.contains w && s.isLate w && w.meets sp.block sp.at_ n) 0 s.late)
/-- A load that misses, of a line or of a whole block (R231, R262). -/
def State.coreMiss (s : State) (p core : Nat) (l : Leaf) (va n : Nat) (sp : Spot) : State × List Byte :=
  let s := s.touchOnce p l false va n
  if sp.block.isSome then
    let home := (s.readBlock p sp.key l ((va - l.start) / 2048)).getD []
    let r := s.missRead core { sp with at_ := 0 } 2048 home home
    (r.1.noteBlock sp r.2, (r.2.drop sp.at_).take n)
  else s.missRead core sp n (s.hbmRead sp.key sp.at_ n) (s.hbmRead sp.key sp.unit 128)
/-- What a plain load of a thread on a core reads of a page: the copy that the core keeps, or what a miss gives; of a packed page, the whole
block, once for an instruction (R231, R262, R267). -/
def State.coreRead (s : State) (p core : Nat) (l : Leaf) (va n : Nat) : State × List Byte :=
  match s.spot p l va n false with
  | none => ((s.touchOnce p l false va n).raiseClock core s.clockMax, (s.pageRead p l va n).getD [])
  | some sp =>
    let cut (bs : List Byte) : List Byte := (bs.drop (sp.at_ - sp.unit)).take n
    match s.blockSeen sp, s.copyFor core sp with
    | some bs, _ => (s, cut bs)
    | none, some c =>
      if Config.keepsCopy s.fresh then (((s.hitEnters c sp n).noteBlock sp c.data).nextFresh, cut c.data) else s.nextFresh.coreMiss p core l va n sp
    | none, none => s.coreMiss p core l va n sp
/-- A core thread's store to bytes of a page comes after the writes already made there, whether they have entered the order or not (R259), and is
made at its home (R262). -/
def State.storeOver (s : State) (p core : Nat) (l : Leaf) (va : Nat) (bs : List Byte) : State :=
  match s.spot p l va bs.length true with
  | none => s
  | some sp =>
    let s := s.storeTime core sp
    if s.late.isEmpty then s
    else
      let stored (w : LateWrite) : LateWrite :=
        { w with old := w.old.zipIdx.map fun q => if sp.at_ ≤ w.start + q.2 then nth q.1 bs (w.start + q.2 - sp.at_) else q.1 }
      { s with late := s.late.filterMap fun w =>
          if !w.meets sp.block sp.at_ bs.length then some w else if w.key ≠ sp.key then none else some (stored w) }
/-- An atomic step at a page (R244, R248, R262, R266): made at home, where the L2 serves it once, after the writes that reach its bytes have entered
the single order; or a request of the host's. -/
def State.enterAt (s : State) (p core : Nat) (l : Leaf) (va n : Nat) (op : HostOp) : State :=
  match s.spot p l va n true, s.hostAt l va with
  | some sp, _ => (s.touchOnce p l true va n).enterThese (entering (fun _ w => w.meets sp.block sp.at_ n) 0 s.late)
  | none, some a => (s.request (p + 1) a n op).raiseClock core s.clockMax
  | none, none => s.raiseClock core s.clockMax
/-- A CAS that writes nothing is still made as a store is, at its write time (R262). -/
def State.stepTime (s : State) (p core : Nat) (l : Leaf) (va n : Nat) : State :=
  match s.spot p l va n true with | some sp => s.storeTime core sp | none => s

/-! ## The scratchpad -/

/-- Whether bytes of a scratchpad have failing check bits (R341, R342). -/
def State.scratchBad (s : State) (f m off n : Nat) : Bool :=
  !s.bad.isEmpty && s.bad.any fun b =>
    match b with
    | .scratch f' m' w => f' == f && m' == m && decide (off < 8 * w + 8) && decide (8 * w < off + n)
    | _ => false
/-- Writes bytes of a scratchpad. A write of a whole code word of 64 data bits repairs it (R341, R342). -/
def State.scratchPut (s : State) (f m off : Nat) (bs : List Byte) : State :=
  let s := if s.bad.isEmpty then s else { s with bad := s.bad.filter fun b =>
    match b with
    | .scratch f' m' w => !(f' == f && m' == m && decide (off ≤ 8 * w) && decide (8 * w + 8 ≤ off + bs.length))
    | _ => true }
  s.modWg f m fun wg => { wg with scratch := cellsWrite wg.scratch off bs }

/-! ## A core thread's access -/

/-- Where an access goes: a scratchpad, or a page of the global space. -/
inductive Place where
  | scratch (m off : Nat)
  | page (l : Leaf)
  deriving DecidableEq, Repr

/-- What the checks of an access give: its place and whether a stamp mismatch was masked, a trap, a translation
fault, uncorrectable data, or a peer's refusal (R380). -/
inductive Access where
  | ok (at_ : Place) (masked : Bool)
  | trap (cause : Nat)
  | absent
  | uncorr
  | refusedByPeer
  deriving DecidableEq, Repr

/-- Whether a byte lies in a row of a region of a target, 0 this device's virtual space, 1 the host's memory; for a write, a region of mode W or
RW (R188, R205). -/
def Region.covers (r : Region) (target : Nat) (wr : Bool) (a : Nat) : Bool :=
  let base := r.base + r.offset
  let off := a - base
  (if r.kind = 1 then target == 0 else r.kind == 2 && r.target == target) && (!wr || r.mode != 1) && decide (base ≤ a) &&
    (if r.rows ≤ 1 then decide (off < r.rowbytes)
     else decide (off / r.pitch < r.rows) && decide (off % r.pitch < r.rowbytes))

/-- The host address of a byte, if its page maps the host's memory. -/
def State.hostOf (s : State) (p va : Nat) : Option Nat := match s.lookup p va with | .leaf l => s.hostAt l va | _ => none
/-- Whether a task's regions admit an access at global addresses, byte by byte: a region in the host's memory by the host address (R205, log 89). -/
def State.inRegions (s : State) (p seq va n : Nat) (wr : Bool) : Bool :=
  match (s.part p).window.find? fun t => t.seq == seq with
  | none => true
  | some t => (List.range n).all fun k => t.regions.any fun r =>
      match r with
      | some r => r.covers 0 wr (va + k) || (match s.hostOf p (va + k) with | some a => r.covers 1 wr a | none => false)
      | none => false

/-- Whether the granule of a scratchpad byte is full. -/
def State.granuleFull (s : State) (f m off : Nat) : Bool :=
  match s.wg? f m with | some wg => wg.granules.getLsbD (off / 16) | none => false
/-- The checks of an access of n bytes by a thread of workgroup (f, m), in the order of R33: ALIGN, QUALBAD, PROTFAULT,
STAMPMIX (R28, R207, R208, R221, R235, R241, R242), and REGIONVIOL in debug mode (R205). A load that waits for its granule consumes no data yet
(R239, R342). -/
def State.checkAccess (s : State) (f m : Nat) (stampEn : Bool) (va : DWord) (n qual : Nat) (perm : Perm) : Access :=
  match s.flock? f with
  | none => .trap causeProtfault
  | some fl =>
    let a := va.toNat
    let wr := perm == .write || perm == .atomic
    let inWindow (member off : Nat) : Access :=
      match fl.wgs[member]? with
      | none => .trap causeProtfault
      | some wg =>
        if wg.ended || decide (fl.launch.scratch < off + n) then .trap causeProtfault
        else if perm ≠ .write && !((qual == 1 || qual == 2) && !s.granuleFull f member off) && s.scratchBad f member off n then .uncorr
        else .ok (.scratch member off) false
    if a % n ≠ 0 then .trap causeAlign
    else if 0x00FE000000000000 ≤ a && a < 0x00FF000000000000 then inWindow m (a - 0x00FE000000000000)
    else if 0x00FD000000000000 ≤ a && a < 0x00FE000000000000 then
      inWindow ((a - 0x00FD000000000000) / 2 ^ 19) ((a - 0x00FD000000000000) % 2 ^ 19)
    else if qual ≠ 0 then .trap causeQualbad
    else if 0x00FD000000000000 ≤ a then .trap causeProtfault
    else match s.translateOnce fl.p a perm with
      | .absent => .absent
      | .refused => .trap causeProtfault
      | .uncorr => .uncorr
      | .leaf l =>
        let chainless := l.packed && ((s.pageRead fl.p l a n).isNone ||
          (wr && ((s.keyOf fl.p l.key).bind fun k => s.ownChain fl.p k l ((a - l.start) / 2048)).isNone))
        if l.packed && wr && !l.mut_ then .trap causeProtfault
        else if chainless then .trap causeProtfault
        else
          let mismatch := l.stamp ≠ 0 && l.stamp ≠ fl.launch.contract
          if mismatch && stampEn then .trap causeStampmix
          else if fl.launch.debug && !s.inRegions fl.p fl.seq a n wr then .trap causeRegionviol
          else if (perm ≠ .write || l.packed) && s.pageBad fl.p l a n then .uncorr
          else if (s.peerAt l a).any fun x => !s.peerAccepts fl.p x n wr then .refusedByPeer
          else .ok (.page l) mismatch

/-- A thread of flock f looks up the page of a global address (R223). -/
def State.lookAt (s : State) (f : Nat) (va : DWord) : State :=
  match s.flock? f with
  | some fl =>
    if 0x00FD000000000000 ≤ va.toNat then s
    else
      let s := s.look fl.p va.toNat
      match s.lookedUp va.toNat with
      | some l => if (s.peerAt l va.toNat).any fun a => a / 2 ^ 39 == s.device.rank then s.cacheExports fl.p else s
      | none => s
  | none => s
/-- The partition of a flock, and the core of a workgroup. -/
def State.ownerOf (s : State) (f : Nat) : Nat := match s.flock? f with | some fl => fl.p | none => 0
def State.coreOf (s : State) (f m : Nat) : Nat := match s.wg? f m with | some wg => wg.core | none => 0
/-- What a plain load of a thread of workgroup (f, m) reads of a page, and the state after it (R262, R267). -/
def State.viewAt (s : State) (f m : Nat) (l : Leaf) (va : DWord) (n : Nat) : State × List Byte :=
  match s.flock? f with
  | some fl => s.coreRead fl.p (s.coreOf f m) l va.toNat n
  | none => (s, [])

/-- Reads the bytes of a checked access as they stand at home or in the bank. -/
def State.readAt (s : State) (f : Nat) (at_ : Place) (va : DWord) (n : Nat) : List Byte :=
  match s.flock? f, at_ with
  | some fl, .scratch m off => (match fl.wgs[m]? with | some wg => cellsRead wg.scratch off n | none => [])
  | some fl, .page l => (s.pageRead fl.p l va.toNat n).getD []
  | none, _ => []

/-- Writes the bytes of an atomic step's result (R244): enterAt has served the access. -/
def State.writeStep (s : State) (f m : Nat) (at_ : Place) (va : DWord) (bs : List Byte) : State :=
  match s.flock? f, at_ with
  | some _, .scratch tm off => s.scratchPut f tm off bs
  | some fl, .page l => ((s.pageWrite fl.p l va.toNat bs).map fun t => t.storeOver fl.p (s.coreOf f m) l va.toNat bs).getD s
  | none, _ => s
/-- Writes the bytes of a checked access of a thread of workgroup (f, m); to memory that this device does not hold, the core's clock follows the
furthest one (log 90). -/
def State.writeAt (s : State) (f m : Nat) (at_ : Place) (va : DWord) (bs : List Byte) : State :=
  match s.flock? f, at_ with
  | some _, .scratch tm off => s.scratchPut f tm off bs
  | some fl, .page l =>
    let core := s.coreOf f m
    let s := s.touchOnce fl.p l true va.toNat bs.length
    let s := if (s.spot fl.p l va.toNat bs.length true).isSome then s else s.raiseClock core s.clockMax
    ((s.pageWrite fl.p l va.toNat bs).map fun t => t.storeOver fl.p core l va.toNat bs).getD s
  | none, _ => s
/-- An access of a workgroup to the window of a member on another core: both cores' clocks follow the later one, so that the order of the
banks and the order of the lines agree (R259, R262, log 90). -/
def State.meetClocks (s : State) (f m : Nat) : Place → State
  | .scratch tm _ =>
    let a := s.coreOf f m
    let b := s.coreOf f tm
    if a = b then s else (s.raiseClock a (s.clock b)).raiseClock b (s.clock a)
  | .page _ => s

/-- The clocks of a flock's cores follow the furthest of them: what was performed before a phase completed is seen after it (R174, log 90). -/
def State.meetFlock (s : State) (fl : Flock) : State :=
  let top := fl.wgs.foldl (fun a wg => max a (s.clock wg.core)) 0
  fl.wgs.foldl (fun s wg => s.raiseClock wg.core top) s
/-- The clocks of a new flock's cores follow the furthest clock of the device: what ordered its placement is seen by it (R200, R264, log 90). -/
def State.startFlock (s : State) (fl : Flock) : State := fl.wgs.foldl (fun s wg => s.raiseClock wg.core s.clockMax) s

/-! ## An engine's access: many bytes, page by page -/

/-- What an engine's access gives (R299): done, a translation fault at an address, or an error code. -/
inductive EngineRes (α : Type) where
  | ok (x : α)
  | absent (va : Nat)
  | err (code : Nat)
  deriving Repr

/-- The stamp check of an engine's access (R299): the contract and mask, if the operation carries one. -/
structure Stamped where
  contract : Nat
  mask : Bool
  deriving DecidableEq, Repr

def stampMismatch (st : Option Stamped) (l : Leaf) : Bool :=
  match st with
  | some q => l.stamp ≠ 0 && l.stamp ≠ q.contract
  | none => false
def stampStops (st : Option Stamped) (l : Leaf) : Bool :=
  match st with
  | some q => stampMismatch st l && q.mask
  | none => false

/-- Bytes from va up to the next multiple of 2 KiB, so that they lie in one page and one block. -/
def spanHere (va n : Nat) : Nat := min n (2048 - va % 2048)

/-- Reads n bytes through the partition's page table. The flag says that a mismatch was masked. -/
def State.engineRead (s : State) (p : Nat) (st : Option Stamped) : Nat → Nat → Nat → EngineRes (List Byte × Bool)
  | 0, _, _ => .ok ([], false)
  | fuel + 1, va, n =>
    if n = 0 then .ok ([], false)
    else match s.translate p va .read with
      | .absent => .absent va
      | .refused => .err 0x03
      | .uncorr => .err 0x07
      | .leaf l =>
        let k := spanHere va n
        if stampStops st l then .err 0x05
        else if s.pageBad p l va k then .err 0x07
        else match s.pageRead p l va k with
          | none => .err 0x03
          | some bs =>
            match s.engineRead p st fuel (va + k) (n - k) with
            | .ok (rest, x) => .ok (bs ++ rest, x || stampMismatch st l)
            | .absent a => .absent a
            | .err c => .err c

/-- Writes bytes through the partition's page table, in ascending order; the writes before a fault stand. An immutable
packed page is refused with PACKED; a transform writes it by its own rule. Core threads see the writes of the class by R267. -/
def State.engineWrite (s : State) (by_ : Writer) (p : Nat) (st : Option Stamped) : Nat → Nat → List Byte → State × EngineRes Bool
  | 0, _, _ => (s, .ok false)
  | fuel + 1, va, bs =>
    if bs.isEmpty then (s, .ok false)
    else
      let s := s.noteWalk p va
      match s.translate p va .write with
      | .absent => (s, .absent va)
      | .refused => (s, .err 0x03)
      | .uncorr => (s.countFoundAt 4 p va bs.length, .err 0x07)
      | .leaf l =>
        let k := spanHere va bs.length
        if stampStops st l then (s, .err 0x05)
        else if l.packed && !l.mut_ then (s, .err 0x08)
        else if l.packed && s.pageBad p l va k then (s.countFoundAt 4 p va k, .err 0x07)
        else match ((s.touchPage p l true va k).noteLate by_ p l va k).pageWrite p l va (bs.take k) with
          | none => (s, .err 0x03)
          | some s' =>
            match s'.engineWrite by_ p st fuel (va + k) (bs.drop k) with
            | (t, .ok x) => (t, .ok (x || stampMismatch st l))
            | r => r

/-- What an engine's read leaves: the walks for its pages, and the lines that the L2 has served, up to where it stops (R221, R225). -/
def State.serve (s : State) (p : Nat) : Nat → Nat → Nat → State
  | 0, _, _ => s
  | fuel + 1, va, n =>
    if n = 0 then s
    else
      let s := s.noteWalk p va
      match s.translate p va .read with
      | .leaf l =>
        let k := spanHere va n
        if s.pageBad p l va k then s.countFoundAt 4 p va k else (s.touchPage p l false va k).serve p fuel (va + k) (n - k)
      | .uncorr => s.countFoundAt 4 p va n
      | _ => s
/-- Enough fuel for n bytes. -/
def spanFuel (n : Nat) : Nat := n / 2048 + 2
def State.served (s : State) (p va n : Nat) : State := s.serve p (spanFuel n) va n
def State.readVa (s : State) (p : Nat) (st : Option Stamped) (va n : Nat) : EngineRes (List Byte × Bool) :=
  s.engineRead p st (spanFuel n) va n
def State.writeVa (s : State) (p : Nat) (st : Option Stamped) (va : Nat) (bs : List Byte) (by_ : Writer := { Writer.engine with p := p }) : State × EngineRes Bool :=
  s.engineWrite by_ p st (spanFuel bs.length) va bs
/-- A write of the host (R377). -/
def State.hostWriteVa (s : State) (p va : Nat) (bs : List Byte) : State × EngineRes Bool :=
  s.engineWrite .host p none (spanFuel bs.length) va bs

/-! ## The sheepdog log (R343, R360) -/

/-- Appends a record: kind, task SEQ, WGID, PC, warp byte, lane, address. A full log drops it and counts it. The log lies
at virtual addresses, and a record that no page takes is lost (log 20). -/
def State.sheepdog (s : State) (p kind seq wgid pc warp lane : Nat) (va : DWord) : State :=
  let q := (s.part p).sched
  let base := q.sdbase.toNat
  let read := match s.readVa p none (base - 8) 4 with | .ok (bs, _) => ofBytes bs | _ => 0
  let s := s.served p (base - 8) 4
  if (q.sdwrite.toNat + 2 ^ 32 - read) % 2 ^ 32 = 2 ^ q.sdlog2 then
    s.modPart p fun t => { t with sched := { t.sched with sdovf := t.sched.sdovf + 1 } }
  else
    let bytes := leBytes 8 va.toNat ++ leBytes 4 0 ++ leBytes 1 0 ++ leBytes 1 lane ++ leBytes 1 warp ++ leBytes 1 kind ++
      leBytes 4 pc ++ leBytes 4 (wgid % 2 ^ 23) ++ leBytes 8 seq
    let s := (s.writeVa p none (base + 32 * (q.sdwrite.toNat % 2 ^ q.sdlog2)) bytes).1
    s.modPart p fun t => { t with sched := { t.sched with sdwrite := t.sched.sdwrite + 1 } }

end Sys2Proof.Machine
end

