-- ==== Sys2Proof/Machine/Operands.lean ====
section
/-! DEFINITION. How a word of a chain meets its threads and operands: guards and executing threads (01 R23, 06 R160),
blocking and EMPTYREAD (R25-R27), uniform words (05 R146), results in pipe A and long-latency results (R24, R102), and
the traps and translation faults a word raises (R21, R33). A word's meaning runs on State.issue. -/
namespace Sys2Proof.Machine
open Sys2Proof

/-- The result of a meaning. -/
abbrev Outcome := Host.Outcome State Fault Refusal

/-- A meaning of a thread word: what it does to the state and the chain being issued. -/
def onIssue (s : State) (k : Issue → State → State) : Outcome :=
  match s.issue with
  | some c => .next (k c s)
  | none => .fault .noIssuer

/-- A source of a word: the register, how many registers it spans, whether an empty one traps (R25). -/
structure Use where
  reg : Reg
  n : Nat := 1
  trap : Bool := false
  deriving DecidableEq, Repr

def one (a : Src) : Use := ⟨a.reg, 1, a.trap⟩
def pair (a : Src) : Use := ⟨a.reg, 2, a.trap⟩
/-- A source without a trap-if-empty bit. -/
def plain (r : Reg) (n : Nat := 1) : Use := ⟨r, n, false⟩

/-- Whether a thread passes a guard (R23, R37). -/
def Thread.passes (t : Thread) : Option Guard → Bool
  | none => true
  | some g => t.g.getLsbD g.index.val != g.sense

/-- The threads of a group that pass a word's guard and in which it takes effect, ascending. -/
def Issue.exec (c : Issue) (h : Head) : List Nat := c.lanes.filter fun k => (c.snap.thread k).passes h.guard
/-- A lane put into a rising list of lanes. -/
def addLane (k : Nat) : List Nat → List Nat
  | [] => [k]
  | x :: xs => if k < x then k :: x :: xs else if k = x then x :: xs else x :: addLane k xs
/-- The threads of the issuing group, with those among them in which the chain takes no effect (R21, log 94), ascending. -/
def Issue.group (c : Issue) : List Nat := c.gone.foldl (fun lanes k => addLane k lanes) c.lanes
/-- The executing threads of a word: those of the group that pass its guard (R160), ascending. A word reads its sources before any thread of the
group is known to trap (R21), so that what it reads once it reads of these (log 94). -/
def Issue.readers (c : Issue) (h : Head) : List Nat := c.group.filter fun k => (c.snap.thread k).passes h.guard

def State.modIssue (s : State) (g : Issue → Issue) : State := { s with issue := s.issue.map g }
/-- The chain cannot issue yet. -/
def State.block (s : State) : State := s.modIssue fun c => { c with blocked := true }
/-- The group is held before issue. -/
def State.holdGroup (s : State) (h : Hold) : State := s.modIssue fun c => { c with held := some h }
/-- A thread of the group raises a trap. -/
def State.trapLane (s : State) (lane cause : Nat) (addr : DWord) : State :=
  s.modIssue fun c => { c with traps := c.traps ++ [(lane, cause, addr)] }
def State.trapLanes (s : State) (lanes : List Nat) (cause : Nat) (addr : DWord) : State :=
  lanes.foldl (fun s k => s.trapLane k cause addr) s
/-- An effect that comes after the other words' (R129, R329). -/
def State.defer (s : State) (d : Deferred) : State := s.modIssue fun c => { c with deferred := c.deferred ++ [d] }
/-- A thread's access found no translation (R336): address, and DETAIL's bits. -/
def State.strayLane (s : State) (lane : Nat) (addr : DWord) (detail : Nat) : State :=
  s.modIssue fun c => { c with strays := c.strays ++ [(lane, addr, detail)] }
def State.strayLanes (s : State) (lanes : List Nat) (addr : DWord) (detail : Nat) : State :=
  lanes.foldl (fun s k => s.strayLane k addr detail) s

/-- The launch that the issuing unit belongs to. -/
def State.launchOf (s : State) (f : Nat) : Option Launch := (s.flock? f).map Flock.launch
/-- Contract() of R35. -/
def State.contractNo (s : State) (f : Nat) : Nat := match s.launchOf f with | some l => l.contract | none => 0

/-- The values of a word's sources for a lane, register by register (R21: as before the chain). -/
def Issue.values (c : Issue) (lane : Nat) (uses : List Use) : List Word :=
  uses.flatMap fun u => c.snap.gets lane u.reg u.n
/-- Whether a source has an empty register (R15, R25). -/
def Issue.emptyUse (c : Issue) (lane : Nat) (u : Use) : Bool := (regSpan u.reg u.n).any fun r => !c.snap.isFull lane r

/-- Whether an uncorrectable error stands in a register that a thread reads (R342). -/
def State.badReg (s : State) (c : Issue) (lane : Nat) (uses : List Use) : Bool :=
  !s.bad.isEmpty && uses.any fun u => (regSpan u.reg u.n).any fun r =>
    s.bad.contains (.reg c.f c.m c.u (if r.isW then 0 else lane) r)

/-- What every word does first: no executing thread, no effect; a blocking source or an empty destination blocks the
chain (R25, R26); an empty source with its trap bit raises EMPTYREAD, and one whose check bits fail UNCORR, in every executing thread if the word
is uniform (R146, R342). The rest is done for the threads that remain: those that the word reads, and those of them in which it takes effect. -/
def beginAll (s : State) (c : Issue) (h : Head) (uses : List Use) (dests : List Reg) (k : List Nat → List Nat → State → State) : State :=
  let all := c.readers h
  if (c.exec h).isEmpty then s
  else if all.any fun l => (uses.any fun u => !u.trap && c.emptyUse l u) || (dests.any fun r => !c.snap.isFull l r) then s.block
  else
    let bad := all.filter fun l => uses.any fun u => u.trap && c.emptyUse l u
    let bad := if !bad.isEmpty && dests.any Reg.isW then all else bad
    let s := s.trapLanes bad causeEmptyread 0
    let lost := all.filter fun l => s.badReg c l uses
    let lost := if !lost.isEmpty && dests.any Reg.isW then all else lost
    let s := s.trapLanes lost causeUncorr 0
    let fit (l : Nat) : Bool := !bad.contains l && !lost.contains l
    let good := (c.exec h).filter fit
    if good.isEmpty then s else k (all.filter fit) good s
/-- As beginAll, for a word that reads each thread's sources for that thread alone. -/
def begin (s : State) (c : Issue) (h : Head) (uses : List Use) (dests : List Reg) (k : List Nat → State → State) : State :=
  beginAll s c h uses dests fun _ lanes => k lanes

/-- The lowest-TID thread of a list, and the highest. -/
def lowest (lanes : List Nat) : Nat := lanes.headD 0
def highest (lanes : List Nat) : Nat := lanes.getLastD 0

/-- As begin, for a word that reads its v sources from one of its executing threads only (R50, R178, R305); an empty
source with its trap bit raises EMPTYREAD in every executing thread (R146). -/
def beginAt (s : State) (c : Issue) (h : Head) (uses : List Use) (reader : List Nat → Nat) (dests : List Reg)
    (k : List Nat → State → State) : State :=
  let lanes := c.exec h
  let r := reader (c.readers h)
  if lanes.isEmpty then s
  else if (uses.any fun u => !u.trap && c.emptyUse r u) || (c.readers h).any fun l => dests.any fun d => !c.snap.isFull l d then s.block
  else if uses.any fun u => u.trap && c.emptyUse r u then s.trapLanes lanes causeEmptyread 0
  else if s.badReg c r uses then s.trapLanes lanes causeUncorr 0
  else k lanes s

/-- Writes registers of a lane full. -/
def State.give (s : State) (c : Issue) (lane : Nat) (d : Reg) (n : Nat) (vals : List Word) : State :=
  s.putRegs c.f c.m c.u lane (regSpan d n) vals
/-- A long-latency result: the destination becomes empty, and a landing is in flight (R24). -/
def State.launchResult (s : State) (c : Issue) (lanes : List Nat) (d : Reg) (n : Nat) (vals : List Word) (pipeF inv ovf : Bool) : State :=
  let s := s.emptyRegs c.f c.m c.u (lowest lanes) (regSpan d n)
  { s with landings := s.landings ++
      [{ f := c.f, m := c.m, u := c.u, lanes := lanes, dests := regSpan d n, vals := vals, pipeF := pipeF, inv := inv, ovf := ovf, host := false, peer := none
         pc := c.pc }] }
/-- Sticky bits of masked causes in some threads. -/
def State.stick (s : State) (c : Issue) (lanes : List Nat) (inv ovf stamp : Bool) : State :=
  if inv || ovf || stamp then lanes.foldl (fun s k => s.modThread c.f c.m c.u k fun t => t.stick inv ovf stamp) s else s

/-- What a word computes: the words of its destination and the causes it raises. -/
structure Out where
  vals : List Word
  inv : Bool := false
  ovf : Bool := false
  fmtbad : Bool := false
  deriving DecidableEq, Repr

/-- How a result comes to its register: from pipe A at once, or from pipe F, whose word can raise FPINV or FPOVF or neither
(R102). -/
inductive Route where
  | a
  | f (inv ovf : Bool)
  deriving DecidableEq, Repr
/-- Whether a word runs on after its chain has taken effect: it is of pipe F and can raise no cause that is enabled. -/
def Route.runsOn : Route → Bool → Bool → Bool
  | .a, _, _ => false
  | .f i o, invEn, ovfEn => !(i && invEn) && !(o && ovfEn)

/-- Delivers a result to the threads it belongs to: one lane, or every executing thread of a uniform word (R146). A
pipe-F word that can raise no enabled cause of theirs runs on and lands later; else its result is known at once (R102). -/
def State.deliver (s : State) (c : Issue) (lanes : List Nat) (d : Reg) (n : Nat) (r : Route) (o : Out) : State :=
  match floatCause (lanes.map c.snap.thread) o.fmtbad o.inv o.ovf with
  | some cause => s.trapLanes lanes cause 0
  | none =>
    if r.runsOn (lanes.any fun l => (c.snap.thread l).invEn) (lanes.any fun l => (c.snap.thread l).ovfEn) then
      s.launchResult c lanes d n o.vals true o.inv o.ovf
    else (s.give c (lowest lanes) d n o.vals).stick c lanes o.inv o.ovf false

/-- A word that computes its destination from its sources, thread by thread, or once if it is uniform (R100, R146). -/
def compute (s : State) (h : Head) (uses : List Use) (d : Reg) (n : Nat) (r : Route) (f : Nat → List Word → Out) : Outcome :=
  onIssue s fun c s =>
    let cn := s.contractNo c.f
    begin s c h uses (regSpan d n) fun lanes s =>
      if d.isW then s.deliver c lanes d n r (f cn (c.values (lowest lanes) uses))
      else lanes.foldl (fun s l => s.deliver c [l] d n r (f cn (c.values l uses))) s

/-- A pipe-A word whose result is one register (R103). -/
def computeWord (s : State) (h : Head) (uses : List Use) (d : Reg) (f : List Word → Word) : Outcome :=
  compute s h uses d 1 .a fun _ xs => ⟨[f xs], false, false, false⟩

/-- The source values by position. -/
def x0 (xs : List Word) : Word := nth 0 xs 0
def x1 (xs : List Word) : Word := nth 0 xs 1
def x2 (xs : List Word) : Word := nth 0 xs 2
def x3 (xs : List Word) : Word := nth 0 xs 3
/-- The 64-bit value of two source registers (R4). -/
def dword (lo hi : Word) : DWord := hi ++ lo
/-- The two words of a 64-bit value. -/
def dwords (x : DWord) : List Word := [x.setWidth 32, (x >>> 32).setWidth 32]

/-- The head of a word that has no guard field in use. -/
def bareHead (chain : Bool) : Head := ⟨chain, none⟩

/-- Whether a unit is a herder. -/
def Issue.isHerder (c : Issue) : Bool := c.u == herderUnit

end Sys2Proof.Machine
end

