-- ==== Sys2Proof/Machine/Control.lean ====
section
/-! DEFINITION. Control transfer, reconvergence, traps by instruction (04 R126-R130; 05 R144; 06 R163-R165, R167;
15 R329-R331). -/
namespace Sys2Proof.Machine
open Sys2Proof

/-- A taken branch (R22): to the target in each thread, or PROTFAULT with (base + 4 × target)[63:0]. -/
def State.branch (s : State) (c : Issue) (lane : Nat) (target : Int) : State :=
  if 0 ≤ target && target < 2 ^ 24 then s.modThread c.f c.m c.u lane fun t => { t with pc := BitVec.ofInt 24 target }
  else
    let base : Int := match s.launchOf c.f with | some l => l.code | none => 0
    s.trapLane lane causeProtfault (BitVec.ofInt 64 (base + 4 * target))

/-- The live threads that JOIN and WSYNC await: in trap mode, those in trap mode only (R144, R167, R332). -/
def Issue.awaited (c : Issue) : List Nat :=
  let mode := (c.snap.thread (lowest c.lanes)).trapMode
  c.snap.lanesWith fun t => t.live && (!mode || t.trapMode)

/-- Whether a JOIN lets its group pass (R144): every awaited thread is here, or the oldest has waited JOINLIM. -/
def Issue.joinPasses (c : Issue) (cycle : Nat) : Bool :=
  let ages := c.lanes.filterMap fun l => match (c.snap.thread l).hold with | .join t => some (cycle - t) | _ => none
  c.awaited.all c.lanes.contains || c.snap.joinlim == 0 ||
    (c.lanes.any fun l => (c.snap.thread l).hold == .joinPast) || ages.any fun a => decide (c.snap.joinlim.toNat ≤ a)

/-- Whether every thread that WSYNC awaits is at a WSYNC (R167). -/
def Issue.wsyncPasses (c : Issue) : Bool :=
  c.awaited.all fun l => c.lanes.contains l || (c.snap.thread l).hold == .wsync

/-- BRA (R126). -/
def execBra (h : Head) (off : Int) (s : State) : Outcome :=
  onIssue s fun c s => begin s c h [] [] fun lanes s => lanes.foldl (fun s l => s.branch c l (c.here + off)) s

/-- BRX (R127). -/
def execBrx (h : Head) (a : Src) (s : State) : Outcome :=
  onIssue s fun c s => begin s c h [one a] [] fun lanes s => lanes.foldl (fun s l => s.branch c l (c.snap.get l a.reg).toNat) s

/-- CALL (R128): the link goes to v23. -/
def execCall (h : Head) (off : Int) (s : State) : Outcome :=
  onIssue s fun c s => begin s c h [] [.v 23] fun lanes s =>
    lanes.foldl (fun s l => (s.give c l (.v 23) 1 [BitVec.ofNat 32 c.next]).branch c l (c.here + off)) s

/-- RET (R128): v23 always blocks. -/
def execRet (h : Head) (s : State) : Outcome :=
  onIssue s fun c s => begin s c h [plain (.v 23)] [] fun lanes s =>
    lanes.foldl (fun s l => s.branch c l (c.snap.get l (.v 23)).toNat) s

/-- JOIN (R144, R163): held before issue; no effect in a herder. -/
def execJoin (h : Head) (s : State) : Outcome :=
  onIssue s fun c s => begin s c h [] [] fun _ s =>
    if c.going || c.isHerder || c.joinPasses s.cycle then s else s.holdGroup (.join s.cycle)

/-- YIELD (R164): marks the group after its chain has issued. -/
def execYield (h : Head) (s : State) : Outcome :=
  onIssue s fun c s => begin s c h [] [] fun _ s => if c.isHerder || !c.snap.progress then s else s.defer .yield

/-- EXIT (R129): after the other words of its chain. -/
def execExit (h : Head) (s : State) : Outcome :=
  onIssue s fun c s => begin s c h [] [] fun lanes s => lanes.foldl (fun s l => s.defer (.exit l)) s

/-- TRAP (R329): after the other words of its chain; TRAPPC is the index after the chain. -/
def execTrap (h : Head) (code : Fin 32) (s : State) : Outcome :=
  onIssue s fun c s => begin s c h [] [] fun lanes s => lanes.foldl (fun s l => s.defer (.trap l (0x20 + code.val))) s

/-- TRET (R330): ILLEGAL outside trap mode; otherwise after the other words of its chain. -/
def execTret (h : Head) (s : State) : Outcome :=
  onIssue s fun c s => begin s c h [] [] fun lanes s =>
    lanes.foldl (fun s l => if (c.snap.thread l).trapMode then s.defer (.tret l) else s.trapLane l causeIllegal 0) s

/-- BKPT (R331): no effect unless debug mode is on, when the flock halts after the chain. -/
def execBkpt (h : Head) (code : Fin 256) (s : State) : Outcome :=
  onIssue s fun c s => begin s c h [] [] fun lanes s =>
    match s.launchOf c.f with
    | some l => if l.debug then s.defer (.bkpt code.val (lowest lanes)) else s
    | none => s

/-- NOP (R130). -/
def execNop (h : Head) (s : State) : Outcome :=
  onIssue s fun c s => begin s c h [] [] fun _ s => s

/-- Every thread that WSYNC awaits is released, if it waits at one (R167). -/
def State.releaseWsync (s : State) (c : Issue) : State :=
  c.awaited.foldl (fun s l => s.modThread c.f c.m c.u l fun t => if t.hold == .wsync then { t with hold := .wsyncPast } else t) s
/-- Whether a group has been released from a WSYNC already: it passes. -/
def Issue.wsyncPast (c : Issue) : Bool := c.group.any fun l => (c.snap.thread l).hold == .wsyncPast
/-- WSYNC (R167): releases every held group in the same cycle, this one among them; no effect in a herder. A group that has been released
passes. -/
def execWsync (h : Head) (s : State) : Outcome :=
  onIssue s fun c s => begin s c h [] [] fun _ s =>
    if c.isHerder || c.wsyncPast then s
    else if c.going || c.wsyncPasses then s.releaseWsync c
    else s.holdGroup .wsync

/-- PROG (R165): the value of the highest-TID executing thread; changes nothing in a herder. -/
def execProg (h : Head) (a : Src) (s : State) : Outcome :=
  onIssue s fun c s => beginAll s c h [one a] [] fun all _ s =>
    if c.isHerder then s
    else s.modUnit c.f c.m c.u fun w => { w with progress := (c.snap.get (highest all) a.reg).getLsbD 0 }

end Sys2Proof.Machine
end

