-- ==== Sys2Proof/Machine/Integer.lean ====
section
/-! DEFINITION. Integer, bit-field and address arithmetic and moves (04_thread_instructions.md R103-R110). -/
namespace Sys2Proof.Machine
open Sys2Proof

/-- The low 32 bits of an integer. -/
def wordOfInt (x : Int) : Word := BitVec.ofInt 32 x
/-- A register read as signed. -/
def signed (x : Word) : Int := x.toInt
/-- Bits [63:32] of an integer. -/
def highWord (x : Int) : Word := BitVec.ofInt 32 (x / 2 ^ 32)
/-- The smaller and the larger of two registers, signed or unsigned. -/
def minWord (u : Bool) (a b : Word) : Word := if (if u then a.ule b else a.sle b) then a else b
def maxWord (u : Bool) (a b : Word) : Word := if (if u then a.ule b else a.sle b) then b else a
/-- Shifts with the whole 32-bit count (R104). -/
def shlWord (a b : Word) : Word := if b.toNat < 32 then a <<< b.toNat else 0
def shrWord (a b : Word) : Word := if b.toNat < 32 then a >>> b.toNat else 0
def sarWord (a b : Word) : Word := a.sshiftRight (min b.toNat 31)
/-- BFE and BFE.S (R105); b gives pos in bits 7:0 and len in bits 15:8. -/
def bitField (sgn : Bool) (x b : Word) : Word :=
  let pos := bitsOf b.toNat 7 0
  let len := bitsOf b.toNat 15 8
  if len = 0 then 0
  else
    let n := min len 32
    let xe : Int := if sgn then signed x else x.toNat
    let f := (xe / 2 ^ pos) % 2 ^ n
    wordOfInt (if sgn then signExtend f.toNat n else f)
/-- BFI (R105). -/
def bitInsert (a b c : Word) : Word :=
  let pos := bitsOf b.toNat 7 0
  let len := bitsOf b.toNat 15 8
  let mask := BitVec.ofNat 32 ((2 ^ min len 32 - 1) * 2 ^ pos)
  (c &&& ~~~mask) ||| (BitVec.ofNat 32 (a.toNat * 2 ^ pos) &&& mask)
/-- BSHUF (R105). -/
def byteShuffle (a b c : Word) : Word :=
  let y := (dword a b).toNat
  BitVec.ofNat 32 (ofBytes ((List.range 4).map fun i =>
    if c.getLsbD (12 + i) then 0 else BitVec.ofNat 8 (y / 256 ^ bitsOf c.toNat (3 * i + 2) (3 * i))))
/-- The number of 1 bits, of leading and of trailing 0 bits, and the reversal (R108). -/
def popCount (a : Word) : Nat := ((List.range 32).filter a.getLsbD).length
def leadingZeros (a : Word) : Nat := if a = 0 then 32 else 31 - Nat.log2 a.toNat
def trailingZeros (a : Word) : Nat := ((List.range 32).find? a.getLsbD).getD 32
def bitReverse (a : Word) : Word :=
  BitVec.ofNat 32 ((List.range 32).foldl (fun r i => if a.getLsbD i then r + 2 ^ (31 - i) else r) 0)

/-- IADD (R103). -/
def execIadd (h : Head) (d : Reg) (a b : Src) (s : State) : Outcome :=
  computeWord s h [one a, one b] d fun xs => x0 xs + x1 xs

/-- ISUB (R103). -/
def execIsub (h : Head) (d : Reg) (a b : Src) (s : State) : Outcome :=
  computeWord s h [one a, one b] d fun xs => x0 xs - x1 xs

/-- IMUL (R103). -/
def execImul (h : Head) (d : Reg) (a b : Src) (s : State) : Outcome :=
  computeWord s h [one a, one b] d fun xs => x0 xs * x1 xs

/-- IMULH and IMULH.U (R103). -/
def execImulh (h : Head) (m : Bool) (d : Reg) (a b : Src) (s : State) : Outcome :=
  computeWord s h [one a, one b] d fun xs =>
    if m then highWord ((x0 xs).toNat * (x1 xs).toNat) else highWord (signed (x0 xs) * signed (x1 xs))

/-- IMAD (R105). -/
def execImad (h : Head) (d : Reg) (a b : Src) (c : Reg) (s : State) : Outcome :=
  computeWord s h [one a, one b, plain c] d fun xs => x0 xs * x1 xs + x2 xs

/-- IMIN and IMIN.U (R103). -/
def execImin (h : Head) (m : Bool) (d : Reg) (a b : Src) (s : State) : Outcome :=
  computeWord s h [one a, one b] d fun xs => minWord m (x0 xs) (x1 xs)

/-- IMAX and IMAX.U (R103). -/
def execImax (h : Head) (m : Bool) (d : Reg) (a b : Src) (s : State) : Outcome :=
  computeWord s h [one a, one b] d fun xs => maxWord m (x0 xs) (x1 xs)

/-- AND (R103). -/
def execAnd (h : Head) (d : Reg) (a b : Src) (s : State) : Outcome :=
  computeWord s h [one a, one b] d fun xs => x0 xs &&& x1 xs

/-- OR (R103). -/
def execOr (h : Head) (d : Reg) (a b : Src) (s : State) : Outcome :=
  computeWord s h [one a, one b] d fun xs => x0 xs ||| x1 xs

/-- XOR (R103). -/
def execXor (h : Head) (d : Reg) (a b : Src) (s : State) : Outcome :=
  computeWord s h [one a, one b] d fun xs => x0 xs ^^^ x1 xs

/-- ANDN (R103). -/
def execAndn (h : Head) (d : Reg) (a b : Src) (s : State) : Outcome :=
  computeWord s h [one a, one b] d fun xs => x0 xs &&& ~~~(x1 xs)

/-- SHL (R103, R104). -/
def execShl (h : Head) (d : Reg) (a b : Src) (s : State) : Outcome :=
  computeWord s h [one a, one b] d fun xs => shlWord (x0 xs) (x1 xs)

/-- SHR (R103, R104). -/
def execShr (h : Head) (d : Reg) (a b : Src) (s : State) : Outcome :=
  computeWord s h [one a, one b] d fun xs => shrWord (x0 xs) (x1 xs)

/-- SAR (R103, R104). -/
def execSar (h : Head) (d : Reg) (a b : Src) (s : State) : Outcome :=
  computeWord s h [one a, one b] d fun xs => sarWord (x0 xs) (x1 xs)

/-- ROTL (R103). -/
def execRotl (h : Head) (d : Reg) (a b : Src) (s : State) : Outcome :=
  computeWord s h [one a, one b] d fun xs => (x0 xs).rotateLeft ((x1 xs).toNat % 32)

/-- FSHR (R105). -/
def execFshr (h : Head) (d : Reg) (a b : Src) (c : Reg) (s : State) : Outcome :=
  computeWord s h [one a, one b, plain c] d fun xs =>
    (dword (x0 xs) (x1 xs) >>> ((x2 xs).toNat % 32)).setWidth 32

/-- BFE and BFE.S (R105). -/
def execBfe (h : Head) (m : Bool) (d : Reg) (a b : Src) (s : State) : Outcome :=
  computeWord s h [one a, one b] d fun xs => bitField m (x0 xs) (x1 xs)

/-- BFI (R105). -/
def execBfi (h : Head) (d : Reg) (a b : Src) (c : Reg) (s : State) : Outcome :=
  computeWord s h [one a, one b, plain c] d fun xs => bitInsert (x0 xs) (x1 xs) (x2 xs)

/-- BSHUF (R105). -/
def execBshuf (h : Head) (d : Reg) (a b : Src) (c : Reg) (s : State) : Outcome :=
  computeWord s h [one a, one b, plain c] d fun xs => byteShuffle (x0 xs) (x1 xs) (x2 xs)

/-- SEL (R106): each thread by its own guard, a uniform word by that of the lowest-TID executing thread. -/
def execSel (chain : Bool) (g : Fin 16) (sense : Bool) (d : Reg) (a b : Src) (s : State) : Outcome :=
  onIssue s fun c s =>
    beginAll s c (bareHead chain) [one a, one b] [d] fun all lanes s =>
      let pick (l : Nat) : Word := if (c.snap.thread l).g.getLsbD g.val != sense then c.snap.get l a.reg else c.snap.get l b.reg
      if d.isW then s.give c (lowest lanes) d 1 [pick (lowest all)]
      else lanes.foldl (fun s l => s.give c l d 1 [pick l]) s

/-- IADD64 (R107). -/
def execIadd64 (h : Head) (d : Reg) (a b : Src) (s : State) : Outcome :=
  compute s h [pair a, pair b] d 2 .a fun _ xs =>
    ⟨dwords (dword (x0 xs) (x1 xs) + dword (x2 xs) (x3 xs)), false, false, false⟩

/-- LEA64 (R107). -/
def execLea64 (chain : Bool) (n : Fin 16) (d : Reg) (a b : Src) (s : State) : Outcome :=
  compute s (bareHead chain) [pair a, one b] d 2 .a fun _ xs =>
    ⟨dwords (dword (x0 xs) (x1 xs) + (x2 xs).setWidth 64 <<< n.val), false, false, false⟩

/-- LEA64S (R107). -/
def execLea64s (chain : Bool) (n : Fin 16) (d : Reg) (a b : Src) (s : State) : Outcome :=
  compute s (bareHead chain) [pair a, one b] d 2 .a fun _ xs =>
    ⟨dwords (dword (x0 xs) (x1 xs) + (x2 xs).signExtend 64 <<< n.val), false, false, false⟩

/-- MOV (R108); with a w destination, the value of the lowest-TID executing thread (R50). -/
def execMov (h : Head) (d : Reg) (a : Src) (s : State) : Outcome :=
  if d.isW then
    onIssue s fun c s => beginAt s c h [one a] lowest [d] fun lanes s => s.give c (lowest lanes) d 1 [c.snap.get (lowest (c.readers h)) a.reg]
  else computeWord s h [one a] d fun xs => x0 xs

/-- NOT (R108). -/
def execNot (h : Head) (d : Reg) (a : Src) (s : State) : Outcome :=
  computeWord s h [one a] d fun xs => ~~~(x0 xs)

/-- INEG (R108). -/
def execIneg (h : Head) (d : Reg) (a : Src) (s : State) : Outcome :=
  computeWord s h [one a] d fun xs => 0 - x0 xs

/-- IABS (R108). -/
def execIabs (h : Head) (d : Reg) (a : Src) (s : State) : Outcome :=
  computeWord s h [one a] d fun xs => if (x0 xs).slt 0 then 0 - x0 xs else x0 xs

/-- POPC (R108). -/
def execPopc (h : Head) (d : Reg) (a : Src) (s : State) : Outcome :=
  computeWord s h [one a] d fun xs => BitVec.ofNat 32 (popCount (x0 xs))

/-- CLZ (R108). -/
def execClz (h : Head) (d : Reg) (a : Src) (s : State) : Outcome :=
  computeWord s h [one a] d fun xs => BitVec.ofNat 32 (leadingZeros (x0 xs))

/-- BREV (R108). -/
def execBrev (h : Head) (d : Reg) (a : Src) (s : State) : Outcome :=
  computeWord s h [one a] d fun xs => bitReverse (x0 xs)

/-- CTZ (R108). -/
def execCtz (h : Head) (d : Reg) (a : Src) (s : State) : Outcome :=
  computeWord s h [one a] d fun xs => BitVec.ofNat 32 (trailingZeros (x0 xs))

/-- ADDI (R109). -/
def execAddi (h : Head) (d a : Reg) (imm : Int) (s : State) : Outcome :=
  computeWord s h [plain a] d fun xs => x0 xs + wordOfInt imm

/-- ANDI (R109). -/
def execAndi (h : Head) (d a : Reg) (imm : Int) (s : State) : Outcome :=
  computeWord s h [plain a] d fun xs => x0 xs &&& wordOfInt imm

/-- ORI (R109). -/
def execOri (h : Head) (d a : Reg) (imm : Int) (s : State) : Outcome :=
  computeWord s h [plain a] d fun xs => x0 xs ||| wordOfInt imm

/-- XORI (R109). -/
def execXori (h : Head) (d a : Reg) (imm : Int) (s : State) : Outcome :=
  computeWord s h [plain a] d fun xs => x0 xs ^^^ wordOfInt imm

/-- SHLI (R104, R109). -/
def execShli (h : Head) (d a : Reg) (imm : Int) (s : State) : Outcome :=
  computeWord s h [plain a] d fun xs => shlWord (x0 xs) (wordOfInt imm)

/-- SHRI (R104, R109). -/
def execShri (h : Head) (d a : Reg) (imm : Int) (s : State) : Outcome :=
  computeWord s h [plain a] d fun xs => shrWord (x0 xs) (wordOfInt imm)

/-- SARI (R104, R109). -/
def execSari (h : Head) (d a : Reg) (imm : Int) (s : State) : Outcome :=
  computeWord s h [plain a] d fun xs => sarWord (x0 xs) (wordOfInt imm)

/-- MULI (R109). -/
def execMuli (h : Head) (d a : Reg) (imm : Int) (s : State) : Outcome :=
  computeWord s h [plain a] d fun xs => x0 xs * wordOfInt imm

/-- MOVI (R110). -/
def execMovi (h : Head) (d : Reg) (imm : Int) (s : State) : Outcome :=
  computeWord s h [] d fun _ => wordOfInt imm

/-- MOVL (R110): the literal word. -/
def execMovl (h : Head) (d : Reg) (lit : Word) (s : State) : Outcome :=
  computeWord s h [] d fun _ => lit

end Sys2Proof.Machine
end

