-- ==== Sys2Proof/Machine/Random.lean ====
section
/-! DEFINITION. Stochastic-rounding words (03_numbers_and_contracts.md R95-R98). -/
namespace Sys2Proof.Machine
open Sys2Proof

/-- The counter of a random word (R95). -/
def counterOf (wgid : Nat) (herder : Bool) (warp lane seq : Nat) : Nat :=
  wgid % 2 ^ 23 * 2 ^ 41 + (if herder then 2 ^ 40 else 0) + warp % 32 * 2 ^ 35 + lane % 32 * 2 ^ 30 + seq % 2 ^ 30

/-- The rounds of Mix, from round i on (R97). -/
def mixRounds (a b : Nat) : Nat → Nat → Word → Word → Word → Word → Word
  | 0, _, lo, hi, _, _ => lo ^^^ hi
  | n + 1, i, lo, hi, ka, kb =>
    let lo := lo + (hi.rotateLeft a ^^^ ka)
    let hi := (hi ^^^ lo.rotateLeft b) + 0x6A3D1C57 * BitVec.ofNat 32 (i + 1)
    mixRounds a b n (i + 1) lo hi kb (ka + 0x9B5C2E31)

/-- Mix(n) under the generator revision of a contract (R97). -/
def mixWord (gen n : Nat) (ka kb : Word) : Word :=
  let lo := BitVec.ofNat 32 n
  let hi := BitVec.ofNat 32 (n / 2 ^ 32)
  if gen = 1 then mixRounds 5 11 4 0 lo hi ka kb else mixRounds 7 19 8 0 lo hi ka kb

/-- The word for a counter in a launch's mode (R97, R98). -/
def randomWord (gen : Nat) (lattice : Option Word) (n : Nat) (ka kb : Word) : Word :=
  match lattice with
  | some stride => BitVec.ofNat 32 n * stride
  | none => mixWord gen n ka kb

/-- The counter that a word is made of: the thread's; under contract 0, where words come in arrival order, any (R80, R96). -/
def State.drawn (s : State) (contract counter : Nat) : Nat := if contract = 0 then Config.looseCounter s.cycle counter % 2 ^ 64 else counter
/-- The word of a thread's SEQ (R95-R98). -/
def State.randomFor (s : State) (f m u lane : Nat) (seq : BitVec 30) (srseed : Word) : Word :=
  match s.flock? f, s.wg? f m with
  | some fl, some wg =>
    let l := fl.launch
    let h := u == herderUnit
    randomWord (contractOf l.contract).gen (if l.lattice then some l.stride else none)
      (s.drawn l.contract (counterOf wg.wgid h (if h then 0 else u) (if h then 0 else lane) seq.toNat)) l.lseed srseed
  | _, _ => 0

/-- A thread of the issuing unit as a word that takes random words sees it: its control registers as before the chain (R21, R134), and its SEQ
as the words of its chain have left it so far (R35, R95). -/
def State.live (s : State) (c : Issue) (lane : Nat) : Thread :=
  { c.snap.thread lane with seq := ((s.thread? c.f c.m c.u lane).getD (c.snap.thread lane)).seq }
/-- A thread takes n random words: its SEQ advances (R95), if the chain takes effect in it (R21). -/
def State.advanceSeq (s : State) (c : Issue) (lane n : Nat) : State :=
  if c.gone.contains lane then s else s.modThread c.f c.m c.u lane fun t => { t with seq := t.seq + BitVec.ofNat 30 n }

end Sys2Proof.Machine
end

