-- ==== Sys2Proof/Machine/Queue.lean ====
section
/-! DEFINITION. The decision queue, the queue registers, continuations and gang arrivals
(05_warps_slices_flocks.md R150, R151, R158; 06_parallel_instructions.md R175-R180; 12_matrix_engine.md R287-R289;
13_async_engines.md R300, R302). -/
namespace Sys2Proof.Machine
open Sys2Proof

/-- Whether an unsatisfied wait-qualified load of a thread holds back its later accesses (R242). -/
def State.waiting (s : State) (c : Issue) (lane : Nat) : Bool :=
  match s.flock? c.f with
  | some fl => fl.wgs.any fun wg => wg.waits.any fun q => q.m == c.m && q.u == c.u && q.lanes.contains lane
  | none => false

/-! ## The decision queue -/

/-- Whether the index of the next entry pushed is past an index (R150). -/
def Workgroup.hasEntry (wg : Workgroup) (k : Nat) : Bool := k < wg.dqBase + wg.dq.length
/-- Frees the entries that every warp with a live thread has consumed (R150). -/
def Workgroup.freeEntries (wg : Workgroup) : Workgroup :=
  let top := wg.dqBase + wg.dq.length
  let least := wg.warps.foldl (fun a w => if w.allEnded then a else min a w.cursor) top
  { wg with dq := wg.dq.drop (least - wg.dqBase), dqBase := max wg.dqBase least }
/-- Whether the herder has ended. -/
def Workgroup.herderEnded (wg : Workgroup) : Bool := match wg.herder with | some h => h.allEnded | none => true

/-- What a DQPOP or BRDQ meets (R151, R176, R332). -/
inductive DqView where
  | bad
  | waitStrays (lanes : BitVec 32)
  | ready (entry : Nat) (word : Option Word)
  deriving DecidableEq, Repr

/-- The lanes that a held thread's group waits for as strays (R151). -/
def Hold.awaits : Hold → BitVec 32
  | .strays lanes => lanes
  | _ => 0
/-- The lanes that a group waits for: those parked now, and those it has waited for already (R151). -/
def Issue.awaitedStrays (c : Issue) : BitVec 32 :=
  c.lanes.foldl (fun a l => a ||| (c.snap.thread l).hold.awaits) 0

def State.dqView (s : State) (c : Issue) (lanes : List Nat) : DqView :=
  match s.wg? c.f c.m, s.launchOf c.f with
  | some wg, some l =>
    let away := (c.snap.lanesWith fun t => t.live && !t.stray).filter fun l => !c.lanes.contains l
    let strays := c.snap.lanesWith Thread.stray
    if c.going then .ready c.snap.cursor (if wg.hasEntry c.snap.cursor then wg.dq[c.snap.cursor - wg.dqBase]? else none)
    else if c.isHerder || l.pool.isSome || (c.snap.thread (lowest c.group)).trapMode || lanes ≠ c.lanes || !away.all c.awaitedStrays.getLsbD then .bad
    else if !strays.isEmpty || !away.isEmpty then .waitStrays (c.awaitedStrays ||| BitVec.ofNat 32 (laneMask strays))
    else if wg.hasEntry c.snap.cursor then .ready c.snap.cursor (wg.dq[c.snap.cursor - wg.dqBase]?)
    else if wg.herderEnded then .bad
    else .ready c.snap.cursor none
  | _, _ => .bad

/-- Advances the warp's cursor past an entry. -/
def State.consume (s : State) (c : Issue) : State :=
  (s.modUnit c.f c.m c.u fun w => { w with cursor := w.cursor + 1 }).modWg c.f c.m Workgroup.freeEntries

/-! ## Queue registers and pools -/

/-- A tile-copy command as it is accepted. -/
def CopyCmd.new (words : List Word) (mask : Bool) (num u lane pc : Nat) : CopyCmd where
  words := words
  stampMask := mask
  num := num
  record := none
  u := u
  lane := lane
  pc := pc
  row := 0
  part := 0
  moved := 0
  masked := false
  error := 0
  finished := false
  fault := none

/-- The flocks whose workgroups occupy cores (R153, R344). -/
def Flock.onCores (fl : Flock) : Bool :=
  match fl.status with
  | .resident | .folding _ | .aborting _ _ _ _ _ _ => true
  | _ => false
/-- The workgroups that a core holds. -/
def State.coreWgs (s : State) (core : Nat) : List Workgroup :=
  s.flocks.flatMap fun fl => if fl.onCores then fl.wgs.filter fun wg => wg.core == core && !wg.ended else []
/-- Commands of a core's tile-copy unit that have not completed (R302). -/
def State.coreCommands (s : State) (core : Nat) : Nat := (s.coreWgs core).foldl (fun a wg => a + wg.copies.length) 0

/-- The live pool of a number for threads of a flock: the pool itself, or one of a younger task (R192). -/
def State.poolFor (s : State) (f number : Nat) : Option Pool :=
  (s.flock? f).bind fun fl => (s.part fl.p).pools.find? fun q => q.number == number && fl.seq ≤ q.seq
/-- The pool that a thread waits to leave its record in (R180). -/
def State.poolOf (s : State) (f : Nat) : Life → Option Pool
  | .cont seq _ => (s.flock? f).bind fun fl => (s.part fl.p).pools.find? fun q => q.seq == seq
  | _ => none
/-- The launch of a pool. -/
def State.poolLaunch (s : State) (f seq : Nat) : Option Launch :=
  (s.flock? f).bind fun fl => ((s.part fl.p).window.find? fun t => t.seq == seq).bind Task.launch
/-- The registers a record of a pool carries, and the records its area still takes. -/
def State.poolRegs (s : State) (f seq : Nat) : Nat := match s.poolLaunch f seq with | some l => l.poolN | none => 0
def State.poolRoom (s : State) (f : Nat) (q : Pool) : Nat :=
  match s.poolLaunch f q.seq with | some l => l.capacity - q.held | none => 0

/-- Gives a pop its word. -/
def State.givePop (s : State) (f m : Nat) (q : Pop) (x : Word) : State :=
  q.lanes.foldl (fun s l => s.putReg f m q.u l q.dest x) s

/-- The first pop of a queue, and the pops without it. -/
def takePop (queue : Nat) : List Pop → Option (Pop × List Pop)
  | [] => none
  | q :: rest => if q.queue = queue then some (q, rest) else (takePop queue rest).map fun r => (r.1, q :: r.2)

/-- Serves the pops of q1 and q3 that have a token, in issue order (R179); a token of a tile copy acquires the writes of that copy (R268). A matrix
operation writes scratchpads and tiles only, at once. -/
def State.serveTokens (s : State) (f m : Nat) : Nat → State
  | 0 => s
  | n + 1 =>
    match s.wg? f m with
    | some wg =>
      match wg.q1, takePop 1 wg.pops, wg.q3, takePop 3 wg.pops with
      | x :: rest, some (q, pops), _, _ =>
        (((s.enterOps (s.ownerOf f) (· == .copy f m (wg.q1ops.headD 0))).givePop f m q x).modWg f m fun wg =>
          { wg with q1 := rest, q1ops := wg.q1ops.drop 1, pops := pops, q1asked := wg.q1asked - 1 }).serveTokens f m n
      | _, _, x :: rest, some (q, pops) =>
        ((s.givePop f m q x).modWg f m fun wg => { wg with q3 := rest, pops := pops, q3asked := wg.q3asked - 1 }).serveTokens f m n
      | _, _, _, _ => s
    | none => s

/-- Serves the DQPOPs whose entry exists (R176), and frees entries. -/
def State.serveEntries (s : State) (f m : Nat) : State :=
  match s.wg? f m with
  | some wg =>
    let ready := wg.pops.filter fun q => q.queue == 0 && wg.hasEntry q.entry
    let s := ready.foldl (fun s q => s.givePop f m q (nth 0 wg.dq (q.entry - wg.dqBase))) s
    s.modWg f m fun wg =>
      ({ wg with pops := wg.pops.filter fun q => !(q.queue == 0 && wg.hasEntry q.entry) }).freeEntries
  | none => s

/-- Serves every pop of a workgroup that can be served. -/
def State.servePops (s : State) (f m : Nat) : State :=
  match s.wg? f m with
  | some wg => if wg.pops.isEmpty && wg.dq.isEmpty then s else (s.serveTokens f m wg.pops.length).serveEntries f m
  | none => s

/-- DQPUSH (R175): held while 64 entries are occupied. -/
def execDqpush (h : Head) (a : Src) (s : State) : Outcome :=
  onIssue s fun c s => begin s c h [one a] [] fun lanes s =>
    match s.wg? c.f c.m with
    | some wg =>
      if !c.isHerder then s.trapLanes lanes causeDqbad 0
      else if !c.going && decide (64 ≤ wg.dq.length) then s.holdGroup .wait
      else s.modWg c.f c.m fun wg => { wg with dq := wg.dq ++ [c.snap.get (lowest lanes) a.reg] }
    | none => s

/-- DQPOP (R176): the destination is empty until the entry exists. -/
def execDqpop (h : Head) (d : Reg) (s : State) : Outcome :=
  onIssue s fun c s => begin s c h [] [d] fun lanes s =>
    match s.dqView c lanes with
    | .bad => s.trapLanes lanes causeDqbad 0
    | .waitStrays lanes => s.holdGroup (.strays lanes)
    | .ready k word =>
      let keep := if d.isW then [lowest lanes] else lanes
      match word with
      | some x => keep.foldl (fun s l => s.launchResult c [l] d 1 [x] false false false) (s.consume c)
      | none =>
        let s := keep.foldl (fun s l => s.emptyRegs c.f c.m c.u l [d]) s
        (s.modWg c.f c.m fun wg => { wg with pops := wg.pops ++ [⟨0, c.u, keep, d, k⟩] }).modUnit c.f c.m c.u fun w =>
          { w with cursor := w.cursor + 1 }

/-- BRDQ (R177): waits for its entry, and branches as a whole on bit 0. -/
def execBrdq (h : Head) (off : Int) (s : State) : Outcome :=
  onIssue s fun c s => begin s c h [] [] fun lanes s =>
    match s.dqView c lanes with
    | .bad => s.trapLanes lanes causeDqbad 0
    | .waitStrays lanes => s.holdGroup (.strays lanes)
    | .ready _ none => s.holdGroup .wait
    | .ready _ (some x) =>
      let s := s.consume c
      if x.getLsbD 0 then lanes.foldl (fun s l => s.branch c l (c.here + off)) s else s

/-- QPOP (R179): tokens of q1 and q3 in issue order; q2 gives random words, and each thread's SEQ advances. -/
def execQpop (h : Head) (n : Nat) (d : Reg) (s : State) : Outcome :=
  onIssue s fun c s => beginAll s c h [] [d] fun all lanes s =>
    if n = 2 then
      (if d.isW then [highest all] else lanes).foldl (fun s l =>
        let t := s.live c l
        let s := (s.emptyRegs c.f c.m c.u l [d]).advanceSeq c l 1
        { s with randoms := s.randoms ++
            [{ f := c.f, m := c.m, u := c.u, lanes := [l], lane := l, seq := t.seq, srseed := t.srseed, dest := d
               convert := none, drop := false }] }) s
    else
      let keep := if d.isW then [lowest lanes] else lanes
      let s := keep.foldl (fun s l => s.emptyRegs c.f c.m c.u l [d]) s
      s.modWg c.f c.m fun wg => { wg with pops := wg.pops ++ [⟨n, c.u, keep, d, 0⟩] }

/-- CONT (R158, R180, R192): after the other words of its chain; PROTFAULT names no live pool. A group blocks as a whole until its records all
have room (log 97). -/
def execCont (h : Head) (a b : Src) (s : State) : Outcome :=
  onIssue s fun c s => begin s c h [one a, one b] [] fun lanes s =>
    let number (l : Nat) : Nat := (c.snap.get l a.reg).toNat
    let bad := lanes.filter fun l => (s.poolFor c.f (number l)).isNone
    let good := lanes.filter fun l => !bad.contains l
    let s := bad.foldl (fun s l => s.trapLane l causeProtfault (BitVec.ofNat 64 (number l))) s
    let unready := good.any fun l =>
      match s.poolFor c.f (number l) with
      | some q => (List.range (s.poolRegs c.f q.seq)).any fun k => !(c.snap.thread l).full.getLsbD k
      | none => false
    let crowded := good.any fun l =>
      match s.poolFor c.f (number l) with
      | some q => decide (s.poolRoom c.f q < (good.filter fun k => number k == number l).length)
      | none => false
    let carried (l : Nat) : List Use :=
      match s.poolFor c.f (number l) with
      | some q => (List.range (s.poolRegs c.f q.seq)).map fun k => plain (.v (Fin.ofNat 24 k))
      | none => []
    let lost := good.filter fun l => s.badReg c l (carried l)
    if !c.going && (unready || crowded) then s.block
    else (good.filter fun l => !lost.contains l).foldl (fun s l => s.defer (.cont l (number l) (bitsOf (c.snap.get l b.reg).toNat 23 0))) (s.trapLanes lost causeUncorr 0)

/-- GANG (R287): a bad mask leaves the gang register unchanged. -/
def execGang (h : Head) (a : Src) (s : State) : Outcome :=
  onIssue s fun c s => beginAll s c h [one a] [] fun all lanes s =>
    let x := c.snap.get (lowest all) a.reg
    let nwarp := match s.launchOf c.f with | some l => l.wg | none => 0
    let n := popCount x
    if c.isHerder || (x ≠ 0 && (decide (n < 2) || decide (6 < n) || !x.getLsbD c.u || decide (2 ^ nwarp ≤ x.toNat))) then
      s.trapLanes lanes causeGangbad 0
    else s.modUnit c.f c.m c.u fun w => { w with gang := x }

end Sys2Proof.Machine
end

