-- ==== Sys2Proof/Machine/LoadStore.lean ====
section
/-! DEFINITION. Loads and stores, their qualifiers and the waiting loads (04 R135, R136; 09 R211, R212; 10 R236-R243). -/
namespace Sys2Proof.Machine
open Sys2Proof

/-- The DETAIL bits of a faulting access (R336). -/
def Perm.detail : Perm → Nat
  | .read => 1
  | .write => 2
  | .atomic => 4
  | .fetch => 8

/-- One access: by a thread, or by a group's uniform word, whose traps every executing thread takes (R238). A masked
stamp mismatch sets the sticky bit (R34). -/
def State.access (s : State) (c : Issue) (lanes : List Nat) (va : DWord) (n qual : Nat) (perm : Perm)
    (go : Place → State → State) : State :=
  let s := s.lookAt c.f va
  match s.checkAccess c.f c.m (lanes.any fun l => (c.snap.thread l).stampEn) va n qual perm with
  | .trap cause => s.trapLanes lanes cause va
  | .absent => s.strayLanes lanes va perm.detail
  | .uncorr => s.trapLanes lanes (if va.toNat < 0x00FD000000000000 then causeUncorrMem else causeUncorr) va
  | .refusedByPeer => s.trapLanes lanes causePeer va
  | .ok at_ masked => go at_ ((s.meetClocks c.f c.m at_).stick c lanes false false masked)

/-- A word that accesses memory: it waits for the thread's unsatisfied wait-qualified loads (R242), and accesses once
per executing thread in ascending TID, or once if it is uniform (R136, R238, R260). -/
def memoryWord (s : State) (h : Head) (uses : List Use) (dests : List Reg) (uniform : Bool)
    (body : Issue → List Nat → List Word → State → State) : Outcome :=
  onIssue s fun c s => begin s c h uses dests fun lanes s =>
    if !c.going && lanes.any (s.waiting c) then s.block
    else if uniform then body c lanes (c.values (lowest lanes) uses) s
    else lanes.foldl (fun s l => body c [l] (c.values l uses) s) s

/-- The address of a MEM word: the pair plus the scaled offset (R135). -/
def effective (lo hi : Word) (off : Int) (n : Nat) : DWord := dword lo hi + BitVec.ofInt 64 (off * n)

/-- The registers that hold n bytes. -/
def regsFor (n : Nat) : Nat := if n = 16 then 4 else if n = 8 then 2 else 1
/-- The words of a loaded value: zero- or sign-extended below 4 bytes (R135). -/
def loadedWords (n : Nat) (sgn : Bool) (bs : List Byte) : List Word :=
  if n < 4 then [if sgn then BitVec.ofInt 32 (signExtend (ofBytes bs) (8 * n)) else BitVec.ofNat 32 (ofBytes bs)]
  else bytesToWords bs

/-- Makes a granule full or empty. -/
def State.setGranule (s : State) (f m off : Nat) (b : Bool) : State :=
  s.modWg f m fun wg => { wg with granules := setBit wg.granules (off / 16) b }

/-- A thread stops for scratchpad or tile data that was consumed after its chain issued: the chain and the address of the data are recorded (R32,
R327, R342). -/
def Thread.lateUncorr (t : Thread) (pc : Nat) (addr : DWord) : Thread :=
  let t := if t.live then t.recordUncorr causeUncorr pc addr else t
  if t.running then { t with life := .stopped, hold := .none } else t
/-- Scratchpad data whose check bits fail is consumed: the threads of its access, or the issuer of its engine operation, stop, their flock aborts,
and its die counts it (R342, R377). -/
def State.scratchAbort (s : State) (f m u : Nat) (lanes : List Nat) (pc : Nat) (addr : DWord) : State :=
  let s := s.countDie (s.device.coreDie (s.coreOf f m)) true
  (lanes.foldl (fun s l => s.modThread f m u l fun t => t.lateUncorr pc addr) s).startAbort f m u (lowest lanes) causeUncorr pc addr
/-- The window address of a byte of a workgroup's allocation, as a member sees it (R207, R208). -/
def windowOf (own target off : Nat) : DWord :=
  BitVec.ofNat 64 (if target = own then 0x00FE000000000000 + off else 0x00FD000000000000 + target * 2 ^ 19 + off)
/-- Lands a satisfied waiting load: its value is in flight to the registers that no later write overrode, and the clocks of its core and of the
bank's meet (R259); bad data aborts the flock (R342). -/
def State.landWait (s : State) (f tm : Nat) (q : WaitLoad) : State :=
  let s := s.meetClocks f q.m (.scratch tm q.addr.toNat)
  if s.scratchBad f tm q.addr.toNat q.size then s.scratchAbort f q.m q.u q.lanes q.pc q.va else
  let bs := match s.wg? f tm with | some wg => cellsRead wg.scratch (q.addr.toNat) q.size | none => []
  let vals := (regSpan q.dest (regsFor q.size)).zip (loadedWords q.size q.signed bs)
  let kept := vals.filter fun x => q.keep.contains x.1
  { s with landings := s.landings ++
      [{ f := f, m := q.m, u := q.u, lanes := q.lanes, dests := kept.map Prod.fst, vals := kept.map Prod.snd
         pipeF := false, inv := false, ovf := false, host := false, peer := none }] }

/-- Takes the loads waiting on a granule that has become full, in their order, up to the first wait-and-clear load, which
empties it (R212). -/
def State.satisfy (s : State) (f tm g : Nat) : Nat → State
  | 0 => s
  | n + 1 =>
    match s.wg? f tm with
    | some wg =>
      match wg.waits.find? fun q => q.granule == g with
      | some q =>
        let s := (s.landWait f tm q).modWg f tm fun wg => { wg with waits := wg.waits.erase q }
        if q.clear then s.setGranule f tm (16 * g) false else s.satisfy f tm g n
      | none => s
    | none => s

/-- Makes a granule full, and satisfies the loads that wait on it (R211, R240); the allocation of a workgroup that has ended is none any more
(R242). -/
def State.fillGranule (s : State) (f tm off : Nat) : State :=
  match s.wg? f tm with
  | some wg => if wg.ended then s else (s.setGranule f tm off true).satisfy f tm (off / 16) wg.waits.length
  | none => s

/-- Makes the granules of a range full. -/
def State.fillRange (s : State) (f tm off n : Nat) : State :=
  if n = 0 then s
  else (List.range ((off + n - 1) / 16 - off / 16 + 1)).foldl (fun s k => s.fillGranule f tm ((off / 16 + k) * 16)) s

/-- The byte of a unit in a record: warp 0 to 31, 0x20 for the herder (R336). -/
def Issue.warpByte (c : Issue) : Nat := c.u

/-- An unchecked load of an empty granule is recorded in debug mode (R243), once for each executing thread (log 99). -/
def State.noteUnchecked (s : State) (c : Issue) (lanes : List Nat) (q tm off : Nat) (va : DWord) : State :=
  match s.flock? c.f, s.wg? c.f c.m with
  | some fl, some wg =>
    if q = 3 && fl.launch.debug && !s.granuleFull c.f tm off then
      lanes.foldl (fun s l => s.sheepdog fl.p 3 fl.seq wg.wgid c.pc c.warpByte l va) s
    else s
  | _, _ => s

/-- Performs a load (R135, R239): a wait-qualified load of an empty granule waits in the target's bank. -/
def State.performLoad (s : State) (c : Issue) (lanes : List Nat) (va : DWord) (n q : Nat) (sgn : Bool) (d : Reg) (at_ : Place) : State :=
  let k := regsFor n
  match at_ with
  | .scratch tm off =>
    let s := s.noteUnchecked c lanes q tm off va
    let vals := loadedWords n sgn (s.readAt c.f at_ va n)
    if q = 1 || q = 2 then
      if s.granuleFull c.f tm off then
        let s := s.launchResult c lanes d k vals false false false
        if q = 2 then s.setGranule c.f tm off false else s
      else
        let s := s.emptyRegs c.f c.m c.u (lowest lanes) (regSpan d k)
        s.modWg c.f tm fun wg =>
          { wg with waits := wg.waits ++
              [{ m := c.m, u := c.u, lanes := lanes, target := tm, granule := off / 16, addr := BitVec.ofNat 64 off
                 clear := q == 2, size := n, signed := sgn, dest := d, keep := regSpan d k, since := s.cycle, pc := c.pc, va := va }] }
    else s.launchResult c lanes d k vals false false false
  | .page l =>
    let r := s.viewAt c.f c.m l va n
    let s := r.1.launchResult c lanes d k (loadedWords n sgn r.2) false false false
    match s.peerAt l va.toNat with
    | some a => { s with landings := modifyNth (fun q => { q with peer := some (a / 2 ^ 39), addr := va, since := s.cycle }) (s.landings.length - 1) s.landings }
    | none => s

/-- The loads of n bytes (R135). -/
def load (n : Nat) (sgn : Bool) (s : State) (h : Head) (q : Fin 4) (d a : Reg) (off : Int) : Outcome :=
  memoryWord s h [plain a 2] (regSpan d (regsFor n)) d.isW fun c lanes xs s =>
    let va := effective (x0 xs) (x1 xs) off n
    s.access c lanes va n q.val .read fun at_ s => s.performLoad c lanes va n q.val sgn d at_

/-- Performs a store: the bytes, and the granule if it is set full (R240); one to a peer awaits its answer (R380). -/
def State.performStore (s : State) (c : Issue) (lanes : List Nat) (va : DWord) (full : Bool) (bs : List Byte) (at_ : Place) : State :=
  let s := s.writeAt c.f c.m at_ va bs
  match at_ with
  | .scratch tm off => if full then s.fillGranule c.f tm off else s
  | .page l =>
    match s.peerAt l va.toNat with
    | some a => { s with landings := s.landings ++
        [{ f := c.f, m := c.m, u := c.u, lanes := lanes, dests := [], vals := [], pipeF := false, inv := false, ovf := false, host := false
           peer := some (a / 2 ^ 39), pc := c.pc, addr := va, since := s.cycle }] }
    | none => s

/-- The stores of n bytes (R135). -/
def store (n : Nat) (s : State) (h : Head) (q : Bool) (a : Reg) (off : Int) (src : Reg) : Outcome :=
  memoryWord s h [plain a 2, plain src (regsFor n)] [] (a.isW && src.isW) fun c lanes xs s =>
    let va := effective (x0 xs) (x1 xs) off n
    s.access c lanes va n (if q then 1 else 0) .write fun at_ s =>
      s.performStore c lanes va q ((wordsToBytes (xs.drop 2)).take n) at_

/-- LDB (R135). -/
def execLdb (h : Head) (q : Fin 4) (d a : Reg) (off : Int) (s : State) : Outcome :=
  load 1 false s h q d a off

/-- LDBS (R135). -/
def execLdbs (h : Head) (q : Fin 4) (d a : Reg) (off : Int) (s : State) : Outcome :=
  load 1 true s h q d a off

/-- LDH (R135). -/
def execLdh (h : Head) (q : Fin 4) (d a : Reg) (off : Int) (s : State) : Outcome :=
  load 2 false s h q d a off

/-- LDHS (R135). -/
def execLdhs (h : Head) (q : Fin 4) (d a : Reg) (off : Int) (s : State) : Outcome :=
  load 2 true s h q d a off

/-- LDW (R135). -/
def execLdw (h : Head) (q : Fin 4) (d a : Reg) (off : Int) (s : State) : Outcome :=
  load 4 false s h q d a off

/-- LDD (R135). -/
def execLdd (h : Head) (q : Fin 4) (d a : Reg) (off : Int) (s : State) : Outcome :=
  load 8 false s h q d a off

/-- LDQ (R135). -/
def execLdq (h : Head) (q : Fin 4) (d a : Reg) (off : Int) (s : State) : Outcome :=
  load 16 false s h q d a off

/-- STB (R135). -/
def execStb (h : Head) (q : Bool) (a : Reg) (off : Int) (src : Reg) (s : State) : Outcome :=
  store 1 s h q a off src

/-- STH (R135). -/
def execSth (h : Head) (q : Bool) (a : Reg) (off : Int) (src : Reg) (s : State) : Outcome :=
  store 2 s h q a off src

/-- STW (R135). -/
def execStw (h : Head) (q : Bool) (a : Reg) (off : Int) (src : Reg) (s : State) : Outcome :=
  store 4 s h q a off src

/-- STD (R135). -/
def execStd (h : Head) (q : Bool) (a : Reg) (off : Int) (src : Reg) (s : State) : Outcome :=
  store 8 s h q a off src

/-- STQ (R135). -/
def execStq (h : Head) (q : Bool) (a : Reg) (off : Int) (src : Reg) (s : State) : Outcome :=
  store 16 s h q a off src

end Sys2Proof.Machine
end

