-- ==== Sys2Proof/Machine/Engines.lean ====
section
/-! DEFINITION. What the asynchronous engines share, and the tile-copy unit: layout records, barrier objects, timeline
counters, tile copies (13_async_engines.md R298-R303, R306). -/
namespace Sys2Proof.Machine
open Sys2Proof

/-! ## Timeline counters -/

/-- The value of a timeline counter. -/
def Partition.counter (q : Partition) (k : Nat) : DWord := assocGet 0 q.eng.timeline k
/-- A raise of a counter: it never decreases (R306). -/
def State.raise (s : State) (p k : Nat) (n : DWord) : State :=
  s.modPart p fun q =>
    if (q.counter k).toNat < n.toNat then { q with eng := { q.eng with timeline := assocSet 0 k n q.eng.timeline } } else q

/-! ## Layout records (R298) -/

/-- The start of the windows: an address there names no global memory (R206). -/
def windowBase : Nat := 0x00FD000000000000
def localBase : Nat := 0x00FE000000000000
def localEnd : Nat := 0x00FF000000000000

/-- A layout record from its bytes. -/
def parseLayout (bs : List Byte) : Layout :=
  let n (off k : Nat) : Nat := field bs off k
  let et := n 40 1
  let scl := n 57 1
  let reserved := n 58 6 ≠ 0 || n 44 4 ≠ 0 || n 41 1 ≠ 0 || n 20 4 ≠ 0 || decide (4 ≤ scl)
  let scaled := decide (2 ≤ et) && decide (et ≤ 7)
  let badScale := scl = 2 || scl = 3 || (scl = 1 && !(decide (2 ≤ et) && decide (et ≤ 4))) || (scl ≠ 0 && !scaled)
  { base := n 0 8, ext0 := n 8 4, ext1 := n 12 4, ext2 := n 16 4, stride1 := n 24 8, stride2 := n 32 8, etype := et
    box0 := n 42 1 + 1, box1 := n 43 1 + 1, sbase := n 48 8, se := n 56 1, scl := scl
    bad := reserved || decide (8 < et) || badScale || n 8 4 = 0 || n 12 4 = 0 || n 16 4 = 0 || decide (2 ^ 56 ≤ n 0 8) }

/-- Reads the layout record of a handle, as an access of the operation (R298). -/
def State.readLayout (s : State) (p h : Nat) (st : Option Stamped) : EngineRes (List Byte × Bool) :=
  s.readVa p st ((s.part p).eng.ltbase.toNat + 64 * h) 64

/-- The element type of a layout record. -/
def Layout.elem (l : Layout) : Elem := (Elem.ofCode l.etype).getD .bf16
/-- Width of an element in nibbles. -/
def Layout.nibs (l : Layout) : Nat := l.elem.bits / 4
/-- The nibble address of an element: two per byte (R298). -/
def Layout.nibAddr (l : Layout) (i0 i1 i2 : Nat) : Nat := 2 * (l.base + i2 * l.stride2 + i1 * l.stride1) + i0 * l.nibs

/-! ## Memory reached by nibbles -/

/-- The bytes that a run of nibbles touches: first byte and count. -/
def nibSpan (a n : Nat) : Nat × Nat := if n = 0 then (a / 2, 0) else (a / 2, (a + n - 1) / 2 - a / 2 + 1)
/-- The nibbles of bytes, low first (R72). -/
def toNibs (bs : List Byte) : List Nat := bs.flatMap fun b => [b.toNat % 16, b.toNat / 16]
/-- Bytes from nibbles, an even number of them. -/
def fromNibs : List Nat → List Byte
  | lo :: hi :: rest => BitVec.ofNat 8 (lo % 16 + 16 * (hi % 16)) :: fromNibs rest
  | _ => []
/-- Replaces n nibbles of bytes, from an odd or even start. -/
def mergeNibs (old : List Byte) (odd : Nat) (new : List Nat) : List Byte :=
  let ns := toNibs old
  fromNibs (ns.take odd ++ new ++ ns.drop (odd + new.length))

/-- A byte that an engine keeps while it writes a part of it: read without asking for R. -/
def State.peek (s : State) (p va : Nat) : Byte :=
  match s.translate p va .write with
  | .leaf l => ((s.pageRead p l va 1).getD []).headD 0
  | _ => 0

/-- Writes nibbles to virtual memory, keeping the other nibble of a shared byte (R301). -/
def State.writeNibs (s : State) (p : Nat) (st : Option Stamped) (a : Nat) (new : List Nat) (by_ : Writer) : State × EngineRes Bool :=
  let (b, n) := nibSpan a new.length
  let old := (List.range n).map fun k =>
    if (k = 0 && a % 2 = 1) || (k + 1 = n && (a + new.length) % 2 = 1) then s.peek p (b + k) else 0
  s.writeVa p st b (mergeNibs old (a % 2) new) by_
/-- Reads nibbles of virtual memory. -/
def State.readNibs (s : State) (p : Nat) (st : Option Stamped) (a n : Nat) : EngineRes (List Nat × Bool) :=
  let (b, k) := nibSpan a n
  match s.readVa p st b k with
  | .ok (bs, x) => .ok (((toNibs bs).drop (a % 2)).take n, x)
  | .absent va => .absent va
  | .err c => .err c

/-! ## Barrier objects (R303) -/

/-- A barrier object: EXPECTED, ARRIVED, PHASE, ERROR. -/
structure Barrier where
  expected : Nat
  arrived : Nat
  phase : Nat
  error : Nat
  deriving DecidableEq, Repr

def State.barrier (s : State) (f m off : Nat) : Barrier :=
  let bs := match s.wg? f m with | some wg => cellsRead wg.scratch off 16 | none => []
  ⟨field bs 0 4, field bs 4 4, field bs 8 4, field bs 12 4⟩
/-- Writes a barrier object; the granule bit is left unchanged. -/
def State.setBarrier (s : State) (f m off : Nat) (b : Barrier) : State :=
  s.scratchPut f m off (leBytes 4 b.expected ++ leBytes 4 b.arrived ++ leBytes 4 b.phase ++ leBytes 4 b.error)
/-- The completion test. -/
def Barrier.settle (b : Barrier) : Barrier :=
  if 0 < b.expected && b.expected ≤ b.arrived then
    { b with arrived := b.arrived - b.expected, expected := 0, phase := (b.phase + 1) % 2 ^ 32 }
  else b
/-- An engine arrival: bytes, an error code or 0, and whether a mismatch was masked. -/
def Barrier.arrive (b : Barrier) (bytes err : Nat) (masked : Bool) : Barrier :=
  let e := if masked && !bitAt b.error 9 then b.error + 512 else b.error
  if err ≠ 0 then
    let e := if e % 256 = 0 then e + err else e
    { b with expected := 0, arrived := 0, phase := (b.phase + 1) % 2 ^ 32, error := if bitAt e 8 then e else e + 256 }
  else ({ b with arrived := (b.arrived + bytes) % 2 ^ 32, error := e }).settle
/-- Whether a barrier object lies in an allocation. -/
def barrierFits (fl : Flock) (off : Nat) : Bool := off + 16 ≤ fl.launch.scratch
/-- An engine arrival of an operation that a thread of unit u issued; an object whose check bits fail aborts the flock (R342). The phase counts
the writes of the operation that have still to enter the single order (R268). A workgroup that has ended has no object any more. -/
def State.barrierArrive (s : State) (f m off bytes err : Nat) (masked : Bool) (u lane pc : Nat) (op : WriteOp) : State :=
  match s.wg? f m with
  | none => s
  | some wg =>
    if wg.ended then s
    else if s.scratchBad f m off 16 then s.scratchAbort f m u [lane] pc (windowOf m m off)
    else
      let b := s.barrier f m off
      let s := s.setBarrier f m off (b.arrive bytes err masked)
      s.modWg f m fun wg => { wg with counted := (wg.counted ++ [(off, b.phase, op)]).filter fun q => s.late.any fun w => w.writer.op == q.2.2 }

/-! ## Tile copies (R300-R302) -/

def CopyCmd.word (c : CopyCmd) (k : Nat) : Nat := (nth 0 c.words k).toNat
def CopyCmd.dir (c : CopyCmd) : Bool := bitAt (c.word 0) 12
def CopyCmd.bar (c : CopyCmd) : Bool := bitAt (c.word 0) 14
def CopyCmd.tok (c : CopyCmd) : Bool := bitAt (c.word 0) 13
def CopyCmd.toff (c : CopyCmd) : Nat := 16 * bitsOf (c.word 1) 14 0
def CopyCmd.boff (c : CopyCmd) : Nat := 16 * bitsOf (c.word 1) 29 15
def CopyCmd.o0 (c : CopyCmd) : Int := signExtend (c.word 2) 32
def CopyCmd.o1 (c : CopyCmd) : Int := signExtend (c.word 3) 24
def CopyCmd.o2 (c : CopyCmd) : Nat := bitsOf (c.word 3) 31 24
/-- Row pitch of a tile. -/
def Layout.pitch (l : Layout) : Nat := roundUp (l.box0 * l.nibs / 2) 16

/-- The first failing check of a command after its record is read (R300). -/
def copyCheck (fl : Flock) (c : CopyCmd) (l : Layout) : Nat :=
  if l.bad || (l.nibs = 1 && l.box0 % 2 = 1) || decide (windowBase ≤ l.base) then 0x01
  else if fl.launch.scratch < c.toff + l.pitch * l.box1 || (c.bar && !barrierFits fl c.boff) then 0x02
  else 0

/-- The columns of a row that are in bounds: first, and how many. -/
def copyCols (c : CopyCmd) (l : Layout) : Nat × Nat :=
  let first := (max 0 (-c.o0)).toNat
  let last := min (l.box0 : Int) ((l.ext0 : Int) - c.o0)
  (first, (last - first).toNat)

/-- Updates the first command of a workgroup. -/
def State.modCopy (s : State) (f m : Nat) (g : CopyCmd → CopyCmd) : State :=
  s.modWg f m fun wg => { wg with copies := modifyNth g 0 wg.copies }

/-- Whether a reserved bit of the command is set (R300). -/
def CopyCmd.reserved (c : CopyCmd) : Bool := bitsOf (c.word 0) 31 28 ≠ 0 || bitAt (c.word 0) 15 || bitsOf (c.word 1) 31 30 ≠ 0
/-- The layout handle of a command. -/
def CopyCmd.handle (c : CopyCmd) : Nat := bitsOf (c.word 0) 11 0

/-- A command as the operation that its writes belong to, and its writes (R267, R268). -/
def CopyCmd.writeOp (c : CopyCmd) (f m : Nat) : WriteOp := .copy f m c.num
def CopyCmd.writer (c : CopyCmd) (f m : Nat) (fl : Flock) : Writer := { Writer.engine with p := fl.p, seq := some fl.seq, op := c.writeOp f m }

/-- A translation fault holds the command (R302), and is reported with KIND 2. -/
def State.copyFault (s : State) (f m : Nat) (fl : Flock) (va detail : Nat) : State :=
  let fid := (s.part fl.p).nextFid
  (s.raiseFault fl.p { FaultRec.blank 2 (.tileCopy f m) with seq := fl.seq, va := BitVec.ofNat 64 va, detail := detail }).modCopy f m
    fun c => { c with fault := some fid }

/-- An engine access outside its task's regions is recorded in debug mode (R343). -/
def State.noteRegions (s : State) (p seq va n : Nat) (wr : Bool) : State :=
  if s.inRegions p seq va n wr then s else s.sheepdog p 4 seq 0 0 0xFF 0 (BitVec.ofNat 64 va)
/-- What an access of an engine for a task leaves beside its data: a read's walks and its lines in the L2, and in debug mode its record (R221,
R225, R343). -/
def State.noteRun (s : State) (p seq : Nat) (debug wr : Bool) (va n : Nat) : State :=
  let s := if wr then s else s.served p va n
  if debug then s.noteRegions p seq va n wr else s
/-- The same for the read of a layout record. -/
def State.noteLayout (s : State) (p seq : Nat) (debug : Bool) (h : Nat) : State :=
  s.noteRun p seq debug false ((s.part p).eng.ltbase.toNat + 64 * h) 64

/-- Where row r of a command's box has in-bounds elements: the first nibble in the scratchpad and how many, none if there are none. -/
def copyRun (c : CopyCmd) (l : Layout) (r : Nat) : Nat × Nat :=
  let i1 : Int := c.o1 + r
  let (first, n) := copyCols c l
  (2 * (c.toff + r * l.pitch) + first * l.nibs, if i1 < 0 || (l.ext1 : Int) ≤ i1 || l.ext2 ≤ c.o2 then 0 else n * l.nibs)

/-- Moves one row of the box (R301), or what of it lies before the next 2 KiB of the tensor; it advances unless a translation fault or an error
stops it. A granule becomes full with its last byte of the row. -/
def State.copyRow (s : State) (f m : Nat) (fl : Flock) (c : CopyCmd) (l : Layout) : State :=
  let (sa, all) := copyRun c l c.row
  if all = 0 then s.modCopy f m fun c => { c with row := c.row + 1 }
  else
    let st : Option Stamped := some ⟨fl.launch.contract, c.stampMask⟩
    let ta := l.nibAddr (c.o0 + (copyCols c l).1).toNat (c.o1 + c.row).toNat c.o2 + c.part
    let sa := sa + c.part
    let k := min (all - c.part) (4096 - ta % 4096)
    let ends := c.part + k = all
    let next (s : State) (x : Bool) : State :=
      s.modCopy f m fun c => { c with
        row := if ends then c.row + 1 else c.row, part := if ends then 0 else c.part + k
        moved := c.moved + ((c.part + k + 1) / 2 - (c.part + 1) / 2), masked := c.masked || x }
    let stop (s : State) (e : Nat) : State := s.modCopy f m fun c => { c with error := e, finished := true }
    let s := s.noteRun fl.p fl.seq fl.launch.debug c.dir (ta / 2) (nibSpan ta k).2
    let bytes := match s.wg? f m with | some wg => cellsRead wg.scratch (sa / 2) (nibSpan sa k).2 | none => []
    if c.dir then
      if s.scratchBad f m (sa / 2) bytes.length then stop (s.scratchAbort f m c.u [c.lane] c.pc (windowOf m m (sa / 2))) 0x07
      else match s.writeNibs fl.p st ta (((toNibs bytes).drop (sa % 2)).take k) (c.writer f m fl) with
        | (s, .ok x) => next s x
        | (s, .absent va) => s.copyFault f m fl va 2
        | (s, .err e) => stop s e
    else
      match s.readNibs fl.p st ta k with
      | .ok (ns, x) =>
        let new := mergeNibs bytes (sa % 2) ns
        let s := s.scratchPut f m (sa / 2) new
        let fin := if ends then sa / 2 + new.length else (sa / 2 + new.length) / 16 * 16
        next (s.fillRange f m (sa / 2) (fin - sa / 2)) x
      | .absent va => s.copyFault f m fl va 1
      | .err e => stop s e

/-- Moves the rows that are left, with fuel. -/
def State.copyRows (s : State) (f m : Nat) (fl : Flock) (l : Layout) : Nat → State
  | 0 => s
  | n + 1 =>
    match (s.wg? f m).bind fun wg => wg.copies.head? with
    | some c =>
      if c.finished || c.fault.isSome then s
      else if l.box1 ≤ c.row then s.modCopy f m fun c => { c with finished := true }
      else (s.copyRow f m fl c l).copyRows f m fl l n
    | none => s

/-- The tile-copy unit works on the first command of a workgroup, if it goes in the direction asked (R300, R301). -/
def State.copyMove (s : State) (f m : Nat) (dir : Bool) : State :=
  match s.flock? f, (s.wg? f m).bind fun wg => wg.copies.head? with
  | some fl, some c =>
    if c.finished || c.fault.isSome || c.dir ≠ dir then s
    else
      let stop (s : State) (e : Nat) : State := s.modCopy f m fun c => { c with error := e, finished := true }
      if c.reserved then stop s 0x02
      else if c.error ≠ 0 then stop s c.error
      else
        let read : EngineRes (List Byte × Bool) := match c.record with
          | some bs => .ok (bs, false)
          | none => s.readLayout fl.p c.handle (some ⟨fl.launch.contract, c.stampMask⟩)
        match read with
        | .absent va => s.copyFault f m fl va 1
        | .err e => stop s e
        | .ok (bs, x) =>
          let l := parseLayout bs
          let s := if c.record.isSome then s else s.noteLayout fl.p fl.seq fl.launch.debug c.handle
          let s := s.modCopy f m fun c => { c with record := some bs, masked := c.masked || x }
          let e := copyCheck fl c l
          if e ≠ 0 then stop s e else s.copyRows f m fl l (2 * l.box1 + 1)
  | _, _ => s

/-- Whether a command has written a byte of granule g of row r of its tile (R301): of a row that stopped part-way, as far as it came. -/
def CopyCmd.wrote (c : CopyCmd) (l : Layout) (r g : Nat) : Bool :=
  let (sa, all) := copyRun c l r
  let k := if r < c.row then all else if r = c.row then c.part else 0
  k ≠ 0 && decide (sa < 2 * (c.toff + r * l.pitch + 16 * g + 16)) && decide (2 * (c.toff + r * l.pitch + 16 * g) < sa + k)
/-- A command that completes makes the granules of its tile full in which it has written no byte (R211, R301), and the last one of a row that
stopped part-way. -/
def State.fillSkipped (s : State) (f m : Nat) (c : CopyCmd) (l : Layout) : State :=
  (List.range l.box1).foldl (fun s r => (List.range (l.pitch / 16)).foldl (fun s g =>
    let (sa, _) := copyRun c l r
    let last := r = c.row && c.part ≠ 0 && (sa + c.part - 1) / 32 = (c.toff + r * l.pitch) / 16 + g
    if !c.wrote l r g || last then s.fillGranule f m (c.toff + r * l.pitch + 16 * g) else s) s) s

/-- The first command completes: the granules of the tile are full, the barrier object receives the bytes, and q1 its
token (R301-R303). -/
def State.copyFinish (s : State) (f m : Nat) : State :=
  match s.flock? f, (s.wg? f m).bind fun wg => wg.copies.head? with
  | some fl, some c =>
    if !c.finished then s
    else
      let s := match c.record with
        | some bs =>
          let l := parseLayout bs
          if copyCheck fl c l = 0 && !c.dir then s.fillSkipped f m c l else s
        | none => s
      let s := if c.bar && barrierFits fl c.boff then s.barrierArrive f m c.boff c.moved c.error c.masked c.u c.lane c.pc (c.writeOp f m) else s
      s.modWg f m fun wg =>
        { wg with
          copies := wg.copies.drop 1
          q1 := if c.tok then
              wg.q1 ++ [BitVec.ofNat 32 (bitsOf (c.word 0) 27 16 * 2 ^ 20 + (if c.error ≠ 0 then 2 ^ 19 else 0) + c.moved % 2 ^ 19)]
            else wg.q1
          q1ops := if c.tok then wg.q1ops ++ [c.num] else wg.q1ops }
  | _, _ => s

end Sys2Proof.Machine
end

