-- ==== Sys2Proof/Machine/EngineWords.lean ====
section
/-! DEFINITION. QPUSH and the engine words (06_parallel_instructions.md R178; 13_async_engines.md R302-R308, R313-R315). -/
namespace Sys2Proof.Machine
open Sys2Proof

/-- A layout record as an operation that is accepted reads it (R298): the record, whether a mismatch was masked, and the error code of a refused
read; a translation fault leaves it to be read at the operation's turn. -/
def State.acceptRecord (s : State) (p h : Nat) (st : Option Stamped) : Option (List Byte) × Bool × Nat :=
  match s.readLayout p h st with
  | .ok (bs, x) => (some bs, x, 0)
  | .absent _ => (none, false, 0)
  | .err e => (none, false, e)
/-- A tile-copy command as the unit accepts it, with its layout record (R298). -/
def State.acceptCopy (s : State) (c : Issue) (cmd : CopyCmd) : CopyCmd :=
  match s.flock? c.f with
  | some fl =>
    if cmd.reserved then cmd
    else
      let r := s.acceptRecord fl.p cmd.handle (some ⟨fl.launch.contract, cmd.stampMask⟩)
      { cmd with record := r.1, masked := r.2.1, error := r.2.2 }
  | none => cmd
/-- What the read of a record at acceptance leaves. -/
def State.noteAccept (s : State) (c : Issue) (h : Nat) : State :=
  match s.flock? c.f with
  | some fl => s.noteLayout fl.p fl.seq fl.launch.debug h
  | none => s

/-- An engine word: it executes once, with the v sources of its lowest-TID executing thread (R305).
One that accesses memory or releases earlier accesses follows the thread's waiting loads (R242, R269). -/
def engineWord (ordered : Bool) (s : State) (h : Head) (uses : List Use) (dests : List Reg) (k : Issue → List Nat → List Word → State → State) : Outcome :=
  onIssue s fun c s => beginAt s c h uses lowest dests fun lanes s =>
    let reader := lowest (c.readers h)
    if !c.going && ordered && s.waiting c reader then s.block else k c lanes (c.values reader uses) s

/-- A long-latency result of an engine word: in every executing thread, or once in a w register (R305). -/
def State.landAll (s : State) (c : Issue) (lanes : List Nat) (d : Reg) (vals : List Word) : State :=
  (if d.isW then [lowest lanes] else lanes).foldl (fun s l => s.launchResult c [l] d vals.length vals false false false) s

/-- The partition of the issuing unit. -/
def State.partOf (s : State) (c : Issue) : Nat := match s.flock? c.f with | some fl => fl.p | none => 0

/-- The address checks of a barrier object (R304). -/
def State.barrierCheck (s : State) (c : Issue) (off : Nat) : Option Nat :=
  match s.flock? c.f with
  | some fl => if off % 16 ≠ 0 then some causeAlign else if barrierFits fl off then none else some causeProtfault
  | none => none
/-- The window address of a byte of the own allocation. -/
def ownWindow (off : Nat) : DWord := BitVec.ofNat 64 (localBase + off)

/-- A BOBJ minor that takes a step and returns PHASE as it was before (R304); one that sets the object up forgets what its phases counted. -/
def barrierStep (s : State) (h : Head) (d : Reg) (a : Src) (n : Nat) (init : Bool) (step : Barrier → Nat → Barrier) : Outcome :=
  engineWord true s h [⟨a.reg, n, a.trap⟩] [d] fun c lanes xs s =>
    let off := (x0 xs).toNat
    match s.barrierCheck c off with
    | some cause => s.trapLanes lanes cause (ownWindow off)
    | none =>
      let b := s.barrier c.f c.m off
      if s.scratchBad c.f c.m off 16 then s.trapLanes lanes causeUncorr (ownWindow off)
      else
        let s := if init then s.modWg c.f c.m fun wg => { wg with counted := wg.counted.filter fun q => q.1 ≠ off } else s
        (if n = 1 then s else s.setBarrier c.f c.m off (step b (x1 xs).toNat)).landAll c lanes d [BitVec.ofNat 32 b.phase]

/-- The state of a buffer-table entry (R313). -/
def Partition.buffer (q : Partition) (k : Nat) : Nat := assocGet 0 q.eng.buffers k
def State.setBuffer (s : State) (p k st : Nat) : State :=
  s.modPart p fun q => { q with eng := { q.eng with buffers := assocSet 0 k st q.eng.buffers, filled := q.eng.filled.filter fun x => x.1 ≠ k } }
/-- A packet makes an entry FULL (R313): a BWAIT.FULL acquires its writes. -/
def State.fillBuffer (s : State) (p k : Nat) (op : WriteOp) : State :=
  (s.setBuffer p k 2).modPart p fun q => { q with eng := { q.eng with filled := q.eng.filled ++ [(k, op)] } }
/-- BWAIT: holds its group until the entry is in a state; a satisfied BWAIT.FULL acquires the writes of the packet that made it FULL (R268, R314). -/
def bufferWait (s : State) (h : Head) (a : Src) (want : Nat) : Outcome :=
  engineWord false s h [one a] [] fun c _ xs s =>
    let p := s.partOf c
    let k := bitsOf (x0 xs).toNat 11 0
    if (s.part p).buffer k = want then
      (if want = 2 then s.enterOps p fun op => (s.part p).eng.filled.contains (k, op) else s)
    else if c.going then s else s.holdGroup .wait

/-- Whether a transform takes random words (R316). -/
def stochastic (op k : Nat) : Bool := k ≠ 0 && (op = 1 || op = 2 || op = 9)

/-- A transform that an XFORM submits (R315). -/
def State.submitXform (s : State) (c : Issue) (lane w0 w1 jcb : Nat) : State :=
  match s.flock? c.f, s.wg? c.f c.m with
  | some fl, some wg =>
    let t := s.live c lane
    let l := fl.launch
    let op := bitsOf w0 27 24
    let k := bitsOf w1 20 16
    let st : Option Stamped := some ⟨l.contract, t.stampEn⟩
    let src := bitsOf w0 11 0
    let dst := bitsOf w0 23 12
    let a := s.acceptRecord fl.p src st
    let b := s.acceptRecord fl.p dst st
    let count := match b.1.map parseLayout with | some d => d.ext0 * d.ext1 * d.ext2 | none => 0
    let h := c.isHerder
    let stream : Stream := {
      p := fl.p, num := s.streamNum, die := s.device.coreDie wg.core, op := op, k := k, contract := l.contract, stampMask := t.stampEn, jcb := jcb, src := src, dst := dst
      srcRec := a.1.map parseLayout, dstRec := b.1.map parseLayout, refusal := if a.2.2 ≠ 0 then a.2.2 else b.2.2
      wg := some (c.f, c.m), u := c.u, lane := lane, pc := c.pc, bar := if bitAt w1 15 then some (16 * bitsOf w1 14 0) else none, task := none
      lattice := if l.lattice then some l.stride else none, ka := l.lseed, kb := t.srseed
      counter := counterOf wg.wgid h (if h then 0 else c.u) (if h then 0 else lane) t.seq.toNat
      pos := 0, chosen := [], flags := 0, masked := a.2.1 || b.2.1, error := 0, active := false, started := false, finished := false, penned := false
      fault := none, need := 0, turnAt := s.cycle }
    let s := (s.noteAccept c src).noteAccept c dst
    let s := if stochastic op k then s.advanceSeq c lane count else s
    { s with streams := s.streams ++ [stream], streamNum := s.streamNum + 1 }
  | _, _ => s

/-- QPUSH (R178, R302): the word of the highest-TID thread; the fourth submits a command. -/
def execQpush (h : Head) (a : Src) (s : State) : Outcome :=
  onIssue s fun c s => beginAt s c h [one a] highest [] fun _ s =>
    let l := highest (c.readers h)
    match s.wg? c.f c.m with
    | some wg =>
      let words := c.snap.q0 ++ [c.snap.get l a.reg]
      let tok := bitAt (x0 words).toNat 13
      if !c.going && s.waiting c l then s.block
      else if words.length < 4 then s.modUnit c.f c.m c.u fun w => { w with q0 := words }
      else if !c.going && (decide (32 ≤ s.coreCommands wg.core) || (tok && decide (32 ≤ wg.q1asked))) then s.block
      else
        let cmd := CopyCmd.new words (c.snap.thread l).stampEn wg.copyNum c.u l c.pc
        let t := if cmd.reserved then s else s.noteAccept c cmd.handle
        (t.modUnit c.f c.m c.u fun w => { w with q0 := [] }).modWg c.f c.m fun wg =>
          { wg with
            q1asked := if tok then wg.q1asked + 1 else wg.q1asked
            copyNum := wg.copyNum + 1
            copies := wg.copies ++ [s.acceptCopy c cmd] }
    | none => s

/-- XFORM (R315): the issue checks in the order given there. -/
def execXform (h : Head) (a b : Src) (s : State) : Outcome :=
  engineWord true s h [pair a, pair b] [] fun c lanes xs s =>
    let w0 := (x0 xs).toNat
    let w1 := (x1 xs).toNat
    let jcb := (dword (x2 xs) (x3 xs)).toNat
    let off := 16 * bitsOf w1 14 0
    let fits := match s.flock? c.f with | some fl => barrierFits fl off | none => false
    if bitsOf w0 31 28 ≠ 0 || bitsOf w1 31 21 ≠ 0 || decide (10 < bitsOf w0 27 24) || decide (24 < bitsOf w1 20 16) then
      s.trapLanes lanes causeIllegal 0
    else if bitAt w1 15 && !fits then s.trapLanes lanes causeProtfault (ownWindow off)
    else if jcb % 64 ≠ 0 then s.trapLanes lanes causeAlign (BitVec.ofNat 64 jcb)
    else s.submitXform c (lowest (c.readers h)) w0 w1 jcb

/-- POST (R308): counter 0 raises PROTFAULT. -/
def execPost (h : Head) (a b : Src) (s : State) : Outcome :=
  engineWord true s h [one a, pair b] [] fun c lanes xs s =>
    let k := bitsOf (x0 xs).toNat 9 0
    if k = 0 then s.trapLanes lanes causeProtfault 0 else s.raise (s.partOf c) k (dword (x1 xs) (x2 xs))

/-- TLWAIT (R268, R307): the pair named by D is a source that always blocks. The engines' writes that it acquires have entered the single order
with the raise (R306); satisfied, its core's clock follows the furthest one, so that it acquires the stores too (log 90). -/
def execTlwait (h : Head) (d : Reg) (a : Src) (s : State) : Outcome :=
  engineWord false s h [one a, plain d 2] [] fun c _ xs s =>
    if (dword (x1 xs) (x2 xs)).toNat ≤ ((s.part (s.partOf c)).counter (bitsOf (x0 xs).toNat 9 0)).toNat then
      s.raiseClock (s.coreOf c.f c.m) s.clockMax
    else if c.going then s else s.holdGroup .wait

/-- TLREAD (R307). -/
def execTlread (h : Head) (d : Reg) (a : Src) (s : State) : Outcome :=
  engineWord false s h [one a] (regSpan d 2) fun c lanes xs s =>
    s.landAll c lanes d (dwords ((s.part (s.partOf c)).counter (bitsOf (x0 xs).toNat 9 0)))

/-- BWAIT.FULL (R314). -/
def execBwaitFull (h : Head) (a : Src) (s : State) : Outcome :=
  bufferWait s h a 2

/-- BWAIT.FREE (R314). -/
def execBwaitFree (h : Head) (a : Src) (s : State) : Outcome :=
  bufferWait s h a 0

/-- BSTATE (R314). -/
def execBstate (h : Head) (d : Reg) (a : Src) (s : State) : Outcome :=
  engineWord false s h [one a] [d] fun c lanes xs s =>
    s.landAll c lanes d [BitVec.ofNat 32 ((s.part (s.partOf c)).buffer (bitsOf (x0 xs).toNat 11 0))]

/-- BREL (R313, R314): FULL becomes FREE; any other state stays. -/
def execBrel (h : Head) (a : Src) (s : State) : Outcome :=
  engineWord true s h [one a] [] fun c _ xs s =>
    let k := bitsOf (x0 xs).toNat 11 0
    if (s.part (s.partOf c)).buffer k = 2 then s.setBuffer (s.partOf c) k 0 else s

/-- BOINIT (R304). -/
def execBoinit (h : Head) (d : Reg) (a : Src) (s : State) : Outcome :=
  barrierStep s h d a 2 true fun _ v => ⟨v, 0, 0, 0⟩

/-- BOARR (R304). -/
def execBoarr (h : Head) (d : Reg) (a : Src) (s : State) : Outcome :=
  barrierStep s h d a 2 false fun b v => ({ b with arrived := (b.arrived + v) % 2 ^ 32 }).settle

/-- BOEXP (R304). -/
def execBoexp (h : Head) (d : Reg) (a : Src) (s : State) : Outcome :=
  barrierStep s h d a 2 false fun b v => ({ b with expected := (b.expected + v) % 2 ^ 32 }).settle

/-- BOTEST (R304). -/
def execBotest (h : Head) (d : Reg) (a : Src) (s : State) : Outcome :=
  barrierStep s h d a 1 false fun b _ => b

/-- The operations whose writes a barrier object counted into the phases from v up to the one before now (R268). -/
def Workgroup.countedIn (wg : Workgroup) (off v now : Nat) (op : WriteOp) : Bool :=
  wg.counted.any fun q => q.1 == off && q.2.2 == op && decide ((q.2.1 + 2 ^ 32 - v) % 2 ^ 32 < (now + 2 ^ 32 - v) % 2 ^ 32)
/-- BOWAIT (R268, R304): holds its group until PHASE differs from v, and then acquires the writes that the completed phases counted. -/
def execBowait (h : Head) (a : Src) (s : State) : Outcome :=
  engineWord true s h [pair a] [] fun c lanes xs s =>
    let off := (x0 xs).toNat
    match s.barrierCheck c off with
    | some cause => s.trapLanes lanes cause (ownWindow off)
    | none =>
      if s.scratchBad c.f c.m off 16 then s.trapLanes lanes causeUncorr (ownWindow off)
      else
        let now := (s.barrier c.f c.m off).phase
        if !c.going && decide (now = (x1 xs).toNat) then s.holdGroup .wait
        else match s.wg? c.f c.m with
          | some wg => s.enterOps (s.partOf c) (wg.countedIn off (x1 xs).toNat now)
          | none => s

end Sys2Proof.Machine
end

