-- ==== Sys2Proof/Machine/Window.lean ====
section
/-! DEFINITION. The task window: handles, spaces, and the decoding of task records (07_task_stream.md R181-R203, R407,
R408; 13 R321-R324; 16 R350, R354; 19 R386). -/
namespace Sys2Proof.Machine
open Sys2Proof

/-- An event: its effect on the state, with its operands in State.subject. -/
def event (s : State) (g : Subject → State → State) : Outcome := .next (g s.subject s)

/-! ## Size classes and handles (R194, R350) -/

/-- The bytes of a size class, 0 the smallest. -/
def classBytes : Nat → Nat
  | 0 => 2 ^ 16 | 1 => 2 ^ 20 | 2 => 2 ^ 24 | 3 => 2 ^ 28 | _ => 2 ^ 32
/-- The smallest class that holds a size. -/
def classOf (size : Nat) : Nat :=
  if size ≤ 2 ^ 16 then 0 else if size ≤ 2 ^ 20 then 1 else if size ≤ 2 ^ 24 then 2 else if size ≤ 2 ^ 28 then 3 else 4
/-- A handle, by its class and the offset of its buffer in the grant. -/
def handleOf (cls off : Nat) : Nat := 8 * off + cls
def handleClass (h : Nat) : Nat := h % 8
def handleOffset (h : Nat) : Nat := h / 8
/-- The handles of a class from an offset on, and the offset after them. -/
def classHandles (cls n off : Nat) : List Nat × Nat :=
  if n = 0 then ([], off)
  else
    let a := roundUp off (classBytes cls)
    ((List.range n).map fun k => handleOf cls (a + k * classBytes cls), a + n * classBytes cls)
/-- The free lists of a configuration record, smallest class first, and the bytes they span: laid out from the largest
class to the smallest (R349, R350). Its counts stand smallest class first. -/
def PartConfig.handles (c : PartConfig) : List (List Nat) × Nat :=
  [4, 3, 2, 1, 0].foldl (fun q cls =>
    let r := classHandles cls (nth 0 c.counts cls) q.2
    (r.1 :: q.1, r.2)) ([], 0)
/-- The virtual address of a handle (R350). -/
def Partition.handleVa (q : Partition) (h : Nat) : Nat :=
  match q.config with | some c => c.hvbase + handleOffset h | none => handleOffset h

/-- Returns a handle to the tail of its free list. -/
def Partition.freeHandle (q : Partition) (h : Nat) : Partition :=
  { q with free := modifyNth (fun l => if l.contains h then l else l ++ [h]) (handleClass h) q.free }
/-- Takes the handle at the head of a class's free list; a link on it is broken (R194, R323). -/
def Partition.takeHandle (q : Partition) (cls : Nat) : Nat × Partition :=
  match nth [] q.free cls with
  | h :: rest => (h, { q with free := modifyNth (fun _ => rest) cls q.free, links := q.links.filter fun l => l.handle ≠ h })
  | [] => (0, q)

/-! ## Tasks -/

def Partition.task? (q : Partition) (seq : Nat) : Option Task := q.window.find? fun t => t.seq == seq
def State.task? (s : State) (p seq : Nat) : Option Task := (s.part p).task? seq
def State.modTask (s : State) (p seq : Nat) (g : Task → Task) : State :=
  s.modPart p fun q => { q with window := q.window.map fun t => if t.seq = seq then g t else t }
def Task.done (t : Task) : Bool := t.status == .completed
def Task.isFaulted (t : Task) : Bool := match t.status with | .faulted _ _ => true | _ => false
/-- The task faults; a fault it already has stands. -/
def State.faultTask (s : State) (p seq cause detail : Nat) : State :=
  s.modTask p seq fun t => if t.isFaulted || t.done then t else { t with status := .faulted cause detail }
/-- The writes that an engine makes for a task (R267, R268). -/
def Writer.task (p seq : Nat) : Writer := { Writer.engine with p := p, seq := some seq }
/-- The task completes: the writes that engines made for it have entered the single order (R200, R268), and its timeline counter is raised to its
sequence number (R306). -/
def State.completeTask (s : State) (p seq : Nat) : State :=
  match s.task? p seq with
  | some t =>
    if t.isFaulted || t.done then s
    else
      let s := s.modTask p seq fun t => { t with status := .completed }
      (if t.tlc = 0 then s else s.raise p t.tlc (BitVec.ofNat 64 seq)).enterTask p seq
  | none => s

/-! ## Regions (R187, R199) -/

/-- Bytes of a hull, and bytes of the rows. -/
def Region.hullBytes (r : Region) : Nat := (r.rows - 1) * r.pitch + r.rowbytes
def Region.bytes (r : Region) : Nat := r.rows * r.rowbytes
/-- The address of byte 0. -/
def Region.start (r : Region) : Nat := r.base + r.offset
def Region.writes (r : Region) : Bool := r.mode ≠ 1
/-- Whether a slot names a buffer of a size whole (R195). -/
def Region.whole (r : Region) (size : Nat) : Bool :=
  r.offset = 0 && r.hullBytes = size && (r.rows = 1 || r.pitch = r.rowbytes)
/-- Whether two regions of different tasks conflict (R199). -/
def Region.conflicts (a b : Region) : Bool :=
  (a.writes || b.writes) && a.kind == b.kind &&
    (if a.kind = 1 then a.handle == b.handle else a.target == b.target && (a.target ≠ 2 || a.peer == b.peer)) &&
    decide (a.start < b.start + b.hullBytes) && decide (b.start < a.start + a.hullBytes)
def Task.conflicts (a b : Task) : Bool :=
  a.regions.any fun x => b.regions.any fun y => match x, y with | some x, some y => x.conflicts y | _, _ => false
/-- Whether a task is bound to a version, or copies from it (R197). -/
def Task.binds (t : Task) (h : Nat) : Bool :=
  (t.regions.any fun r => match r with | some r => r.kind == 1 && r.handle == h | none => false) ||
    t.news.any fun v => v.handle == h || (v.copy && v.prev == some h)
/-- A fixed writer (R200). -/
def Task.fixedWriter (t : Task) : Bool :=
  t.regions.any fun r => match r with | some r => r.writes && (r.inplace || r.kind == 2) | none => false

/-! ## Spaces (R188) -/

/-- Reads bytes of a space: 0 the partition's virtual space, 1 the host, 2 a peer's virtual space. -/
def State.spaceRead (s : State) (p target peer a n : Nat) : EngineRes (List Byte) :=
  match target with
  | 0 => (match s.readVa p none a n with | .ok r => .ok r.1 | .absent va => .absent va | .err c => .err c)
  | 1 => .ok (cellsRead s.hostMem a n)
  | _ => if s.device.joined then .ok (cellsRead s.peerSpace (peer * 2 ^ 56 + a) n) else .err 0x03
/-- What such a read leaves (R225, R374). -/
def State.spaceServed (s : State) (p target a n : Nat) : State :=
  match target with
  | 0 => s.served p a n
  | 1 => s.request (p + 1) a n .read
  | _ => s
/-- Writes bytes of a space. -/
def State.spaceWrite (s : State) (by_ : Writer) (p target peer a : Nat) (bs : List Byte) : State × EngineRes Unit :=
  match target with
  | 0 => (match s.writeVa p none a bs by_ with
      | (s, .ok _) => (s, .ok ()) | (s, .absent va) => (s, .absent va) | (s, .err c) => (s, .err c))
  | 1 => ((s.request (p + 1) a bs.length .write).hostPut a bs, .ok ())
  | _ => if s.device.joined then ({ s with peerSpace := cellsWrite s.peerSpace (peer * 2 ^ 56 + a) bs }, .ok ()) else (s, .err 0x03)

/-! ## Task records (R185-R188) -/

/-- A task record: its header and its six slots. -/
structure Rec where
  op : Nat
  flags : Nat
  tlc : Nat
  arg : Nat
  ptr : Nat
  slots : List Nat
  /-- the record's bytes -/
  raw : List Byte := []
  deriving DecidableEq, Repr
def parseRec (bs : List Byte) : Rec :=
  { raw := bs, op := field bs 0 1, flags := field bs 1 1, tlc := field bs 2 2, arg := field bs 4 4, ptr := field bs 8 8
    slots := (List.range 6).map fun k => field bs (16 + 16 * k) 16 }

/-- The task fault cause of a failed read of the window (R203, R408): none while it succeeds. -/
def readCause {α : Type} : EngineRes α → Option Nat
  | .ok _ => none
  | .err 0x07 => some 0x0C
  | _ => some 0x0B

/-- The address of the record at an index of the stream ring, and the record (R181): as memory holds it when it is decoded, so that a record
written after the SQWRITE that covers it is read with its newest bytes (log 98). -/
def Partition.recordVa (q : Partition) (i : Nat) : Nat := q.sq.base.toNat + 128 * (i % 2 ^ q.sq.log2)
def State.recordAt (s : State) (p i : Nat) : EngineRes (List Byte × Bool) := s.readVa p none ((s.part p).recordVa i) 128

/-- An operand that holds an address. -/
def badPtr (ptr align : Nat) : Bool := decide (2 ^ 56 ≤ ptr) || ptr % align ≠ 0
/-- Whether the header of a record is illegal (R186, R321, R386, R201). -/
def Rec.headerBad (r : Rec) (seq : Nat) : Bool :=
  let tl := if 3 ≤ r.op && r.op ≤ 7 then decide (1024 ≤ r.tlc) else r.tlc ≠ 0
  let rest : Bool := match r.op with
    | 0x01 => 1 < r.flags || r.arg ≠ 0 || badPtr r.ptr 64
    | 0x02 => 1 < r.flags || badPtr r.ptr 64
    | 0x03 => r.flags ≠ 0 || r.arg ≠ 0 || r.ptr ≠ 0
    | 0x04 => 64 ≤ r.flags || 24 < r.flags % 32 || 10 < bitsOf r.arg 27 24 || badPtr r.ptr 64
    | 0x05 | 0x06 => r.flags ≠ 0 || 4096 ≤ r.arg || r.ptr ≠ 0
    | 0x07 =>
      if r.flags % 4 = 0 then 8 ≤ r.flags || 2 ^ 23 ≤ r.arg || badPtr r.ptr 32
      else r.flags % 4 = 3 || 4 ≤ r.flags || 64 ≤ r.arg || r.ptr ≠ 0
    | 0x08 => r.flags ≠ 0 || 1024 ≤ r.arg || (r.arg = 0 && decide (seq ≤ r.ptr))
    | 0x09 => 1 < r.flags || 1024 ≤ r.arg || r.arg = 0
    | 0x0A => 1 < r.flags || 256 ≤ r.arg || r.ptr = 0 || 2 ^ 32 < r.ptr
    | 0x0B => r.flags ≠ 0 || 256 ≤ r.arg || r.ptr ≠ 0
    | 0x0C | 0x0E => r.flags ≠ 0 || r.arg ≠ 0 || r.ptr ≠ 0
    | 0x0D => r.flags ≠ 0 || r.ptr ≠ 0
    | 0x0F => r.flags ≠ 0 || badPtr r.ptr 16
    | _ => true
  tl || rest

/-- A slot as it stands in the record, before it is bound. -/
def parseSlot (x : Nat) : Region :=
  { kind := x % 4, mode := bitsOf x 3 2, buf := bitsOf x 11 4, inplace := bitAt x 12, offset := bitsOf x 55 16
    rowbytes := bitsOf x 75 56, rows := bitsOf x 95 76, pitch := bitsOf x 127 96, handle := 0, base := 0, target := 0, peer := 0 }
/-- Whether a slot breaks R187. -/
def slotBad (x : Nat) : Bool :=
  let r := parseSlot x
  if r.kind = 0 then x ≠ 0
  else r.kind = 3 || r.mode = 0 || bitsOf x 15 13 ≠ 0 || r.rowbytes = 0 || r.rows = 0 || (1 < r.rows && r.pitch < r.rowbytes)

/-- What the checks of a slot give: the slot with its fixed base, or a task fault cause (R187, R188, R194, R407). -/
def State.checkSlot (s : State) (p : Nat) (takes : Bool) (x : Nat) : Except Nat (Option Region) :=
  let q := s.part p
  let r := parseSlot x
  let entry := s.readVa p none (q.sq.space.toNat + 16 * r.buf) 16
  if r.kind = 2 && (readCause entry).isSome then .error ((readCause entry).getD 0x0B)
  else if slotBad x || (r.kind ≠ 0 && !takes) then .error 0x02
  else if r.kind = 0 then .ok none
  else if r.kind = 2 then
    match entry with
    | .ok (bs, _) =>
      let e := field bs 0 16
      let len := bitsOf e 103 64
      if len = 0 || bitsOf e 105 104 = 3 || bitsOf e 127 115 ≠ 0 then .error 0x02
      else if len < r.offset + r.hullBytes then .error 0x04
      else .ok (some { r with base := bitsOf e 63 0, target := bitsOf e 105 104, peer := bitsOf e 114 106 })
    | _ => .error 0x0B
  else match nth none q.buffers r.buf with
    | none => .error 0x03
    | some b => if b.size < r.offset + r.hullBytes then .error 0x04 else .ok (some r)
/-- The checks of the slots, in ascending order (R407). -/
def State.checkSlots (s : State) (p : Nat) (takes : Bool) : List Nat → Except Nat (List (Option Region))
  | [] => .ok []
  | x :: xs =>
    match s.checkSlot p takes x with
    | .error c => .error c
    | .ok r => (match s.checkSlots p takes xs with | .error c => .error c | .ok rs => .ok (r :: rs))

/-- A launch descriptor (R189), and its cause of fault. -/
def parseLaunch (bs : List Byte) (pool lattice debug : Bool) (number : Nat) (image : Nat) : Launch × Option Nat :=
  let n (off k : Nat) : Nat := field bs off k
  let shape := n 19 1
  let mode := n 18 1
  let e := n 12 6
  let cap := n 12 4
  let l : Launch := {
    code := n 0 8, codelen := n 8 4, contract := mode % 16, param := BitVec.ofNat 64 image, params := n 32 8, paramLen := n 40 4, lseed := BitVec.ofNat 32 (n 44 4)
    lattice := lattice, stride := BitVec.ofNat 32 (n 48 4), limit := n 52 4, fair := n 28 2, progress := bitAt mode 4
    scratch := n 24 4, tags := n 22 2, acc := n 21 1, wg := n 20 1, m := shape % 8 + 1, s := shape / 8 % 8 + 1
    nx := if pool then 1 else e % 65536 + 1, ny := if pool then 1 else e / 65536 % 65536 + 1
    nz := if pool then 1 else e / 2 ^ 32 + 1
    pool := if pool then some number else none, poolN := mode / 32, capacity := cap
    flush := if n 16 2 = 0 then 2048 else n 16 2, area := n 56 8, debug := debug }
  let paramlen := n 40 4
  let badField :=
    decide (2 ^ 23 < l.nx * l.ny * l.nz * (l.m * l.s)) || decide (8 < l.m * l.s) || 64 ≤ shape ||
    decide (393216 < l.scratch) || l.scratch % 16 ≠ 0 || decide (256 < l.tags) || decide (8 < l.acc) || l.wg = 0 || decide (32 < l.wg) ||
    decide (l.fair < 64) || n 30 2 ≠ 0 || decide (4048 < paramlen) || (paramlen = 0 && n 32 8 ≠ 0) ||
    l.code % 256 ≠ 0 || l.codelen % 3 ≠ 0 || decide (0xFFFFFF < l.codelen) ||
    (if pool then l.wg ≠ 1 || shape ≠ 0 || decide (6 < l.poolN) || decide (cap < 32) || decide (2 ^ 24 < cap) || l.area % 32 ≠ 0
     else l.poolN ≠ 0 || l.area ≠ 0)
  (l, if !contractPresent l.contract then some 0x06 else if badField then some 0x07 else none)

/-! ## Decoding (R193-R198, R202) -/

/-- What the renaming slots of a record ask for, in slot order: each buffer once, and whether all of its slots are covering
writes. -/
def renames (q : Partition) (slots : List (Option Region)) : List (Nat × Bool) :=
  slots.foldl (fun acc x => match x with
    | some r =>
      if r.kind = 1 && r.writes && !r.inplace then
        let size := match nth none q.buffers r.buf with | some b => b.size | none => 0
        let cover := r.mode = 2 && r.whole size
        if acc.any fun y => y.1 == r.buf then acc.map fun y => if y.1 = r.buf then (r.buf, cover && y.2) else y
        else acc ++ [(r.buf, cover)]
      else acc
    | none => acc) []

/-- The recall link that a RECALL can take as its shortcut (R324, R370), if it stands when the RECALL is decoded (log 109). -/
def shortcutOf (q : Partition) (r : Rec) (slots : List (Option Region)) : Option RecallLink :=
  if r.op ≠ 0x06 then none
  else match nth none slots 0, nth none slots 1 with
    | some a, some b =>
      q.links.find? fun l =>
        l.entry == r.arg && l.region.buf == a.buf && l.region.offset == a.offset && l.region.rowbytes == a.rowbytes &&
        l.region.rows == a.rows && l.region.pitch == a.pitch && l.region.kind == a.kind &&
        (match nth none q.buffers b.buf with | some c => c.size == l.size | none => false)
    | _, _ => none

/-- The checks that R321, R322 and R386 add for the engine tasks and COLL: a cause of fault. A RECALL whose fixed region and buffer differ in bytes
is refused as a COPY or an OFFLOAD is (log 102); a CREATE's region must hold a descriptor with one member, and more when it is read. -/
def lateCheck (q : Partition) (r : Rec) (slots : List (Option Region)) : Option Nat :=
  let slot (k : Nat) : Option Region := nth none slots k
  let unused (k : Nat) : Bool := (slots.drop k).all Option.isNone
  let is (k : Nat) (f : Region → Bool) : Bool := match slot k with | some r => f r | none => false
  let sizeOf (k : Nat) : Nat := match slot k with | some r => (match nth none q.buffers r.buf with | some b => b.size | none => 0) | none => 0
  let bytesOf (k : Nat) : Nat := match slot k with | some r => r.bytes | none => 0
  let bad (ok : Bool) : Option Nat := if ok then none else some 0x02
  match r.op with
  | 0x03 => bad (is 0 (·.mode == 1) && is 1 Region.writes && bytesOf 0 == bytesOf 1 && unused 2)
  | 0x04 =>
    let index := bitsOf r.arg 27 24 = 7 || bitsOf r.arg 27 24 = 8
    match bad (is 0 (·.mode == 1) && is 1 Region.writes && (if index then is 2 (·.mode == 1) && unused 3 else unused 2)) with
    | some c => some c
    | none => if contractPresent (bitsOf r.arg 31 28) then none else some 0x06
  | 0x05 =>
    bad (is 0 (fun x => x.mode == 1 && x.kind == 1 && x.whole (sizeOf 0)) && is 1 (fun x => x.mode == 2 && x.kind == 2) &&
      bytesOf 0 == bytesOf 1 && unused 2)
  | 0x06 =>
    bad (is 0 (fun x => x.mode == 1 && x.kind == 2) &&
      is 1 (fun x => x.mode == 2 && x.kind == 1 && !x.inplace && x.whole (sizeOf 1)) && bytesOf 0 == bytesOf 1 && unused 2)
  | 0x07 =>
    (match r.flags % 4 with
      | 0 => bad (slots.all fun x => match x with | some x => x.kind == 1 || x.target == 0 | none => true)
      | 1 =>
        let at64 (x : Region) : Bool := (if x.kind = 1 then x.offset else x.start) % 64 == 0
        bad (is 0 (fun x => x.mode == 3 && (x.kind == 1 || x.target == 0) && decide (68 ≤ x.hullBytes) && at64 x) && unused 1)
      | _ => bad (unused 0))
  | _ => none

/-- A task with nothing in it but its record and the decoder's state before it. -/
def Task.start (q : Partition) (r : Rec) : Task where
  raw := r.raw
  seq := q.nextSeq
  index := q.sq.read.toNat
  op := r.op
  flags := r.flags
  arg := r.arg
  ptr := r.ptr
  tlc := r.tlc
  regions := []
  news := []
  before := q.buffers
  repeats := q.repeats
  skipping := q.skipping
  epoch := q.epoch
  superseded := []
  status := .decoded
  readyAt := none
  launch := none
  debug := q.sched.debug
  placed := 0
  ticked := 0
  ticking := false
  moved := 0
  ended := none
  fault := none
  shortcut := none

/-- The lowest index that the decoder may still read (R183). -/
def Partition.freeIndex (q : Partition) : Word := match q.repeats with | (i, _) :: _ => i | [] => q.sq.read
/-- The decoder goes on to the next record. -/
def Partition.advance (q : Partition) : Partition :=
  { q with sq := { q.sq with read := q.sq.read + 1 } }
/-- A task takes a window entry and the next sequence number (R193). -/
def Partition.enter (q : Partition) (t : Task) : Partition :=
  ({ q with window := q.window ++ [t], nextSeq := q.nextSeq + 1 }).advance
/-- A record that faults at decode takes an entry and a number (R407, R408). -/
def Partition.enterFaulted (q : Partition) (r : Rec) (cause : Nat) : Partition :=
  q.enter { Task.start q r with status := .faulted cause 0 }

/-- Takes a version for a renaming slot's buffer, and binds the buffer to it (R195). -/
def takeVersion (size : Nat) (copy zero : Bool) (q : Partition × Task) (buf : Nat) : Partition × Task :=
  let old := nth none q.1.buffers buf
  let (h, q') := q.1.takeHandle (classOf size)
  ({ q' with buffers := modifyNth (fun _ => some ⟨size, h⟩) buf q'.buffers },
   { q.2 with
     news := q.2.news ++ [{ buf := buf, handle := h, size := size, prev := old.map Binding.handle, copy := copy && old.isSome, zero := zero }]
     superseded := match old with | some b => q.2.superseded ++ [b.handle] | none => q.2.superseded })

/-- The slots bound to their versions: a renaming slot to the new one, any other to the one before (R195, R196). -/
def bindSlots (q : Partition) (t : Task) (slots : List (Option Region)) : List (Option Region) :=
  slots.map fun x => x.map fun r =>
    if r.kind = 2 then r
    else
      let before := match nth none t.before r.buf with | some b => b.handle | none => 0
      let h := if r.writes && !r.inplace then (match t.news.find? fun v => v.buf == r.buf with | some v => v.handle | none => before) else before
      { r with handle := h, base := q.handleVa h }

/-- Links broken by a task's regions (R323): a RECALL's own slot 0 does not break its entry's (R370). -/
def Partition.breakLinks (q : Partition) (t : Task) : Partition :=
  { q with links := q.links.filter fun l =>
      !((if t.op = 0x06 && l.entry = t.arg then t.regions.drop 1 else t.regions).any fun x =>
        match x with | some r => r.conflicts { l.region with mode := 2 } | none => false) }

/-- Binds and enters a legal task record (R193-R198, R323, R324). A RECALL by the shortcut breaks its link when it issues. -/
def Partition.bindTask (q : Partition) (r : Rec) (slots : List (Option Region)) (launch : Option Launch) : Partition :=
  let t := { Task.start q r with launch := launch }
  match r.op with
  | 0x0A =>
    let (q, t) := takeVersion r.ptr false (r.flags == 1) (q, t) r.arg
    let h := match t.news with | v :: _ => v.handle | [] => 0
    q.enter { t with regions := [some { kind := 1, mode := 2, buf := r.arg, offset := 0, rowbytes := r.ptr, rows := 1, pitch := 0
                                        inplace := false, handle := h, base := q.handleVa h, target := 0, peer := 0 }] }
  | 0x0B =>
    let old := nth none q.buffers r.arg
    ({ q with buffers := modifyNth (fun _ => none) r.arg q.buffers }).enter
      { t with superseded := match old with | some b => [b.handle] | none => [] }
  | 0x0F => ({ q with epoch := BitVec.ofNat 32 r.arg }).enter t
  | _ =>
    match shortcutOf q r slots, nth none slots 1 with
    | some l, some dst =>
      let old := nth none q.buffers dst.buf
      let q := { q with
        free := modifyNth (fun fs => fs.filter (· ≠ l.handle)) (handleClass l.handle) q.free
        leaving := q.leaving.filter (· ≠ l.handle)
        window := q.window.map fun u => { u with superseded := u.superseded.filter (· ≠ l.handle) }
        buffers := modifyNth (fun _ => some ⟨l.size, l.handle⟩) dst.buf q.buffers }
      let t := { t with
        news := [{ buf := dst.buf, handle := l.handle, size := l.size, prev := old.map Binding.handle, copy := false, zero := false }]
        superseded := match old with | some b => if b.handle = l.handle then [] else [b.handle] | none => []
        shortcut := some l.task }
      let t := { t with regions := bindSlots q t slots }
      (q.breakLinks t).enter t
    | _, _ =>
      let (q, t) := (renames q slots).foldl (fun x n =>
        let size := match nth none x.1.buffers n.1 with | some b => b.size | none => 0
        takeVersion size (!n.2) false x n.1) (q, t)
      let t := { t with regions := bindSlots q t slots }
      let q := q.breakLinks t
      let q := if r.op = 0x05 then
          (match nth none t.regions 0, nth none t.regions 1 with
            | some a, some b => { q with links := (q.links.filter fun l => l.entry ≠ r.arg) ++
                [{ entry := r.arg, handle := a.handle, size := a.bytes, region := b, task := t.seq }] }
            | _, _ => q)
        else q
      let q := match launch with
        | some l => (match l.pool with
            | some n => { q with pools := q.pools ++ [({ number := n, seq := t.seq, records := [], formed := 0 } : Pool)] }
            | none => q)
        | none => q
      q.enter t

/-- Handles of each class that a record needs. -/
def needs (q : Partition) (r : Rec) (slots : List (Option Region)) (cls : Nat) : Nat :=
  if r.op = 0x0A then (if classOf r.ptr = cls then 1 else 0)
  else if (shortcutOf q r slots).isSome then 0
  else ((renames q slots).filter fun n => match nth none q.buffers n.1 with | some b => classOf b.size == cls | none => false).length

/-- The decoder's records (R202): they act on the decoder alone. -/
def Partition.decodeRepeat (q : Partition) (r : Rec) : Partition :=
  if 4 ≤ q.repeats.length then q.enterFaulted r 0x08
  else if r.arg = 0 then ({ q with skipping := 1 }).advance
  else ({ q with repeats := q.repeats ++ [(q.sq.read, r.arg - 1)] }).advance
def Partition.decodeEndrep (q : Partition) (r : Rec) : Partition :=
  match q.repeats.getLast? with
  | none => q.enterFaulted r 0x08
  | some (i, left) =>
    if left = 0 then ({ q with repeats := q.repeats.dropLast }).advance
    else
      let q := ({ q with repeats := q.repeats.dropLast ++ [(i, left - 1)] }).advance
      { q with sq := { q.sq with read := i + 1 } }

/-- Whether the decoder may read a record (R181, R193, R204): it waits while a task of the window is faulted. -/
def Partition.mayDecode (q : Partition) : Bool :=
  q.sq.enable && !q.sq.faulted && decide (0 < (q.sq.write - q.sq.read).toInt) && !(q.window.any Task.isFaulted)

/-- Whether the window's entries are at the partition's quota (R193). -/
def Partition.full (q : Partition) : Bool := q.sq.quota ≤ q.window.length
/-- A code that stands for the OP of a record that cannot be read. -/
def unreadable : Nat := 256
/-- The OP and FLAGS of the next record, if the decoder may read it. -/
def State.nextOp (s : State) (p : Nat) : Option (Nat × Nat) :=
  if !(s.part p).mayDecode then none
  else match s.recordAt p (s.part p).sq.read.toNat with
    | .ok (bs, _) => some (field bs 0 1, field bs 1 1)
    | _ => some (unreadable, 0)

/-- What decoding a record comes to: a fault, an act of the decoder alone, a wait for a handle, or a task with its slots and launch. -/
inductive Decoded where
  | fault (cause : Nat)
  | repeat_
  | endrep
  | stall
  | task (slots : List (Option Region)) (launch : Option Launch)
  deriving DecidableEq, Repr
/-- The checks of a record up to its handles (R407): its slots, or a task fault cause. -/
def State.judgeSlots (s : State) (p : Nat) (r : Rec) : Except Nat (List (Option Region)) :=
  let q := s.part p
  let livePool := r.op = 0x02 &&
    q.pools.any fun x => x.number == bitsOf r.arg 11 0 && q.window.any fun t => t.seq == x.seq && !t.done
  if r.headerBad q.nextSeq || livePool then .error 0x01
  else match s.checkSlots p (1 ≤ r.op && r.op ≤ 7) r.slots with
    | .error c => .error c
    | .ok slots =>
      if r.op = 0x0B && (nth none q.buffers r.arg).isNone then .error 0x03
      else if (List.range 5).any fun c => decide (nth 0 q.totals c < needs q r slots c) then .error 0x05
      else .ok slots
/-- What decoding a record that was read comes to (R407). -/
def State.judge (s : State) (p : Nat) (r : Rec) : Decoded :=
  let q := s.part p
  match s.judgeSlots p r with
    | .error c => .fault c
    | .ok slots =>
      if r.op = 0x0D then .repeat_
      else if r.op = 0x0E then .endrep
      else
        let launch : Except Nat (Option Launch) :=
          if r.op = 0x01 || r.op = 0x02 then
            match s.readVa p none r.ptr 64 with
            | .ok (bs, _) =>
              let l := parseLaunch bs (r.op == 2) (bitAt r.flags 0) q.sched.debug (bitsOf r.arg 11 0) (q.sq.img.toNat + 4096 * (q.nextSeq % 1024))
              (match l.2 with | some c => .error c | none => .ok (some l.1))
            | x => .error ((readCause x).getD 0x0B)
          else .ok none
        match launch with
        | .error c => .fault c
        | .ok l =>
          match lateCheck q r slots with
          | some c => .fault c
          | none => if (List.range 5).any fun c => decide ((nth [] q.free c).length < needs q r slots c) then .stall else .task slots l
/-- The entries of the space table that the checks of slots read, up to the first slot that fails. -/
def State.spaceReads (s : State) (p : Nat) (takes : Bool) : List Nat → List Nat
  | [] => []
  | x :: xs =>
    (if (parseSlot x).kind = 2 then [(parseSlot x).buf] else []) ++
      match s.checkSlot p takes x with | .error _ => [] | .ok _ => s.spaceReads p takes xs
/-- What the reads of decoding leave beside their data (R221, R225): of the space table, and of a launch descriptor. -/
def State.noteDecode (s : State) (p : Nat) (r : Rec) : State :=
  let space := (s.part p).sq.space.toNat
  let t := if r.headerBad (s.part p).nextSeq then s
    else (s.spaceReads p (1 ≤ r.op && r.op ≤ 7) r.slots).foldl (fun s k => s.served p (space + 16 * k) 16) s
  match s.judgeSlots p r with
  | .ok _ => if r.op = 0x01 || r.op = 0x02 then t.served p r.ptr 64 else t
  | .error _ => t
/-- Decodes a record that was read. -/
def State.decodeRecord (s : State) (p : Nat) (r : Rec) : State :=
  let j := s.judge p r
  let s := s.noteDecode p r
  match j with
  | .fault c => s.modPart p fun q => q.enterFaulted r c
  | .repeat_ => s.modPart p fun q => q.decodeRepeat r
  | .endrep => s.modPart p fun q => q.decodeEndrep r
  | .stall => s
  | .task slots l => s.modPart p fun q => q.bindTask r slots l

/-- A blank record, for one that could not be read. -/
def Rec.blank : Rec := { op := 0, flags := 0, tlc := 0, arg := 0, ptr := 0, slots := [] }

/-- Decodes the next record of a partition, if its OP and FLAGS are wanted (R193): a full window quota stalls it. -/
def State.decodeNext (s : State) (p : Nat) (want : Nat → Nat → Bool) : State :=
  let q := s.part p
  if !q.mayDecode then s
  else match s.recordAt p q.sq.read.toNat with
    | .ok (bs, _) =>
      let r := parseRec bs
      let t := s.served p (q.recordVa q.sq.read.toNat) 128
      if !want r.op r.flags then s
      else if 0 < q.skipping then
        t.modPart p fun q =>
          ({ q with skipping := if r.op = 0x0D then q.skipping + 1 else if r.op = 0x0E then q.skipping - 1 else q.skipping }).advance
      else if q.full then s
      else t.decodeRecord p r
    | x =>
      if !want unreadable 0 then s
      else if q.full then s
      else (s.served p (q.recordVa q.sq.read.toNat) 128).modPart p fun q => q.enterFaulted Rec.blank ((readCause x).getD 0x0B)
/-- STALLFULL: decode waits on a full window quota (R182, R193). -/
def Partition.stallsFull (q : Partition) : Bool := q.mayDecode && q.skipping == 0 && q.full
/-- STALLFREE: decode waits on an empty free list (R182, R193). -/
def State.stallsFree (s : State) (p : Nat) : Bool :=
  let q := s.part p
  q.mayDecode && q.skipping == 0 && !q.full &&
    (match s.recordAt p q.sq.read.toNat with | .ok (bs, _) => s.judge p (parseRec bs) == .stall | _ => false)
/-- Decodes the next record if its OP is one. -/
def State.decodeOp (s : State) (p op : Nat) : State := s.decodeNext p fun o _ => o == op

end Sys2Proof.Machine
end

