-- ==== Sys2Proof/Machine/Coll.lean ====
section
/-! DEFINITION. Collectives: communicators, programs, peers, reductions, wire compression and aborts (19_collectives.md
R386-R405; 03 R90). -/
namespace Sys2Proof.Machine
open Sys2Proof

/-! ## Elements and reductions (R90, R391, R399, R400) -/

/-- The format of a DTYPE; none for S32. -/
def dtypeFmt : Nat → Option Fmt
  | 0 => some .bf16 | 1 => some .fp16 | 8 => some .fp32 | _ => none
/-- The bytes of an element of a DTYPE. -/
def dtypeBytes : Nat → Nat
  | 0 | 1 => 2 | _ => 4
/-- The elements of a byte list. -/
def elemsOf (n : Nat) (bs : List Byte) : List Nat := (pieces n bs.length bs).map ofBytes

/-- An S32 reduction: the wrapping sum, or the signed minimum or maximum. -/
def reduceS32 (rop : Nat) (a b : Nat) : Nat :=
  let x : Word := BitVec.ofNat 32 a
  let y : Word := BitVec.ofNat 32 b
  (match rop with
    | 0 => x + y
    | 1 => if x.slt y then x else y
    | _ => if y.slt x then x else y).toNat
/-- The reduction of terms in member order by a grouping (R90); a lone term is read and given back under the contract. Under contract 0 the
additions of contract 8's grouping are made in any order and by any tree (R80): `loose` is then the count of free values taken. -/
def reduceTerms (c : Contract) (grp : Grouping) (loose : Option Nat) (dtype rop : Nat) (ts : List Nat) : Nat :=
  match dtypeFmt dtype, ts with
  | _, [] => 0
  | none, t :: rest => rest.foldl (reduceS32 rop) t
  | some f, t :: rest =>
    let vs := ts.map (decode f)
    let first := flushIn c f (decode f t)
    let others := rest.map (decode f)
    match rop with
    | 1 => encode f (others.foldl (fmin c f) first)
    | 2 => encode f (others.foldl (fmax c f) first)
    | _ =>
      match grp with
      | .seqD => encode f (others.foldl (fun a b => (fadd c f a b).v) first)
      | .ptD => (match pairTree (fun a b => (fadd c f a b).v) vs.length (vs.map (flushIn c f)) with | v :: _ => encode f v | [] => 0)
      | .ptF =>
        let add (a b : Val) : Val := (fadd c .fp32 a b).v
        let vs := vs.map (flushIn c f)
        (match (match loose with | some seed => looseMerge add (Config.loosePick seed) (vs.length - 1) vs | none => pairTree add vs.length vs) with
          | v :: _ => encode f (roundVal c f .ne v).v
          | [] => 0)
/-- The reduction of byte lists, element by element. -/
def reduceBytes (c : Contract) (grp : Grouping) (red : Nat) (terms : List (List Byte)) (loose : Option Nat := none) : List Byte :=
  let n := dtypeBytes (red % 16)
  let cols := terms.map (elemsOf n)
  (List.range (match cols with | l :: _ => l.length | [] => 0)).flatMap fun k =>
    leBytes n (reduceTerms c grp (loose.map (· + k)) (red % 16) (bitsOf red 5 4) (cols.map fun l => nth 0 l k))
/-- Whether the grouping of a pooled reduction is free (R80): that of floating-point sums under contract 0. -/
def isLoose (c red n : Nat) : Bool := c == 0 && (dtypeFmt (red % 16)).isSome && bitsOf red 5 4 == 0 && decide (1 < n)

/-! ## Wire compression (R402) -/

/-- The exponent E of a chunk, from its blocks. -/
def chunkExponent (blocks : List (List Val)) : Nat :=
  blocks.foldl (fun a b =>
    match amaxOf b with
    | .fin _ m e => if m = 0 then a else max a (min 255 (floorLog2 m 1 e - 2 - 14 + 127).toNat)
    | _ => 255) 0
/-- One block: its delta, the codes, the values sent and the residuals. -/
def compressBlock (c : Contract) (e : Nat) (ys : List Val) : Nat × List Nat × List Val × List Val :=
  let d := (chooseDelta .e2m1 e (amaxOf ys)).1
  let k : Int := (e : Int) - 127 + d
  let codes := ys.map fun y => if d = 15 then 0 else encode .e2m1 (narrow .e2m1 true .ne (y.scale (-k))).v
  let qs := codes.map fun x => if d = 15 then .zero false else (decode .e2m1 x).scale k
  (d, codes, qs, (ys.zip qs).map fun p => (finish c .fp32 (addExact p.1 p.2.neg)).v)
/-- A compressed chunk: what travels, the new residuals, and what the receiver reads. -/
structure Compressed where
  wire : List Byte
  residuals : List Byte
  values : List Byte
  deriving DecidableEq, Repr
/-- Compresses a chunk of elements with their residuals. -/
def compressChunk (c : Contract) (f : Fmt) (n : Nat) (xs es : List Nat) : Compressed :=
  let ys := (xs.zip es).map fun p => (finish c .fp32 (addExact (decode f p.1) (decode .fp32 p.2))).v
  let blocks := pieces 256 ys.length ys
  let e := chunkExponent blocks
  let rs := blocks.map (compressBlock c e)
  let even (l : List Nat) : List Nat := if l.length % 2 = 0 then l else l ++ [0]
  { wire := leBytes 1 e ++ leBytes 1 blocks.length ++ leBytes 6 0 ++ fromNibs (even (rs.map fun r => r.1)) ++
      fromNibs (even (rs.flatMap fun r => r.2.1))
    residuals := rs.flatMap fun r => r.2.2.2.flatMap fun v => leBytes 4 (encode .fp32 v)
    values := rs.flatMap fun r => r.2.2.1.flatMap fun v => leBytes n (encode f (roundVal c f .ne v).v) }
/-- What a receiver reads of a compressed chunk of m elements. -/
def expandChunk (c : Contract) (f : Fmt) (n m : Nat) (wire : List Byte) : List Byte :=
  let e := field wire 0 1
  let blocks := field wire 1 1
  let deltas := toNibs ((wire.drop 8).take ((blocks + 1) / 2))
  let codes := (toNibs (wire.drop (8 + (blocks + 1) / 2))).take m
  codes.zipIdx.flatMap fun p =>
    let d := nth 0 deltas (p.2 / 256)
    let v : Val := if d = 15 then .zero false else (decode .e2m1 p.1).scale ((e : Int) - 127 + d)
    leBytes n (encode f (roundVal c f .ne v).v)

/-! ## Steps (R391, R394) -/

/-- A step as it is laid out. -/
structure Step where
  op : Nat
  src : Nat
  dst : Nat
  peer2 : Nat
  peer : Nat
  len : Nat
  red : Nat
  ctr : Nat
  flags : Nat
  thr : Nat
  reserved : Nat
  deriving DecidableEq, Repr
def parseStep (bs : List Byte) : Step :=
  let n (off k : Nat) : Nat := field bs off k
  { op := n 0 1, src := n 24 8, dst := n 16 8, peer2 := n 14 2, peer := n 12 2, len := n 8 4, red := n 6 1, ctr := n 5 1, flags := n 4 1
    thr := n 2 2, reserved := n 1 1 + n 7 1 }
def Step.pool (t : Step) : Bool := bitAt t.flags 0 && (t.op == 1 || t.op == 2)
def Step.cnt (t : Step) : Bool := bitAt t.flags 2
def Step.comp (t : Step) : Bool := bitAt t.flags 6

/-- The fields a step uses (R394): source, destination, peer, second peer, length, RED, counter, threshold, flag bits. -/
structure Uses where
  src : Bool := false
  dst : Bool := false
  peer : Bool := false
  peer2 : Bool := false
  len : Bool := false
  red : Bool := false
  ctr : Bool := false
  thr : Bool := false
  flags : Nat := 0
  deriving DecidableEq, Repr
/-- The uses of an OP; none for an illegal one. RED is used by a pooled SEND, and by a compressed send for its DTYPE (R402). -/
def Step.uses (t : Step) : Option Uses :=
  match t.op with
  | 0x01 => some { src := true, len := true, peer := !t.pool, red := t.pool || t.comp, flags := 0x7B }
  | 0x02 => some { dst := true, len := true, peer := !t.pool, ctr := true, flags := 0x3F }
  | 0x03 => some { src := true, dst := true, len := true, peer := true, peer2 := true, ctr := true, red := true, flags := 0x7C }
  | 0x04 => some { src := true, dst := true, len := true, ctr := true, flags := 0x3C }
  | 0x05 => some { ctr := true, thr := true }
  | 0x06 => some { src := true, len := true, peer := true, ctr := true, thr := true, red := t.comp, flags := 0x78 }
  | 0x07 => some { len := true }
  | 0x08 => some {}
  | 0x09 => some { peer := true, thr := true }
  | 0x0A => some {}
  | _ => none
/-- Whether a peer spec is legal: NEG and TREE are 0 in modes 0 and 1 (R393). -/
def peerLegal (x : Nat) : Bool := decide (2 ≤ bitsOf x 15 14) || bitsOf x 13 12 == 0
/-- Whether a step is legal (R391, R393, R399). -/
def Step.legal (t : Step) : Bool :=
  match t.uses with
  | none => false
  | some u =>
    t.reserved == 0 && (u.src || t.src == 0) && (u.dst || t.dst == 0) && (u.peer || t.peer == 0) && (u.peer2 || t.peer2 == 0) &&
    (u.len || t.len == 0) && (u.red || t.red == 0) && (u.ctr || t.ctr == 0) && (u.thr || t.thr == 0) &&
    t.flags &&& (255 - u.flags) == 0 && bitsOf t.src 60 40 == 0 && bitsOf t.dst 60 40 == 0 && decide (t.ctr < 8) &&
    (!u.red || ((t.red % 16 == 0 || t.red % 16 == 1 || t.red % 16 == 8 || t.red % 16 == 9) && decide (bitsOf t.red 5 4 ≤ 2) &&
      decide (t.red < 64))) &&
    (t.op != 0x09 || decide (t.thr < 4)) && (!u.peer || peerLegal t.peer) && (!u.peer2 || peerLegal t.peer2) &&
    (!(u.red && (t.op == 0x03 || t.pool)) || t.len % dtypeBytes (t.red % 16) == 0)

/-! ## Peers and loops (R393, R395) -/

/-- Where a program stands: its position, its open loops and its peer registers. -/
structure Walker where
  pos : Nat
  loops : List LoopLevel
  peers : List (Option Nat)
  deriving DecidableEq, Repr

/-- iter(l). -/
def Walker.iter (w : Walker) (l : Nat) : Nat := match w.loops[l]? with | some x => x.iter | none => 0
/-- The virtual peer of a spec, or absent, for a virtual rank among n. -/
def Walker.peer (w : Walker) (n vr x : Nat) : Option Nat :=
  let val := bitsOf x 8 0
  let v := val + (if bitAt x 11 then w.iter (bitsOf x 10 9) else 0)
  match bitsOf x 15 14 with
  | 3 => nth none w.peers (val % 4)
  | 0 => some ((vr + v) % n)
  | 1 => if vr ^^^ v < n then some (vr ^^^ v) else none
  | _ =>
    if bitAt x 13 then
      if vr < 2 ^ v || (bitAt x 12 && decide (2 ^ (v + 1) ≤ vr)) then none else some (vr - 2 ^ v)
    else if n ≤ vr + 2 ^ v || (bitAt x 12 && decide (2 ^ v ≤ vr)) then none else some (vr + 2 ^ v)
/-- The step after the ENDL that matches a LOOP whose body starts at a position. -/
def afterEndl (steps : List (List Byte)) : Nat → Nat → Nat → Nat
  | 0, _, pos => pos
  | fuel + 1, depth, pos =>
    match steps[pos]? with
    | none => pos
    | some b =>
      match field b 0 1 with
      | 0x07 => afterEndl steps fuel (depth + 1) (pos + 1)
      | 0x08 => if depth = 0 then pos + 1 else afterEndl steps fuel (depth - 1) (pos + 1)
      | _ => afterEndl steps fuel depth (pos + 1)
/-- LOOP, ENDL and PEER: none when the nesting is broken. -/
def Walker.control (w : Walker) (steps : List (List Byte)) (n vr : Nat) (t : Step) : Option Walker :=
  match t.op with
  | 0x07 =>
    if 4 ≤ w.loops.length then none
    else if t.len = 0 then some { w with pos := afterEndl steps steps.length 0 (w.pos + 1) }
    else some { w with pos := w.pos + 1, loops := w.loops ++ [⟨w.pos + 1, t.len, 0⟩] }
  | 0x08 =>
    match w.loops.getLast? with
    | none => none
    | some l =>
      if l.iter + 1 < l.count then some { w with pos := l.start, loops := w.loops.dropLast ++ [{ l with iter := l.iter + 1 }] }
      else some { w with pos := w.pos + 1, loops := w.loops.dropLast }
  | 0x09 => some { w with pos := w.pos + 1, peers := modifyNth (fun _ => w.peer n vr t.peer) t.thr w.peers }
  | _ => some { w with pos := w.pos + 1 }
/-- The byte offset of a local field, with what ADV adds (R392). -/
def Walker.offset (w : Walker) (t : Step) (x : Nat) : Nat :=
  x % 2 ^ 40 + (if bitAt t.flags 3 then t.len * w.iter (bitsOf t.flags 5 4) else 0)

/-! ## Communicators and runs -/

def Communicator.size (c : Communicator) : Nat := c.ranks.length
def State.comm? (s : State) (p k : Nat) : Option Communicator := (s.part p).comms.find? fun c => c.id == k
def State.modComm (s : State) (p k : Nat) (g : Communicator → Communicator) : State :=
  s.modPart p fun q => { q with comms := q.comms.map fun c => if c.id = k then g c else c }
def State.run? (s : State) (p k : Nat) : Option CollRun := (s.part p).colls.find? fun r => r.comm == k
def State.modRun (s : State) (p k : Nat) (g : CollRun → CollRun) : State :=
  s.modPart p fun q => { q with colls := q.colls.map fun r => if r.comm = k then g r else r }
/-- The run makes progress. -/
def State.progress (s : State) (p k : Nat) : State := s.modRun p k fun r => { r with since := s.cycle }
def CollRun.walker (r : CollRun) : Walker := ⟨r.pos, r.loops, r.peers⟩
def CollRun.at_ (r : CollRun) (w : Walker) : CollRun := { r with pos := w.pos, loops := w.loops, peers := w.peers }
/-- The member's virtual rank (R390). -/
def CollRun.vr (r : CollRun) (c : Communicator) : Nat := (c.own + (c.size - r.root)) % c.size
/-- The member that a peer spec names. -/
def CollRun.member (r : CollRun) (c : Communicator) (x : Nat) : Option Nat :=
  (r.walker.peer c.size (r.vr c) x).map fun vp => (vp + r.root) % c.size

/-- The region of a slot of a run's task that a local access may use (R392): none when it is no slot, or its mode is wrong. -/
def State.collRegion (s : State) (p seq k : Nat) (wr : Bool) : Option Region :=
  match s.task? p seq with
  | some t =>
    (match nth none t.regions k with
      | some r => if (if wr then r.mode ≠ 1 else r.mode ≠ 2) then some r else none
      | none => none)
  | none => none
/-- Whether n bytes from an offset lie within the row bytes of a region (R187, R392). -/
def Region.holds (r : Region) (off n : Nat) : Bool :=
  n = 0 || (if r.rows ≤ 1 || r.pitch = r.rowbytes then decide (off + n ≤ r.bytes)
    else decide (off / r.pitch < r.rows) && decide (off % r.pitch + n ≤ r.rowbytes))
/-- A local range of a step; none aborts with REGION. -/
def State.localRange (s : State) (p : Nat) (r : CollRun) (t : Step) (x : Nat) (wr : Bool) : Option LocalRange :=
  let off := r.walker.offset t x
  match s.collRegion p r.seq (bitsOf x 63 61) wr with
  | some g => if g.holds off t.len then some ⟨bitsOf x 63 61, off, g.start + off⟩ else none
  | none => none

/-- Whether an access by a partition stops at a page of a peer that refuses it (R380, R404). -/
def State.stopsAtPeer (s : State) (p : Nat) (wr : Bool) : Nat → Nat → Nat → Bool
  | 0, _, _ => false
  | fuel + 1, va, n =>
    if n = 0 then false
    else match s.translate p va (if wr then .write else .read) with
      | .leaf l =>
        let k := spanHere va n
        ((s.peerAt l va).any fun a => !s.peerAccepts p a k wr) || s.stopsAtPeer p wr fuel (va + k) (n - k)
      | _ => false
/-- The abort code of a failed access (R392, R404). -/
def State.abortCode {α : Type} (s : State) (p : Nat) (wr : Bool) (va n : Nat) : EngineRes α → Nat
  | .err 0x05 => 0x09
  | .err 0x07 => 0x0A
  | .err 0x03 => if s.stopsAtPeer p wr (spanFuel n) va n then 0x04 else 0x08
  | _ => 0x08
/-- Whether a task was decoded in debug mode. -/
def State.collDebug (s : State) (p seq : Nat) : Bool := (s.task? p seq).any Task.debug
/-- A read that the engine makes for a run, with the run's stamp check, and what it leaves (R343, R392). -/
def State.collRead (s : State) (p : Nat) (c : Communicator) (r : CollRun) (va n : Nat) : State × Except Nat (List Byte) :=
  let t := s.noteRun p r.seq (s.collDebug p r.seq) false va n
  match s.readVa p (some ⟨c.contract, r.mask⟩) va n with
  | .ok x => (t, .ok x.1)
  | e => (t, .error (s.abortCode p false va n e))
/-- A write that the engine makes for a run, with the run's stamp check; all of it or nothing (R343, R396, R405). -/
def State.collWrite (s : State) (p : Nat) (c : Communicator) (r : CollRun) (va : Nat) (bs : List Byte) : State × Except Nat Unit :=
  let t := s.noteRun p r.seq (s.collDebug p r.seq) true va bs.length
  match t.writeVa p (some ⟨c.contract, r.mask⟩) va bs (.task p r.seq) with
  | (u, .ok _) => (u, .ok ())
  | (_, e) => (t, .error (s.abortCode p true va bs.length e))

/-! ## Aborts (R404, R405) -/

/-- The destination of a step that writes: slot, offset and length. -/
def Walker.writes (w : Walker) (n vr : Nat) (t : Step) : Option (Nat × Nat × Nat) :=
  if t.op = 0x03 || t.op = 0x04 || (t.op = 0x02 && (t.pool || (w.peer n vr t.peer).isSome)) then
    some (bitsOf t.dst 63 61, w.offset t t.dst, t.len)
  else none
/-- Whether a range of bytes reaches a chunk of 4 KiB. -/
def reaches (slot j : Nat) (x : Nat × Nat × Nat) : Bool :=
  x.1 == slot && decide (0 < x.2.2) && decide (x.2.1 < 4096 * (j + 1)) && decide (4096 * j < x.2.1 + x.2.2)
/-- Whether the rest of a program would write a chunk again: its control flow depends on no data. -/
def writesLater (steps : List (List Byte)) (n vr slot j : Nat) : Nat → Walker → Bool
  | 0, _ => false
  | fuel + 1, w =>
    match steps[w.pos]? with
    | none => false
    | some b =>
      let t := parseStep b
      if !t.legal then false
      else if (match w.writes n vr t with | some x => reaches slot j x | none => false) then true
      else match w.control steps n vr t with
        | some w => writesLater steps n vr slot j fuel w
        | none => false
/-- More steps than any program takes: four levels of at most 2^32 iterations each, of at most 256 steps. -/
def programFuel : Nat := 2 ^ 136
/-- The state of a chunk in the abort record (R405). -/
def CollRun.chunkState (r : CollRun) (c : Communicator) (slot j : Nat) : Nat :=
  if !(r.written.contains (slot, j)) then 0
  else if r.started.any (fun t => match t.dst with | some d => reaches slot j (d.slot, d.off + t.got, t.len - t.got) | none => false) ||
      writesLater r.steps c.size (r.vr c) slot j programFuel r.walker then 2
  else 1
/-- Bytes from 2-bit states, low first. -/
def packPairs : List Nat → List Byte
  | [] => []
  | [a] => [BitVec.ofNat 8 a]
  | [a, b] => [BitVec.ofNat 8 (a + 4 * b)]
  | [a, b, c] => [BitVec.ofNat 8 (a + 4 * b + 16 * c)]
  | a :: b :: c :: d :: rest => BitVec.ofNat 8 (a + 4 * b + 16 * c + 64 * d) :: packPairs rest
/-- The abort record. -/
def State.abortRecord (s : State) (p : Nat) (r : CollRun) (c : Communicator) (code : Nat) : List Byte :=
  let counts := (List.range 6).map fun k =>
    match s.task? p r.seq with
    | some t => (match nth none t.regions k with | some g => (g.hullBytes + 4095) / 4096 | none => 0)
    | none => 0
  leBytes 8 r.seq ++ leBytes 1 code ++ leBytes 1 r.pos ++ leBytes 2 0 ++ leBytes 4 r.ordinal ++ counts.flatMap (leBytes 4) ++ leBytes 24 0 ++
    packPairs (counts.zipIdx.flatMap fun q => (List.range q.1).map fun j => r.chunkState c q.2 j)
/-- A COLL task fails with an abort code (R388, R404). -/
def State.failColl (s : State) (p seq code : Nat) : State := s.faultTask p seq 0x0E code
/-- The member that a notice names when it names none, and when it names every member. -/
def noMember : Nat := 0xFFFE
def everyMember : Nat := 0xFFFF
/-- A run aborts: the others are told, its record is written, and its task faults. The notice names the member, if any, that aborts with the same
code: that of a transfer whose length differs, or of a chunk that is not authentic (R396, R400, R403). -/
def State.abortRun (s : State) (p k code : Nat) (who : Nat := noMember) : State :=
  match s.run? p k, s.comm? p k with
  | some r, some c =>
    let record := s.abortRecord p r c code
    let s := ((s.noteRun p r.seq (s.collDebug p r.seq) true c.abortbase record.length).writeVa p none c.abortbase record (.task p r.seq)).1
    (s.modPart p fun q =>
      { q with
        colls := q.colls.filter fun x => x.comm ≠ k
        sent := q.sent ++ [⟨k, r.ordinal, none, 0, true, leBytes 1 code ++ leBytes 2 who⟩] }).failColl p r.seq code
  | _, _ => s

/-! ## CREATE, DESTROY and RUN (R386-R390) -/

/-- The RESULT of a CREATE, with done 1 unless it aborts (log 106). -/
def collResult (contract code bitmap : Nat) : List Byte :=
  leBytes 8 (contract + (if code = 0 then 16 else 0) + 256 * code + 65536 * bitmap)
/-- The RESULT of a CREATE is written to its descriptor (R343, R387). -/
def State.writeResult (s : State) (p seq desc : Nat) (result : List Byte) : State × EngineRes Bool :=
  (s.noteRun p seq (s.collDebug p seq) true (desc + 48) 8).writeVa p none (desc + 48) result (.task p seq)
/-- A CREATE aborts: its RESULT is written, with the common bitmap if there is one (log 106), and its task faults; a refused write makes it PROT. -/
def State.abortCreate (s : State) (p seq desc code bitmap : Nat) : State :=
  let s := s.modPart p fun q => { q with creates := q.creates.filter fun x => x.seq ≠ seq }
  match s.writeResult p seq desc (collResult 0 code bitmap) with
  | (s, .ok _) => s.failColl p seq code
  | (s, _) => s.failColl p seq 0x08
/-- A communicator as a descriptor and its rank table give it. -/
def parseComm (k : Nat) (d ranks : List Byte) : Communicator :=
  let n (off w : Nat) : Nat := field d off w
  { id := k, ranks := elemsOf 4 ranks, own := n 14 2, contract := 0, tag := BitVec.ofNat 64 (n 32 8), isSealed := bitAt (n 18 1) 0, vc := n 17 1
    prio := n 16 1, efbase := n 24 8, eflen := n 20 4, poolbase := n 0 8, pooln := n 8 4, abortbase := n 40 8, ordinal := 0, aborts := [] }
/-- Whether a descriptor is legal for a member (R387, R388). -/
def descLegal (d ranks : List Byte) (rank p : Nat) : Bool :=
  let n (off w : Nat) : Nat := field d off w
  let size := n 12 2
  n 56 8 == 0 && decide (1 ≤ size) && decide (size ≤ 512) && decide (n 14 2 < size) && decide (n 19 1 ≤ 16) && decide (n 18 1 ≤ 1) &&
  decide (1 ≤ n 17 1) && decide (n 17 1 ≤ 7) && decide (n 16 1 ≤ 3) && decide (2 ≤ n 8 4) && decide (n 8 4 ≤ 1024) && n 0 8 % 4096 == 0 &&
  n 40 8 % 64 == 0 && n 24 8 % 64 == 0 && n 20 4 % 4 == 0 &&
  (elemsOf 4 ranks).all (fun x => decide (x < 2 ^ 13)) && nth 0 (elemsOf 4 ranks) (n 14 2) == rank + 512 * p
/-- CREATE issues. A slot that turns out too small for its descriptor's SIZE, or not aligned, is outside its stated use: BADREGION (R386). -/
def State.issueCreate (s : State) (p : Nat) (t : Task) : State :=
  match nth none t.regions 0 with
  | none => s.failColl p t.seq 0x01
  | some g =>
    if g.start % 64 ≠ 0 then s.faultTask p t.seq 0x02 0
    else
      let t' := s.noteRun p t.seq t.debug false g.start 64
      match s.readVa p none g.start 64 with
      | .ok (d, _) =>
        let size := 4 * min 512 (field d 12 2)
        if field d 12 2 ≤ 512 && g.hullBytes < 64 + size then t'.faultTask p t.seq 0x02 0
        else
        let s := t'.noteRun p t.seq t.debug false (g.start + 64) size
        (match s.readVa p none (g.start + 64) size with
          | .ok (ranks, _) =>
            if !descLegal d ranks s.device.rank p then s.abortCreate p t.seq g.start 0x01 0
            else if (s.comm? p (t.arg % 64)).isSome then s.abortCreate p t.seq g.start 0x0E 0
            else
              (s.modTask p t.seq fun t => { t with status := .issued }).modPart p fun q =>
                { q with creates := q.creates ++ [⟨t.seq, g.start, parseComm (t.arg % 64) d ranks, field d 19 1, s.cycle⟩] }
          | e => s.failColl p t.seq (s.abortCode p false (g.start + 64) size e))
      | e => t'.failColl p t.seq (s.abortCode p false g.start 64 e)
/-- RUN issues: its steps are read, and what has come for it before is its own (R390, R396). -/
def State.issueRun (s : State) (p : Nat) (t : Task) : State :=
  let k := t.arg % 64
  match s.comm? p k with
  | none => s.failColl p t.seq 0x0E
  | some c =>
    let n := bitsOf t.arg 22 15 + 1
    let ordinal := c.ordinal + 1
    let bs := s.readVa p none t.ptr (32 * n)
    let s := s.noteRun p t.seq t.debug false t.ptr (32 * n)
    let r : CollRun :=
      { seq := t.seq, comm := k, ordinal := ordinal, root := bitsOf t.arg 14 6, mask := bitAt t.flags 2
        steps := match bs with | .ok (b, _) => pieces 32 n b | _ => []
        pos := 0, loops := [], counters := List.replicate 8 0, peers := List.replicate 4 (some 0), started := [], armed := [], sends := []
        recvs := [], chunksOut := [], chunksIn := c.early.chunksIn, poolSends := 0, poolRecvs := 0, staged := c.early.staged
        contributions := c.early.contributions, atBar := false
        since := s.cycle, ready := none, written := [] }
    let s := ((s.modTask p t.seq fun t => { t with status := .issued }).modComm p k fun c => { c with ordinal := ordinal, early := {} }).modPart p
      fun q => { q with colls := q.colls ++ [r] }
    if c.size ≤ r.root then s.abortRun p k 0x01
    else match bs with
      | .ok _ =>
        if c.aborts.contains ordinal then s.abortRun p k 0x0B
        else match c.early.fail with
          | some (code, who) => s.abortRun p k code who
          | none => s
      | e => s.abortRun p k (s.abortCode p false t.ptr (32 * n) e)
/-- DESTROY completes at issue. -/
def State.issueDestroy (s : State) (p : Nat) (t : Task) : State :=
  if (s.comm? p (t.arg % 64)).isNone then s.failColl p t.seq 0x0E
  else (s.modPart p fun q => { q with comms := q.comms.filter fun c => c.id ≠ t.arg % 64 }).completeTask p t.seq
/-- A COLL task issues (R386). -/
def State.issueColl (s : State) (p : Nat) (t : Task) : State :=
  match t.flags % 4 with
  | 0 => s.issueRun p t
  | 1 => s.issueCreate p t
  | _ => s.issueDestroy p t

end Sys2Proof.Machine
end

