-- ==== Sys2Proof/Decode.lean ====
section
/-! DEFINITION. Decoding words by 02_formats_and_assembly.md R36-R59 and crook operations by 16 R355, refusing every
word that is not an instruction; and encoding, from the same tables. -/
namespace Sys2Proof

/-- The register that a 5-bit field names (R49). -/
def Reg.ofCode (n : Nat) : Reg :=
  if h : n < 24 then .v ⟨n, h⟩ else .w ⟨(n - 24) % 8, Nat.mod_lt _ (by decide)⟩

/-- A 4-bit field. -/
def fin16 (n : Nat) : Fin 16 := ⟨n % 16, Nat.mod_lt _ (by decide)⟩
/-- A 3-bit field. -/
def fin8 (n : Nat) : Fin 8 := ⟨n % 8, Nat.mod_lt _ (by decide)⟩

/-- C, E, G and S (R36). -/
def headOf (w : Nat) : Head :=
  ⟨bitAt w 31, if bitAt w 30 then some ⟨fin16 (bitsOf w 29 26), bitAt w 25⟩ else none⟩
/-- The extension field X. -/
def xOf (w : Nat) : Nat := bitsOf w 29 25
/-- The major opcode. -/
def opOf (w : Nat) : Nat := bitsOf w 24 18
/-- X is zero when it has no meaning (R37). -/
def plainX (w : Nat) : Bool := bitAt w 30 || xOf w == 0
/-- The D, A and B fields, and A and B with their trap-if-empty bits (R38, R39). -/
def regD (w : Nat) : Reg := Reg.ofCode (bitsOf w 17 13)
def regA (w : Nat) : Reg := Reg.ofCode (bitsOf w 12 8)
def regB (w : Nat) : Reg := Reg.ofCode (bitsOf w 7 3)
def srcA (w : Nat) : Src := ⟨regA w, bitAt w 2⟩
def srcB (w : Nat) : Src := ⟨regB w, bitAt w 1⟩
/-- The third source of format RT (R40). -/
def regC (w : Nat) : Reg := if bitAt w 30 then regD w else Reg.ofCode (xOf w)
/-- A signed immediate whose low n bits stand at bit lo, extended by X when E = 0 (R41-R43, R46). -/
def immSigned (w lo n : Nat) : Int :=
  let low := (w / 2 ^ lo) % 2 ^ n
  if bitAt w 30 then signExtend low n else signExtend (xOf w * 2 ^ n + low) (n + 5)
/-- A zero-extended immediate (R41). -/
def immZero (w n : Nat) : Int :=
  if bitAt w 30 then ((w % 2 ^ n : Nat) : Int) else ((xOf w * 2 ^ n + w % 2 ^ n : Nat) : Int)

/-- An instruction, when the must-be-zero condition holds. -/
def given (ok : Bool) (i : Instr) : Option Instr := if ok then some i else none

/-- The formats, with the constructor that the opcode gives (R38-R48). -/
def decR3 (mk : Head → Reg → Src → Src → Instr) (w : Nat) : Option Instr :=
  given (plainX w && !bitAt w 0) (mk (headOf w) (regD w) (srcA w) (srcB w))
def decR3M (mk : Head → Bool → Reg → Src → Src → Instr) (w : Nat) : Option Instr :=
  given (plainX w) (mk (headOf w) (bitAt w 0) (regD w) (srcA w) (srcB w))
def decRT (mk : Head → Reg → Src → Src → Reg → Instr) (w : Nat) : Option Instr :=
  given (!bitAt w 0) (mk (headOf w) (regD w) (srcA w) (srcB w) (regC w))
def decRTM (mk : Head → Bool → Reg → Src → Src → Reg → Instr) (w : Nat) : Option Instr :=
  some (mk (headOf w) (bitAt w 0) (regD w) (srcA w) (srcB w) (regC w))
/-- One source A with a minor or code in B, so that Fb and M are zero. -/
def decUN (mk : Head → Reg → Src → Instr) (w : Nat) : Option Instr :=
  given (plainX w && w % 4 == 0) (mk (headOf w) (regD w) (srcA w))
def decA (mk : Head → Src → Instr) (w : Nat) : Option Instr :=
  given (plainX w && w % 4 == 0 && bitsOf w 17 13 == 0) (mk (headOf w) (srcA w))
def decAB (mk : Head → Src → Src → Instr) (w : Nat) : Option Instr :=
  given (plainX w && !bitAt w 0 && bitsOf w 17 13 == 0) (mk (headOf w) (srcA w) (srcB w))
def decD (mk : Head → Reg → Instr) (w : Nat) : Option Instr :=
  given (plainX w && bitsOf w 12 8 == 0 && w % 8 == 0) (mk (headOf w) (regD w))
def decN (mk : Head → Instr) (w : Nat) : Option Instr :=
  given (plainX w && bitsOf w 17 8 == 0 && w % 8 == 0) (mk (headOf w))
def decCode (mk : Head → Nat → Reg → Src → Instr) (w : Nat) : Option Instr :=
  given (plainX w && w % 4 == 0) (mk (headOf w) (bitsOf w 7 3) (regD w) (srcA w))
def decIS (mk : Head → Reg → Reg → Int → Instr) (w : Nat) : Option Instr :=
  some (mk (headOf w) (regD w) (regA w) (immSigned w 0 8))
def decIZ (mk : Head → Reg → Reg → Int → Instr) (w : Nat) : Option Instr :=
  some (mk (headOf w) (regD w) (regA w) (immZero w 8))
def decJ (mk : Head → Int → Instr) (w : Nat) : Option Instr := some (mk (headOf w) (immSigned w 0 18))
def decC (mk : Head → Bool → Fin 16 → Fin 8 → Reg → Reg → Instr) (w : Nat) : Option Instr :=
  given (plainX w) (mk (headOf w) (bitAt w 17) (fin16 (bitsOf w 16 13)) (fin8 w) (regA w) (regB w))
def decLD (mk : Head → Fin 4 → Reg → Reg → Int → Instr) (w : Nat) : Option Instr :=
  some (mk (headOf w) ⟨w % 4, Nat.mod_lt _ (by decide)⟩ (regD w) (regA w) (immSigned w 2 6))
def decST (mk : Head → Bool → Reg → Int → Reg → Instr) (w : Nat) : Option Instr :=
  given (!bitAt w 1) (mk (headOf w) (bitAt w 0) (regA w) (immSigned w 2 6) (regD w))
def decAT (mk : Head → Reg → Reg → Reg → Instr) (w : Nat) : Option Instr :=
  given (plainX w) (mk (headOf w) (regD w) (regA w) (regB w))
def decSHFL (mk : Head → Reg → Src → Reg → Instr) (w : Nat) : Option Instr :=
  given (plainX w) (mk (headOf w) (regD w) (srcA w) (regB w))
def decMM (mk : Head → Bool → Bool → Fin 8 → Src → Src → Instr) (w : Nat) : Option Instr :=
  given (plainX w && !bitAt w 17) (mk (headOf w) (bitAt w 0) (bitAt w 16) (fin8 (bitsOf w 15 13)) (srcA w) (srcB w))
def decML (mk : Head → Bool → Bool → Fin 8 → Src → Instr) (w : Nat) : Option Instr :=
  given (plainX w && !bitAt w 17 && !bitAt w 1) (mk (headOf w) (bitAt w 0) (bitAt w 16) (fin8 (bitsOf w 15 13)) (srcA w))

/-- The MOVC forms (R51): M = 0 reads into D, M = 1 writes from A. -/
def decMovc (w : Nat) : Option Instr :=
  if bitAt w 0 then
    given (plainX w && !bitAt w 1 && bitsOf w 17 13 == 0) (.movcWrite (headOf w) (bitsOf w 7 3) (srcA w))
  else given (plainX w && w % 8 == 0 && bitsOf w 12 8 == 0) (.movcRead (headOf w) (bitsOf w 7 3) (regD w))

/-- MSTORESR (R285, R296): X is k unguarded, and the guarded form has no X. -/
def decMstoresr (w : Nat) : Option Instr :=
  if bitAt w 17 || w % 4 != 0 then none
  else match (headOf w).guard with
    | none => some (.mstoresr (bitAt w 31) (xOf w) (bitAt w 16) (fin8 (bitsOf w 15 13)) (srcA w))
    | some g => some (.mstoresrGuarded (bitAt w 31) g (bitAt w 16) (fin8 (bitsOf w 15 13)) (srcA w))

/-- The fields of a word, by its major opcode and selectors (R57, R58), without the conditions of Instr.wf.
`lit` is the following word, the literal of MOVL. -/
def parseWord (w lit : Nat) : Option Instr :=
  match opOf w with
  | 0x01 => decR3 .iadd w
  | 0x02 => decR3 .isub w
  | 0x03 => decR3 .imul w
  | 0x04 => decR3M .imulh w
  | 0x05 => decRT .imad w
  | 0x06 => decR3M .imin w
  | 0x07 => decR3M .imax w
  | 0x08 => decR3 .and w
  | 0x09 => decR3 .or w
  | 0x0A => decR3 .xor w
  | 0x0B => decR3 .andn w
  | 0x0C => decR3 .shl w
  | 0x0D => decR3 .shr w
  | 0x0E => decR3 .sar w
  | 0x0F => decR3 .rotl w
  | 0x10 => decRT .fshr w
  | 0x11 => decR3M .bfe w
  | 0x12 => decRT .bfi w
  | 0x13 => decRT .bshuf w
  | 0x14 => given (!bitAt w 30 && !bitAt w 0) (.sel (bitAt w 31) (fin16 (xOf w)) (bitAt w 29) (regD w) (srcA w) (srcB w))
  | 0x15 => decR3 .iadd64 w
  | 0x16 => given (!bitAt w 30 && !bitAt w 0)
      (if bitAt w 29 then .lea64s (bitAt w 31) (fin16 (xOf w)) (regD w) (srcA w) (srcB w)
       else .lea64 (bitAt w 31) (fin16 (xOf w)) (regD w) (srcA w) (srcB w))
  | 0x17 =>
    match bitsOf w 7 3 with
    | 0 => decUN .mov w
    | 1 => decUN .not w
    | 2 => decUN .ineg w
    | 3 => decUN .iabs w
    | 4 => decUN .popc w
    | 5 => decUN .clz w
    | 6 => decUN .brev w
    | 7 => decUN .ctz w
    | _ => none
  | 0x18 => decIS .addi w
  | 0x19 => decIZ .andi w
  | 0x1A => decIZ .ori w
  | 0x1B => decIZ .xori w
  | 0x1C => decIS .shli w
  | 0x1D => decIS .shri w
  | 0x1E => decIS .sari w
  | 0x1F => decIS .muli w
  | 0x20 => some (.movi (headOf w) (regD w) (immSigned w 0 13))
  | 0x21 => given (plainX w && w % 2 ^ 13 == 0) (.movl (headOf w) (regD w) (BitVec.ofNat 32 lit))
  | 0x22 => decC .icmp w
  | 0x23 => given (plainX w)
      (.icmpi (headOf w) (bitAt w 17) (fin16 (bitsOf w 16 13)) (fin8 w) (regA w) (signExtend (bitsOf w 7 3) 5))
  | 0x24 => decC .fcmp w
  | 0x25 => given (plainX w && w % 4 == 0)
      (.plop (headOf w) (fin16 (bitsOf w 17 14)) (fin16 (bitsOf w 13 10)) (fin16 (bitsOf w 9 6)) (fin16 (bitsOf w 5 2)))
  | 0x26 => decR3 .pmov w
  | 0x28 => decR3 .fadd w
  | 0x29 => decR3 .fsub w
  | 0x2A => decR3 .fmul w
  | 0x2B => decRT .ffma w
  | 0x2C => decR3 .fmin w
  | 0x2D => decR3 .fmax w
  | 0x2E =>
    match bitsOf w 7 3 with
    | 0 => decUN .frndNe w
    | 1 => decUN .frndFl w
    | 2 => decUN .frndCe w
    | 3 => decUN .frndTr w
    | _ => none
  | 0x2F => decR3M .hadd2 w
  | 0x30 => decR3M .hmul2 w
  | 0x31 => decRTM .hfma2 w
  | 0x32 => decR3M .hmin2 w
  | 0x33 => decR3M .hmax2 w
  | 0x34 =>
    match bitsOf w 7 3 with
    | 0 => decUN .rcp w
    | 1 => decUN .rsq w
    | 2 => decUN .sqrt w
    | 3 => decUN .exp2 w
    | 4 => decUN .log2 w
    | 5 => decUN .sin w
    | 6 => decUN .cos w
    | 7 => decUN .tanh w
    | _ => none
  | 0x35 => decCode .cvt w
  | 0x36 => given (!bitAt w 30 && bitsOf w 7 3 == 0 && !bitAt w 1) (.cvtsr (bitAt w 31) (xOf w) (bitAt w 0) (regD w) (srcA w))
  | 0x37 => decR3 .fpack w
  | 0x38 => decCode .funpk w
  | 0x39 => decR3 .qexp w
  | 0x3A => decR3 .qcvt w
  | 0x40 => decJ .bra w
  | 0x41 => if bitsOf w 7 3 == 0 then decA .brx w else none
  | 0x42 => decJ .call w
  | 0x43 => if bitsOf w 7 3 == 0 then decN .ret w else none
  | 0x44 => if bitsOf w 7 3 == 0 then decN .join w else none
  | 0x45 => if bitsOf w 7 3 == 0 then decN .yield w else none
  | 0x46 => if bitsOf w 7 3 == 0 then decN .exit w else none
  | 0x47 => given (plainX w && bitsOf w 17 5 == 0) (.trap (headOf w) ⟨w % 32, Nat.mod_lt _ (by decide)⟩)
  | 0x48 => if bitsOf w 7 3 == 0 then decN .tret w else none
  | 0x49 => given (plainX w && bitsOf w 17 8 == 0) (.bkpt (headOf w) ⟨w % 256, Nat.mod_lt _ (by decide)⟩)
  | 0x4A => if bitsOf w 7 3 == 0 then decN .nop w else none
  | 0x4B => given (plainX w && bitsOf w 12 8 == 0 && bitsOf w 2 1 == 0) (.movs (headOf w) (bitsOf w 7 3 + 32 * (w % 2)) (regD w))
  | 0x4C => decMovc w
  | 0x4D => decJ .brdq w
  | 0x4E => if bitsOf w 7 3 == 0 then decA .dqpush w else none
  | 0x4F => if bitsOf w 7 3 == 0 then decD .dqpop w else none
  | 0x50 => decLD .ldb w
  | 0x51 => decLD .ldbs w
  | 0x52 => decLD .ldh w
  | 0x53 => decLD .ldhs w
  | 0x54 => decLD .ldw w
  | 0x55 => decLD .ldd w
  | 0x56 => decLD .ldq w
  | 0x57 => decST .stb w
  | 0x58 => decST .sth w
  | 0x59 => decST .stw w
  | 0x5A => decST .std w
  | 0x5B => decST .stq w
  | 0x5C =>
    match w % 8 with
    | 0 => decAT .atomiAdd w
    | 1 => decAT .atomiMin w
    | 2 => decAT .atomiMax w
    | 3 => decAT .atomiMinu w
    | 4 => decAT .atomiMaxu w
    | 5 => decAT .atomiAnd w
    | 6 => decAT .atomiOr w
    | 7 => decAT .atomiXor w
    | _ => none
  | 0x5D =>
    match w % 8 with
    | 0 => decAT .atomfFadd w
    | 1 => decAT .atomfFmin w
    | 2 => decAT .atomfFmax w
    | 3 => decAT .atomfBfadd2 w
    | 4 => decAT .atomfHadd2 w
    | 5 => decAT .atomfXchg w
    | _ => none
  | 0x5E => decRT .cas w
  | 0x5F => given (plainX w && w % 4 == 0) (.ldx (headOf w) (bitsOf w 7 3) (regD w) (srcA w))
  | 0x60 => given (plainX w && !bitAt w 0) (.stx (headOf w) (bitsOf w 17 13) (srcA w) (srcB w))
  | 0x61 => given (plainX w && w % 2 ^ 13 == 0) (.fence (headOf w) (bitsOf w 17 13))
  | 0x62 => if bitsOf w 7 3 == 0 then decUN .tagq w else none
  | 0x63 => decR3 .tagw w
  | 0x64 => decR3 .fest w
  | 0x65 => decAB .pref w
  | 0x68 =>
    match bitsOf w 7 3 with
    | 0 => decUN .vany w
    | 1 => decUN .vall w
    | 2 => decUN .ballot w
    | 3 => decD .actm w
    | 4 => decUN .first w
    | 5 => decUN .count w
    | 6 => decN .wsync w
    | _ => none
  | 0x69 =>
    match w % 4 with
    | 0 => decSHFL .shflIdx w
    | 1 => decSHFL .shflUp w
    | 2 => decSHFL .shflDown w
    | 3 => decSHFL .shflXor w
    | _ => none
  | 0x6A =>
    match bitsOf w 7 3 with
    | 0 => decUN .wredAdd w
    | 1 => decUN .wredMin w
    | 2 => decUN .wredMax w
    | 3 => decUN .wredMinu w
    | 4 => decUN .wredMaxu w
    | 5 => decUN .wredAnd w
    | 6 => decUN .wredOr w
    | 7 => decUN .wredXor w
    | 8 => decUN .wredFadd w
    | 9 => decUN .wredFmin w
    | 10 => decUN .wredFmax w
    | _ => none
  | 0x6B => given (plainX w && bitsOf w 17 8 == 0 && bitsOf w 2 1 == 0 && !bitAt w 7)
      (if bitAt w 0 then .hurdleF (headOf w) (fin16 (bitsOf w 6 3)) else .hurdle (headOf w) (fin16 (bitsOf w 6 3)))
  | 0x6C => if bitsOf w 7 3 == 0 then decUN .arrive w else none
  | 0x6D => decAB .await w
  | 0x6E => if bitsOf w 7 3 == 0 then decA .prog w else none
  | 0x6F => decAB .cont w
  | 0x70 => if bitsOf w 7 3 == 0 then decA .gang w else none
  | 0x71 => if bitsOf w 7 3 == 0 then decA .qpush w else none
  | 0x72 => given (plainX w && bitsOf w 12 8 == 0 && w % 8 == 0) (.qpop (headOf w) (bitsOf w 7 3) (regD w))
  | 0x73 => decMM .mma w
  | 0x74 => decMM .mlut w
  | 0x75 =>
    match bitsOf w 7 3 with
    | 0 => given (plainX w && !bitAt w 17 && bitsOf w 12 8 == 0 && w % 8 == 0) (.mzero (headOf w) (bitAt w 16) (fin8 (bitsOf w 15 13)))
    | 1 => decML .mload w
    | 2 => decML .mstore w
    | 3 => decMstoresr w
    | _ => none
  | 0x76 => decAB .xform w
  | 0x77 => decAB .post w
  | 0x78 =>
    match bitsOf w 7 3 with
    | 0 => decUN .tlwait w
    | 1 => decUN .tlread w
    | _ => none
  | 0x79 =>
    match bitsOf w 7 3 with
    | 0 => decA .bwaitFull w
    | 1 => decA .bwaitFree w
    | 2 => decUN .bstate w
    | 3 => decA .brel w
    | _ => none
  | 0x7A =>
    match bitsOf w 7 3 with
    | 0 => decUN .boinit w
    | 1 => decUN .boarr w
    | 2 => decUN .boexp w
    | 3 => decUN .botest w
    | 4 => decA .bowait w
    | _ => none
  | _ => none

/-- The instruction that a word is, or none: the word is ILLEGAL (R59). `lit` is the word after it. -/
def decodeWord (w lit : Nat) : Option Instr :=
  match parseWord w lit with
  | some i => if i.wf then some i else none
  | none => none

/-- A crook operation (R355); the branch target beyond n is a matter of the program (R359). -/
def decodeCrook (w : Nat) : Option Instr :=
  let d := fin16 (bitsOf w 26 23)
  let a := fin16 (bitsOf w 22 19)
  let b := fin16 (bitsOf w 18 15)
  let imm := bitsOf w 14 0
  let noA := bitsOf w 22 15 == 0
  let noD := bitsOf w 26 23 == 0
  let two := imm == 0
  let r := match bitsOf w 31 27 with
    | 0x01 => given (noA && imm < 16) (.crkLdf d (fin16 imm))
    | 0x02 => given (noA && imm < 16) (.crkLdg d (fin16 imm))
    | 0x03 => given noA (.crkLdi d (signExtend imm 15))
    | 0x04 => given two (.crkAdd d a b)
    | 0x05 => given two (.crkSub d a b)
    | 0x06 => given two (.crkMul d a b)
    | 0x07 => given two (.crkMin d a b)
    | 0x08 => given two (.crkMax d a b)
    | 0x09 => given two (.crkAnd d a b)
    | 0x0A => given two (.crkOr d a b)
    | 0x0B => given two (.crkShl d a b)
    | 0x0C => given two (.crkShr d a b)
    | 0x0D => given two (.crkClt d a b)
    | 0x0E => given two (.crkCeq d a b)
    | 0x0F => given (noD && bitsOf w 18 15 == 0) (.crkBf a imm)
    | 0x10 => given (noD && bitsOf w 18 15 == 0) (.crkBnf a imm)
    | 0x11 => given (noD && bitsOf w 18 15 == 0 && two) (.crkScore a)
    | 0x12 => given (noD && noA && imm < 4) (.crkVerdict ⟨imm % 4, Nat.mod_lt _ (by decide)⟩)
    | 0x13 => given (noD && noA && two) .crkHalt
    | _ => none
  match r with
  | some i => if i.wf then some i else none
  | none => none

/-- The instruction of a row's word: a thread word with its literal above it, or else a crook operation. Words of the
two kinds live in different memories; where one number is legal as both, its thread reading is given (log 14). -/
def decodeTableWord (nbits w : Nat) : Option Instr :=
  let x := w % 2 ^ nbits
  match decodeWord (x % 2 ^ 32) (x / 2 ^ 32 % 2 ^ 32) with
  | some i => some i
  | none => decodeCrook (x % 2 ^ 32)

/-! Encoding (R99). -/

def natOfBool (b : Bool) : Nat := if b then 1 else 0
/-- C·2^31 + E·2^30 + the guard, or X, + OP·2^18 + payload. -/
def encWord (h : Head) (x o payload : Nat) : Nat :=
  natOfBool h.chain * 2 ^ 31 +
    (match h.guard with
     | some g => 2 ^ 30 + g.index.val * 2 ^ 26 + natOfBool g.sense * 2 ^ 25
     | none => x % 32 * 2 ^ 25) + o * 2 ^ 18 + payload
/-- The payload of formats R and RT. -/
def payR (d a b : Nat) (fa fb m : Bool) : Nat :=
  d * 2 ^ 13 + a * 2 ^ 8 + b * 2 ^ 3 + natOfBool fa * 4 + natOfBool fb * 2 + natOfBool m
/-- The low n bits and the X part of an immediate. -/
def immLow (n : Nat) (imm : Int) : Nat := (imm % 2 ^ n).toNat
def immX (n : Nat) (imm : Int) : Nat := (imm % 2 ^ (n + 5)).toNat / 2 ^ n
/-- The head of a word that is legal only with E = 0. -/
def bare (chain : Bool) : Head := ⟨chain, none⟩
/-- The payload of formats C and CI. -/
def payC (k : Bool) (gd a b cc : Nat) : Nat := natOfBool k * 2 ^ 17 + gd * 2 ^ 13 + a * 2 ^ 8 + b * 2 ^ 3 + cc
/-- The D field of a matrix word. -/
def tileField (t : Bool) (tile : Fin 8) : Nat := natOfBool t * 8 + tile.val

/-- The word of a thread instruction; none for events and crook operations. -/
def encodeWord : Instr → Option Nat
  | .iadd h d a b => some (encWord h 0 0x01 (payR d.code a.reg.code b.reg.code a.trap b.trap false))
  | .isub h d a b => some (encWord h 0 0x02 (payR d.code a.reg.code b.reg.code a.trap b.trap false))
  | .imul h d a b => some (encWord h 0 0x03 (payR d.code a.reg.code b.reg.code a.trap b.trap false))
  | .imulh h m d a b => some (encWord h 0 0x04 (payR d.code a.reg.code b.reg.code a.trap b.trap m))
  | .imad h d a b c => some (encWord h c.code 0x05 (payR d.code a.reg.code b.reg.code a.trap b.trap false))
  | .imin h m d a b => some (encWord h 0 0x06 (payR d.code a.reg.code b.reg.code a.trap b.trap m))
  | .imax h m d a b => some (encWord h 0 0x07 (payR d.code a.reg.code b.reg.code a.trap b.trap m))
  | .and h d a b => some (encWord h 0 0x08 (payR d.code a.reg.code b.reg.code a.trap b.trap false))
  | .or h d a b => some (encWord h 0 0x09 (payR d.code a.reg.code b.reg.code a.trap b.trap false))
  | .xor h d a b => some (encWord h 0 0x0A (payR d.code a.reg.code b.reg.code a.trap b.trap false))
  | .andn h d a b => some (encWord h 0 0x0B (payR d.code a.reg.code b.reg.code a.trap b.trap false))
  | .shl h d a b => some (encWord h 0 0x0C (payR d.code a.reg.code b.reg.code a.trap b.trap false))
  | .shr h d a b => some (encWord h 0 0x0D (payR d.code a.reg.code b.reg.code a.trap b.trap false))
  | .sar h d a b => some (encWord h 0 0x0E (payR d.code a.reg.code b.reg.code a.trap b.trap false))
  | .rotl h d a b => some (encWord h 0 0x0F (payR d.code a.reg.code b.reg.code a.trap b.trap false))
  | .fshr h d a b c => some (encWord h c.code 0x10 (payR d.code a.reg.code b.reg.code a.trap b.trap false))
  | .bfe h m d a b => some (encWord h 0 0x11 (payR d.code a.reg.code b.reg.code a.trap b.trap m))
  | .bfi h d a b c => some (encWord h c.code 0x12 (payR d.code a.reg.code b.reg.code a.trap b.trap false))
  | .bshuf h d a b c => some (encWord h c.code 0x13 (payR d.code a.reg.code b.reg.code a.trap b.trap false))
  | .sel chain g sense d a b => some (encWord (bare chain) (natOfBool sense * 16 + g.val) 0x14 (payR d.code a.reg.code b.reg.code a.trap b.trap false))
  | .iadd64 h d a b => some (encWord h 0 0x15 (payR d.code a.reg.code b.reg.code a.trap b.trap false))
  | .lea64 chain n d a b => some (encWord (bare chain) (0 + n.val) 0x16 (payR d.code a.reg.code b.reg.code a.trap b.trap false))
  | .lea64s chain n d a b => some (encWord (bare chain) (16 + n.val) 0x16 (payR d.code a.reg.code b.reg.code a.trap b.trap false))
  | .mov h d a => some (encWord h 0 0x17 (payR d.code a.reg.code 0 a.trap false false))
  | .not h d a => some (encWord h 0 0x17 (payR d.code a.reg.code 1 a.trap false false))
  | .ineg h d a => some (encWord h 0 0x17 (payR d.code a.reg.code 2 a.trap false false))
  | .iabs h d a => some (encWord h 0 0x17 (payR d.code a.reg.code 3 a.trap false false))
  | .popc h d a => some (encWord h 0 0x17 (payR d.code a.reg.code 4 a.trap false false))
  | .clz h d a => some (encWord h 0 0x17 (payR d.code a.reg.code 5 a.trap false false))
  | .brev h d a => some (encWord h 0 0x17 (payR d.code a.reg.code 6 a.trap false false))
  | .ctz h d a => some (encWord h 0 0x17 (payR d.code a.reg.code 7 a.trap false false))
  | .addi h d a imm => some (encWord h (immX 8 imm) 0x18 (d.code * 2 ^ 13 + a.code * 2 ^ 8 + immLow 8 imm))
  | .andi h d a imm => some (encWord h (immX 8 imm) 0x19 (d.code * 2 ^ 13 + a.code * 2 ^ 8 + immLow 8 imm))
  | .ori h d a imm => some (encWord h (immX 8 imm) 0x1A (d.code * 2 ^ 13 + a.code * 2 ^ 8 + immLow 8 imm))
  | .xori h d a imm => some (encWord h (immX 8 imm) 0x1B (d.code * 2 ^ 13 + a.code * 2 ^ 8 + immLow 8 imm))
  | .shli h d a imm => some (encWord h (immX 8 imm) 0x1C (d.code * 2 ^ 13 + a.code * 2 ^ 8 + immLow 8 imm))
  | .shri h d a imm => some (encWord h (immX 8 imm) 0x1D (d.code * 2 ^ 13 + a.code * 2 ^ 8 + immLow 8 imm))
  | .sari h d a imm => some (encWord h (immX 8 imm) 0x1E (d.code * 2 ^ 13 + a.code * 2 ^ 8 + immLow 8 imm))
  | .muli h d a imm => some (encWord h (immX 8 imm) 0x1F (d.code * 2 ^ 13 + a.code * 2 ^ 8 + immLow 8 imm))
  | .movi h d imm => some (encWord h (immX 13 imm) 0x20 (d.code * 2 ^ 13 + immLow 13 imm))
  | .movl h d _ => some (encWord h 0 0x21 (d.code * 2 ^ 13))
  | .icmp h k gd cc a b => some (encWord h 0 0x22 (payC k gd.val a.code b.code cc.val))
  | .icmpi h k gd cc a imm => some (encWord h 0 0x23 (payC k gd.val a.code (immLow 5 imm) cc.val))
  | .fcmp h k gd cc a b => some (encWord h 0 0x24 (payC k gd.val a.code b.code cc.val))
  | .plop h gd ga gb tt => some (encWord h 0 0x25 (gd.val * 2 ^ 14 + ga.val * 2 ^ 10 + gb.val * 2 ^ 6 + tt.val * 4))
  | .pmov h d a b => some (encWord h 0 0x26 (payR d.code a.reg.code b.reg.code a.trap b.trap false))
  | .fadd h d a b => some (encWord h 0 0x28 (payR d.code a.reg.code b.reg.code a.trap b.trap false))
  | .fsub h d a b => some (encWord h 0 0x29 (payR d.code a.reg.code b.reg.code a.trap b.trap false))
  | .fmul h d a b => some (encWord h 0 0x2A (payR d.code a.reg.code b.reg.code a.trap b.trap false))
  | .ffma h d a b c => some (encWord h c.code 0x2B (payR d.code a.reg.code b.reg.code a.trap b.trap false))
  | .fmin h d a b => some (encWord h 0 0x2C (payR d.code a.reg.code b.reg.code a.trap b.trap false))
  | .fmax h d a b => some (encWord h 0 0x2D (payR d.code a.reg.code b.reg.code a.trap b.trap false))
  | .frndNe h d a => some (encWord h 0 0x2E (payR d.code a.reg.code 0 a.trap false false))
  | .frndFl h d a => some (encWord h 0 0x2E (payR d.code a.reg.code 1 a.trap false false))
  | .frndCe h d a => some (encWord h 0 0x2E (payR d.code a.reg.code 2 a.trap false false))
  | .frndTr h d a => some (encWord h 0 0x2E (payR d.code a.reg.code 3 a.trap false false))
  | .hadd2 h m d a b => some (encWord h 0 0x2F (payR d.code a.reg.code b.reg.code a.trap b.trap m))
  | .hmul2 h m d a b => some (encWord h 0 0x30 (payR d.code a.reg.code b.reg.code a.trap b.trap m))
  | .hfma2 h m d a b c => some (encWord h c.code 0x31 (payR d.code a.reg.code b.reg.code a.trap b.trap m))
  | .hmin2 h m d a b => some (encWord h 0 0x32 (payR d.code a.reg.code b.reg.code a.trap b.trap m))
  | .hmax2 h m d a b => some (encWord h 0 0x33 (payR d.code a.reg.code b.reg.code a.trap b.trap m))
  | .rcp h d a => some (encWord h 0 0x34 (payR d.code a.reg.code 0 a.trap false false))
  | .rsq h d a => some (encWord h 0 0x34 (payR d.code a.reg.code 1 a.trap false false))
  | .sqrt h d a => some (encWord h 0 0x34 (payR d.code a.reg.code 2 a.trap false false))
  | .exp2 h d a => some (encWord h 0 0x34 (payR d.code a.reg.code 3 a.trap false false))
  | .log2 h d a => some (encWord h 0 0x34 (payR d.code a.reg.code 4 a.trap false false))
  | .sin h d a => some (encWord h 0 0x34 (payR d.code a.reg.code 5 a.trap false false))
  | .cos h d a => some (encWord h 0 0x34 (payR d.code a.reg.code 6 a.trap false false))
  | .tanh h d a => some (encWord h 0 0x34 (payR d.code a.reg.code 7 a.trap false false))
  | .cvt h code d a => some (encWord h 0 0x35 (payR d.code a.reg.code code a.trap false false))
  | .cvtsr chain k m d a => some (encWord (bare chain) k 0x36 (payR d.code a.reg.code 0 a.trap false m))
  | .fpack h d a b => some (encWord h 0 0x37 (payR d.code a.reg.code b.reg.code a.trap b.trap false))
  | .funpk h code d a => some (encWord h 0 0x38 (payR d.code a.reg.code code a.trap false false))
  | .qexp h d a b => some (encWord h 0 0x39 (payR d.code a.reg.code b.reg.code a.trap b.trap false))
  | .qcvt h d a b => some (encWord h 0 0x3A (payR d.code a.reg.code b.reg.code a.trap b.trap false))
  | .bra h off => some (encWord h (immX 18 off) 0x40 (immLow 18 off))
  | .brx h a => some (encWord h 0 0x41 (payR 0 a.reg.code 0 a.trap false false))
  | .call h off => some (encWord h (immX 18 off) 0x42 (immLow 18 off))
  | .ret h => some (encWord h 0 0x43 0)
  | .join h => some (encWord h 0 0x44 0)
  | .yield h => some (encWord h 0 0x45 0)
  | .exit h => some (encWord h 0 0x46 0)
  | .trap h code => some (encWord h 0 0x47 code.val)
  | .tret h => some (encWord h 0 0x48 0)
  | .bkpt h code => some (encWord h 0 0x49 code.val)
  | .nop h => some (encWord h 0 0x4A 0)
  | .movs h n d => some (encWord h 0 0x4B (payR d.code 0 (n % 32) false false (n / 32 == 1)))
  | .movcRead h r d => some (encWord h 0 0x4C (payR d.code 0 r false false false))
  | .movcWrite h r a => some (encWord h 0 0x4C (payR 0 a.reg.code r a.trap false true))
  | .brdq h off => some (encWord h (immX 18 off) 0x4D (immLow 18 off))
  | .dqpush h a => some (encWord h 0 0x4E (payR 0 a.reg.code 0 a.trap false false))
  | .dqpop h d => some (encWord h 0 0x4F (payR d.code 0 0 false false false))
  | .ldb h q d a off => some (encWord h (immX 6 off) 0x50 (d.code * 2 ^ 13 + a.code * 2 ^ 8 + immLow 6 off * 4 + q.val))
  | .ldbs h q d a off => some (encWord h (immX 6 off) 0x51 (d.code * 2 ^ 13 + a.code * 2 ^ 8 + immLow 6 off * 4 + q.val))
  | .ldh h q d a off => some (encWord h (immX 6 off) 0x52 (d.code * 2 ^ 13 + a.code * 2 ^ 8 + immLow 6 off * 4 + q.val))
  | .ldhs h q d a off => some (encWord h (immX 6 off) 0x53 (d.code * 2 ^ 13 + a.code * 2 ^ 8 + immLow 6 off * 4 + q.val))
  | .ldw h q d a off => some (encWord h (immX 6 off) 0x54 (d.code * 2 ^ 13 + a.code * 2 ^ 8 + immLow 6 off * 4 + q.val))
  | .ldd h q d a off => some (encWord h (immX 6 off) 0x55 (d.code * 2 ^ 13 + a.code * 2 ^ 8 + immLow 6 off * 4 + q.val))
  | .ldq h q d a off => some (encWord h (immX 6 off) 0x56 (d.code * 2 ^ 13 + a.code * 2 ^ 8 + immLow 6 off * 4 + q.val))
  | .stb h q a off src => some (encWord h (immX 6 off) 0x57 (src.code * 2 ^ 13 + a.code * 2 ^ 8 + immLow 6 off * 4 + natOfBool q))
  | .sth h q a off src => some (encWord h (immX 6 off) 0x58 (src.code * 2 ^ 13 + a.code * 2 ^ 8 + immLow 6 off * 4 + natOfBool q))
  | .stw h q a off src => some (encWord h (immX 6 off) 0x59 (src.code * 2 ^ 13 + a.code * 2 ^ 8 + immLow 6 off * 4 + natOfBool q))
  | .std h q a off src => some (encWord h (immX 6 off) 0x5A (src.code * 2 ^ 13 + a.code * 2 ^ 8 + immLow 6 off * 4 + natOfBool q))
  | .stq h q a off src => some (encWord h (immX 6 off) 0x5B (src.code * 2 ^ 13 + a.code * 2 ^ 8 + immLow 6 off * 4 + natOfBool q))
  | .atomiAdd h d a b => some (encWord h 0 0x5C (d.code * 2 ^ 13 + a.code * 2 ^ 8 + b.code * 2 ^ 3 + 0))
  | .atomiMin h d a b => some (encWord h 0 0x5C (d.code * 2 ^ 13 + a.code * 2 ^ 8 + b.code * 2 ^ 3 + 1))
  | .atomiMax h d a b => some (encWord h 0 0x5C (d.code * 2 ^ 13 + a.code * 2 ^ 8 + b.code * 2 ^ 3 + 2))
  | .atomiMinu h d a b => some (encWord h 0 0x5C (d.code * 2 ^ 13 + a.code * 2 ^ 8 + b.code * 2 ^ 3 + 3))
  | .atomiMaxu h d a b => some (encWord h 0 0x5C (d.code * 2 ^ 13 + a.code * 2 ^ 8 + b.code * 2 ^ 3 + 4))
  | .atomiAnd h d a b => some (encWord h 0 0x5C (d.code * 2 ^ 13 + a.code * 2 ^ 8 + b.code * 2 ^ 3 + 5))
  | .atomiOr h d a b => some (encWord h 0 0x5C (d.code * 2 ^ 13 + a.code * 2 ^ 8 + b.code * 2 ^ 3 + 6))
  | .atomiXor h d a b => some (encWord h 0 0x5C (d.code * 2 ^ 13 + a.code * 2 ^ 8 + b.code * 2 ^ 3 + 7))
  | .atomfFadd h d a b => some (encWord h 0 0x5D (d.code * 2 ^ 13 + a.code * 2 ^ 8 + b.code * 2 ^ 3 + 0))
  | .atomfFmin h d a b => some (encWord h 0 0x5D (d.code * 2 ^ 13 + a.code * 2 ^ 8 + b.code * 2 ^ 3 + 1))
  | .atomfFmax h d a b => some (encWord h 0 0x5D (d.code * 2 ^ 13 + a.code * 2 ^ 8 + b.code * 2 ^ 3 + 2))
  | .atomfBfadd2 h d a b => some (encWord h 0 0x5D (d.code * 2 ^ 13 + a.code * 2 ^ 8 + b.code * 2 ^ 3 + 3))
  | .atomfHadd2 h d a b => some (encWord h 0 0x5D (d.code * 2 ^ 13 + a.code * 2 ^ 8 + b.code * 2 ^ 3 + 4))
  | .atomfXchg h d a b => some (encWord h 0 0x5D (d.code * 2 ^ 13 + a.code * 2 ^ 8 + b.code * 2 ^ 3 + 5))
  | .cas h d a b c => some (encWord h c.code 0x5E (payR d.code a.reg.code b.reg.code a.trap b.trap false))
  | .ldx h mask d a => some (encWord h 0 0x5F (payR d.code a.reg.code mask a.trap false false))
  | .stx h mask a b => some (encWord h 0 0x60 (payR mask a.reg.code b.reg.code a.trap b.trap false))
  | .fence h mask => some (encWord h 0 0x61 (mask * 2 ^ 13))
  | .tagq h d a => some (encWord h 0 0x62 (payR d.code a.reg.code 0 a.trap false false))
  | .tagw h d a b => some (encWord h 0 0x63 (payR d.code a.reg.code b.reg.code a.trap b.trap false))
  | .fest h d a b => some (encWord h 0 0x64 (payR d.code a.reg.code b.reg.code a.trap b.trap false))
  | .pref h a b => some (encWord h 0 0x65 (payR 0 a.reg.code b.reg.code a.trap b.trap false))
  | .vany h d a => some (encWord h 0 0x68 (payR d.code a.reg.code 0 a.trap false false))
  | .vall h d a => some (encWord h 0 0x68 (payR d.code a.reg.code 1 a.trap false false))
  | .ballot h d a => some (encWord h 0 0x68 (payR d.code a.reg.code 2 a.trap false false))
  | .actm h d => some (encWord h 0 0x68 (payR d.code 0 3 false false false))
  | .first h d a => some (encWord h 0 0x68 (payR d.code a.reg.code 4 a.trap false false))
  | .count h d a => some (encWord h 0 0x68 (payR d.code a.reg.code 5 a.trap false false))
  | .wsync h => some (encWord h 0 0x68 48)
  | .shflIdx h d a b => some (encWord h 0 0x69 (payR d.code a.reg.code b.code a.trap false false))
  | .shflUp h d a b => some (encWord h 0 0x69 (payR d.code a.reg.code b.code a.trap false true))
  | .shflDown h d a b => some (encWord h 0 0x69 (payR d.code a.reg.code b.code a.trap true false))
  | .shflXor h d a b => some (encWord h 0 0x69 (payR d.code a.reg.code b.code a.trap true true))
  | .wredAdd h d a => some (encWord h 0 0x6A (payR d.code a.reg.code 0 a.trap false false))
  | .wredMin h d a => some (encWord h 0 0x6A (payR d.code a.reg.code 1 a.trap false false))
  | .wredMax h d a => some (encWord h 0 0x6A (payR d.code a.reg.code 2 a.trap false false))
  | .wredMinu h d a => some (encWord h 0 0x6A (payR d.code a.reg.code 3 a.trap false false))
  | .wredMaxu h d a => some (encWord h 0 0x6A (payR d.code a.reg.code 4 a.trap false false))
  | .wredAnd h d a => some (encWord h 0 0x6A (payR d.code a.reg.code 5 a.trap false false))
  | .wredOr h d a => some (encWord h 0 0x6A (payR d.code a.reg.code 6 a.trap false false))
  | .wredXor h d a => some (encWord h 0 0x6A (payR d.code a.reg.code 7 a.trap false false))
  | .wredFadd h d a => some (encWord h 0 0x6A (payR d.code a.reg.code 8 a.trap false false))
  | .wredFmin h d a => some (encWord h 0 0x6A (payR d.code a.reg.code 9 a.trap false false))
  | .wredFmax h d a => some (encWord h 0 0x6A (payR d.code a.reg.code 10 a.trap false false))
  | .hurdle h n => some (encWord h 0 0x6B (n.val * 8 + 0))
  | .hurdleF h n => some (encWord h 0 0x6B (n.val * 8 + 1))
  | .arrive h d a => some (encWord h 0 0x6C (payR d.code a.reg.code 0 a.trap false false))
  | .await h a b => some (encWord h 0 0x6D (payR 0 a.reg.code b.reg.code a.trap b.trap false))
  | .prog h a => some (encWord h 0 0x6E (payR 0 a.reg.code 0 a.trap false false))
  | .cont h a b => some (encWord h 0 0x6F (payR 0 a.reg.code b.reg.code a.trap b.trap false))
  | .gang h a => some (encWord h 0 0x70 (payR 0 a.reg.code 0 a.trap false false))
  | .qpush h a => some (encWord h 0 0x71 (payR 0 a.reg.code 0 a.trap false false))
  | .qpop h n d => some (encWord h 0 0x72 (payR d.code 0 n false false false))
  | .mma h z t tile a b => some (encWord h 0 0x73 (payR (tileField t tile) a.reg.code b.reg.code a.trap b.trap z))
  | .mlut h z t tile a b => some (encWord h 0 0x74 (payR (tileField t tile) a.reg.code b.reg.code a.trap b.trap z))
  | .mzero h t tile => some (encWord h 0 0x75 (payR (tileField t tile) 0 0 false false false))
  | .mload h m t tile a => some (encWord h 0 0x75 (payR (tileField t tile) a.reg.code 1 a.trap false m))
  | .mstore h m t tile a => some (encWord h 0 0x75 (payR (tileField t tile) a.reg.code 2 a.trap false m))
  | .mstoresr chain k t tile a => some (encWord (bare chain) k 0x75 (payR (tileField t tile) a.reg.code 3 a.trap false false))
  | .mstoresrGuarded chain g t tile a => some (encWord ⟨chain, some g⟩ 0 0x75 (payR (tileField t tile) a.reg.code 3 a.trap false false))
  | .xform h a b => some (encWord h 0 0x76 (payR 0 a.reg.code b.reg.code a.trap b.trap false))
  | .post h a b => some (encWord h 0 0x77 (payR 0 a.reg.code b.reg.code a.trap b.trap false))
  | .tlwait h d a => some (encWord h 0 0x78 (payR d.code a.reg.code 0 a.trap false false))
  | .tlread h d a => some (encWord h 0 0x78 (payR d.code a.reg.code 1 a.trap false false))
  | .bwaitFull h a => some (encWord h 0 0x79 (payR 0 a.reg.code 0 a.trap false false))
  | .bwaitFree h a => some (encWord h 0 0x79 (payR 0 a.reg.code 1 a.trap false false))
  | .bstate h d a => some (encWord h 0 0x79 (payR d.code a.reg.code 2 a.trap false false))
  | .brel h a => some (encWord h 0 0x79 (payR 0 a.reg.code 3 a.trap false false))
  | .boinit h d a => some (encWord h 0 0x7A (payR d.code a.reg.code 0 a.trap false false))
  | .boarr h d a => some (encWord h 0 0x7A (payR d.code a.reg.code 1 a.trap false false))
  | .boexp h d a => some (encWord h 0 0x7A (payR d.code a.reg.code 2 a.trap false false))
  | .botest h d a => some (encWord h 0 0x7A (payR d.code a.reg.code 3 a.trap false false))
  | .bowait h a => some (encWord h 0 0x7A (payR 0 a.reg.code 4 a.trap false false))
  | .crkLdf _ _ => none
  | .crkLdg _ _ => none
  | .crkLdi _ _ => none
  | .crkAdd _ _ _ => none
  | .crkSub _ _ _ => none
  | .crkMul _ _ _ => none
  | .crkMin _ _ _ => none
  | .crkMax _ _ _ => none
  | .crkAnd _ _ _ => none
  | .crkOr _ _ _ => none
  | .crkShl _ _ _ => none
  | .crkShr _ _ _ => none
  | .crkClt _ _ _ => none
  | .crkCeq _ _ _ => none
  | .crkBf _ _ => none
  | .crkBnf _ _ => none
  | .crkScore _ => none
  | .crkVerdict _ => none
  | .crkHalt => none
  | .resultLand => none
  | .randomWordDelivery => none
  | .joinlimExpiry => none
  | .threadCease => none
  | .workgroupEnd => none
  | .nestedNotice => none
  | .xfthreshNotice => none
  | .flockAbort => none
  | .timeLimitExpiry => none
  | .poolFlushTimeout => none
  | .poolDrain => none
  | .matrixOpExecute => none
  | .matrixOpComplete => none
  | .tileCopyToScratchpad => none
  | .tileCopyToTensor => none
  | .tileCopyComplete => none
  | .xformCopy => none
  | .xformCast => none
  | .xformQuant => none
  | .xformDequant => none
  | .xformTrans => none
  | .xformPack => none
  | .xformUnpack => none
  | .xformGather => none
  | .xformScatadd => none
  | .xformMxin => none
  | .xformMxout => none
  | .transformTurn => none
  | .transformComplete => none
  | .poolemptyResume => none
  | .packedChainReclaim => none
  | .logicalClockAdvance => none
  | .bulkCopy => none
  | .bulkFill => none
  | .bulkSignal => none
  | .bulkWait => none
  | .taskRun => none
  | .taskPool => none
  | .taskCopy => none
  | .taskXform => none
  | .taskOffload => none
  | .taskRecall => none
  | .taskWait => none
  | .taskSignal => none
  | .taskAlloc => none
  | .taskFree => none
  | .taskFence => none
  | .taskRepeat => none
  | .taskEndrep => none
  | .taskMark => none
  | .collRun => none
  | .collCreate => none
  | .collDestroy => none
  | .copyForward => none
  | .allocZeroFill => none
  | .taskEngineStreamComplete => none
  | .taskRetire => none
  | .taskFaultRecovery => none
  | .sqctlEnable => none
  | .sqctlResumeRetry => none
  | .sqctlResumeSkip => none
  | .sqwriteWrite => none
  | .registerWrite => none
  | .tlbinvPage => none
  | .tlbinvAll => none
  | .tlbinvComplete => none
  | .chkpush => none
  | .btvalWrite => none
  | .bqdescEnable => none
  | .bqdescDisable => none
  | .expbaseWrite => none
  | .crkctlLoad => none
  | .crkProgramActivate => none
  | .faultcmdReplay => none
  | .faultcmdCancel => none
  | .haltres => none
  | .faultRingFree => none
  | .dispatch => none
  | .preempt => none
  | .faultDecision => none
  | .crkBudgetOverrun => none
  | .sliceBoundary => none
  | .grantDeadline => none
  | .foldAreaWrite => none
  | .wholeDeviceReset => none
  | .partitionReset => none
  | .functionLevelReset => none
  | .partitionStart => none
  | .firmwareImageStart => none
  | .firmwareNudge => none
  | .firmwareCoreRestart => none
  | .bellWord => none
  | .freezePin => none
  | .freezeWrite => none
  | .powerWindow => none
  | .mbResync => none
  | .mbResume => none
  | .mbKeygen => none
  | .mbKeyassign => none
  | .mbKeyclear => none
  | .mbAttest => none
  | .mbPartcfg => none
  | .hostRead => none
  | .hostWrite => none
  | .hostAtomicCompletion => none
  | .peerAccess => none
  | .peerAccessTimeout => none
  | .uncorrFound => none
  | .mctpReadout => none
  | .mctpReadCertificate => none
  | .mctpWritePwrlim => none
  | .collSend => none
  | .collRecv => none
  | .collRrs => none
  | .collLcopy => none
  | .collCwait => none
  | .collArm => none
  | .collLoop => none
  | .collEndl => none
  | .collPeer => none
  | .collCbar => none
  | .collChunkSend => none
  | .collChunkReceive => none
  | .collCreateComplete => none
  | .collRunComplete => none
  | .collPeerAbort => none
  | .collPeerdown => none
  | .illegalWord => none
  | .fetchBeyondCodeObject => none
  | .illegalRecord => none
  | .bulkQueueError => none
  | .illegalStep => none
  | .collCbarRelease => none
  | .loadStoreDomainJoin => none
  | .storageError => none

/-- The word after a MOVL (R54). -/
def encodeLiteral : Instr → Nat
  | .movl _ _ lit => lit.toNat
  | _ => 0

/-- OPC·2^27 + D·2^23 + A·2^19 + B·2^15 + IMM (R355). -/
def encCrook (o d a b imm : Nat) : Nat := o * 2 ^ 27 + d * 2 ^ 23 + a * 2 ^ 19 + b * 2 ^ 15 + imm
/-- The word of a crook operation. -/
def encodeCrook : Instr → Option Nat
  | .crkLdf d f => some (encCrook 0x01 d.val 0 0 f.val)
  | .crkLdg d g => some (encCrook 0x02 d.val 0 0 g.val)
  | .crkLdi d imm => some (encCrook 0x03 d.val 0 0 (immLow 15 imm))
  | .crkAdd d a b => some (encCrook 0x04 d.val a.val b.val 0)
  | .crkSub d a b => some (encCrook 0x05 d.val a.val b.val 0)
  | .crkMul d a b => some (encCrook 0x06 d.val a.val b.val 0)
  | .crkMin d a b => some (encCrook 0x07 d.val a.val b.val 0)
  | .crkMax d a b => some (encCrook 0x08 d.val a.val b.val 0)
  | .crkAnd d a b => some (encCrook 0x09 d.val a.val b.val 0)
  | .crkOr d a b => some (encCrook 0x0A d.val a.val b.val 0)
  | .crkShl d a b => some (encCrook 0x0B d.val a.val b.val 0)
  | .crkShr d a b => some (encCrook 0x0C d.val a.val b.val 0)
  | .crkClt d a b => some (encCrook 0x0D d.val a.val b.val 0)
  | .crkCeq d a b => some (encCrook 0x0E d.val a.val b.val 0)
  | .crkBf a off => some (encCrook 0x0F 0 a.val 0 off)
  | .crkBnf a off => some (encCrook 0x10 0 a.val 0 off)
  | .crkScore a => some (encCrook 0x11 0 a.val 0 0)
  | .crkVerdict v => some (encCrook 0x12 0 0 0 v.val)
  | .crkHalt => some (encCrook 0x13 0 0 0 0)
  | _ => none

end Sys2Proof
end

