-- ==== Sys2Proof/Machine/Matrix.lean ====
section
/-! DEFINITION. The matrix engine: descriptors, tiles and what an operation computes (12_matrix_engine.md R271-R276,
R280-R282, R286, R291-R296; 03 R89). -/
namespace Sys2Proof.Machine
open Sys2Proof

/-! ## Descriptors (R273) -/

def Desc.fmt (d : Desc) : Nat := bitsOf d.word0.toNat 31 29
def Desc.tr (d : Desc) : Bool := d.word0.getLsbD 28
def Desc.member (d : Desc) : Nat := bitsOf d.word0.toNat 27 25
def Desc.remote (d : Desc) : Bool := d.word0.getLsbD 24
def Desc.offset (d : Desc) : Nat := bitsOf d.word0.toNat 23 0
def Desc.e (d : Desc) : Nat := bitsOf d.word1.toNat 31 24
def Desc.soff (d : Desc) : Nat := bitsOf d.word1.toNat 23 0
/-- The format a descriptor names (R274). -/
def Desc.elem (d : Desc) : Elem := (Elem.ofCode d.fmt).getD .bf16
/-- The flock index of the allocation that a descriptor names. -/
def Desc.target (d : Desc) (own : Nat) : Nat := if d.remote then d.member else own

/-- The bytes of a stored tile, and of its scale array (R274). -/
def Elem.tileBytes (f : Elem) : Nat := 512 * f.bits
def Elem.scaleBytes : Elem → Nat
  | .e4m3 | .e5m2 | .e2m1 => 8
  | .nq4 => 128
  | .int8 => 24
  | .int4 => 16
  | _ => 0

/-! ## Tiles -/

/-- A stored tile as it is read (R274-R276). -/
structure TileView where
  mem : List Host.Cell
  elem : Elem
  off : Nat
  soff : Nat
  e : Nat
  tr : Bool
  deriving DecidableEq, Repr

def TileView.byte (t : TileView) (a : Nat) : Nat := (cellGet t.mem a).toNat
/-- n bytes of the scratchpad, little-endian. -/
def TileView.num (t : TileView) (a n : Nat) : Nat := ofBytes (cellsRead t.mem a n)
/-- A nibble: the low one for even k (R72). -/
def TileView.nibble (t : TileView) (a k : Nat) : Nat := t.byte (a + k / 2) / 16 ^ (k % 2) % 16

/-- The code of stored element (row, col) (R274). -/
def TileView.code (t : TileView) (row col : Nat) : Nat :=
  let k := 64 * row + col
  if t.elem.bits = 4 then t.nibble t.off k else t.num (t.off + k * (t.elem.bits / 8)) (t.elem.bits / 8)
/-- What scales stored element (row, col) (R275). -/
def TileView.scaling (t : TileView) (row col : Nat) : Scaling :=
  let q := 4 * (row / 16) + col / 16
  { e := t.e
    delta := if t.elem.hasDelta then t.nibble t.soff q else 0
    zero := match t.elem with
      | .int8 => t.byte (t.soff + 8 + q)
      | .int4 => t.nibble (t.soff + 8) q
      | _ => 0
    sub := if t.elem = .nq4 then t.byte (t.soff + (8 * (row / 8) + col / 8)) else 0
    super := if t.elem = .nq4 then BitVec.ofNat 32 (t.num (t.soff + 64 + 4 * q) 4) else 0 }
/-- The stored place of logical element (x, y) (R276). -/
def TileView.place (t : TileView) (x y : Nat) : Nat × Nat := if t.tr then (y, x) else (x, y)
/-- Logical element (x, y), over its denominator. -/
def TileView.value (t : TileView) (x y : Nat) : Val × Nat :=
  let r := t.place x y
  elemValue t.elem (t.code r.1 r.2) (t.scaling r.1 r.2)

/-- The view of a descriptor's tile. -/
def State.view (s : State) (f m : Nat) (d : Desc) (elem : Elem) : TileView :=
  { mem := match s.wg? f (d.target m) with | some wg => wg.scratch | none => []
    elem := elem, off := d.offset, soff := d.soff, e := d.e, tr := d.tr }

/-- Element k = 64·i + j of a tile (R272). -/
def Workgroup.tileAt (wg : Workgroup) (tile k : Nat) : Word := assocGet 0 (nth [] wg.tiles tile) k
/-- A tile from its elements, in sparse form. -/
def tileOf (g : Nat → Word) : List (Nat × Word) :=
  (List.range 4096).filterMap fun k => let w := g k; if w = 0 then none else some (k, w)
/-- Replaces a tile, check bits and all (R342). -/
def State.setTile (s : State) (f m tile : Nat) (g : Nat → Word) : State :=
  (if s.bad.isEmpty then s else { s with bad := s.bad.filter fun b => b ≠ .tile f m tile }).modWg f m fun wg => { wg with tiles := modifyNth (fun _ => tileOf g) tile wg.tiles }

/-! ## What an operation computes -/

/-- One element of MMA (R286). -/
def mmaElem (c : Contract) (loose : Option Nat) (a b : TileView) (acc : Word) (i j : Nat) : Word :=
  let den := (a.value i 0).2 * (b.value 0 j).2
  accumulate c loose den acc ((List.range 64).map fun k => prod (a.value i k).1 (b.value k j).1)

/-- A sum rounded to FP32, as inside the table of MLUT (R292). -/
def sumRounded (c : Contract) (a b : Val) : Val := (finish c .fp32 (addExact a b)).v
/-- The partial sum T[g][n] of MLUT for row i (R292). -/
def lutSum (c : Contract) (a : TileView) (i g n : Nat) : Val :=
  let x (t : Nat) : Val := let v := (a.value i (4 * g + t)).1; if bitAt n t then v else v.neg
  sumRounded c (sumRounded c (sumRounded c (x 0) (x 1)) (x 2)) (x 3)
/-- One element of MLUT (R291, R292). -/
def mlutElem (c : Contract) (loose : Option Nat) (a b : TileView) (planes : Nat) (acc : Word) (i j : Nat) : Word :=
  let sc := decode .fp32 (b.num (b.soff + 4 * j) 4)
  let nib (plane g : Nat) : Nat := b.nibble (b.off + 512 * plane + 32 * g) j
  let terms := (List.range 16).flatMap fun g =>
    let t0 := prod (lutSum c a i g (nib 0 g)) sc
    if planes = 2 then [(prod (lutSum c a i g (nib 1 g)) sc).scale 1, t0] else [t0]
  accumulate c loose 1 acc (terms ++ List.replicate (64 - terms.length) (.zero false))

/-- One element of MLOAD (R294): FP32 bits kept but for a NaN, or decoded, scaled and rounded. -/
def mloadElem (c : Contract) (f32 : Bool) (t : TileView) (i j : Nat) : Word :=
  let r := t.place i j
  if f32 then
    let w := t.code r.1 r.2
    if (decode .fp32 w).isNan then BitVec.ofNat 32 Fmt.fp32.nan else BitVec.ofNat 32 w
  else
    let v := t.value i j
    match v.1 with
    | .fin s m e =>
      if m = 0 then w32 (.zero s)
      else
        let x := roundMag .fp32 .ne s m v.2 e
        w32 (if x.beyond then (if c.saturate then .fin s Fmt.fp32.maxM Fmt.fp32.maxE else .inf s) else .fin s x.m x.e)
    | w => w32 w

/-- What a store of a tile gives: the codes of the stored elements, the deltas, and its flags. -/
structure Stored where
  codes : List Nat
  deltas : List Nat
  ovf : Bool
  inv : Bool
  sat : Bool
  deriving DecidableEq, Repr

/-- The conversion of a tile to a format (R295, R296). `elem` k is logical element 64·i + j, and `mode` k its rounding. -/
def storeTile (c : Contract) (t : TileView) (elem : Nat → Word) (mode : Nat → RMode) : Stored :=
  let logical (k : Nat) : Nat := if t.tr then 64 * (k % 64) + k / 64 else k
  let square (k : Nat) : Nat := 4 * (k / 64 / 16) + k % 64 / 16
  let choices := (List.range 16).map fun q =>
    chooseDelta t.elem t.e (amaxOf (((List.range 4096).filter fun k => square k == q).map fun k => decode .fp32 (elem (logical k)).toNat))
  let one (k : Nat) : Coded :=
    let d := (nth (0, false) choices (square k)).1
    let v := decode .fp32 (elem (logical k)).toNat
    let sc := t.scaling (k / 64) (k % 64)
    if t.elem.hasDelta then
      if d = 15 then ⟨if t.elem.hasZero then sc.zero else 0, false, false, false⟩
      else elemCode c true t.elem sc.zero (mode (logical k)) (v.scale (-((t.e : Int) - 127 + d)))
    else elemCode c true t.elem 0 (mode (logical k)) v
  let all := (List.range 4096).map one
  { codes := all.map Coded.code
    deltas := if t.elem.hasDelta then choices.map Prod.fst else []
    ovf := all.any Coded.ovf
    inv := all.any Coded.inv
    sat := t.elem.hasDelta && choices.any Prod.snd }

/-- Codes packed into bytes (R72). -/
def packCodes (bits : Nat) : List Nat → List Byte
  | [] => []
  | [a] => leBytes ((bits + 7) / 8) a
  | a :: b :: rest =>
    if bits = 4 then BitVec.ofNat 8 (a % 16 + 16 * (b % 16)) :: packCodes bits rest
    else leBytes (bits / 8) a ++ packCodes bits (b :: rest)

/-- Writes bytes into a member's scratchpad and makes their granules full (R211, R281). -/
def State.engineScratch (s : State) (f tm off : Nat) (bs : List Byte) : State :=
  (s.scratchPut f tm off bs).fillRange f tm off bs.length

/-- Data whose check bits fail that an operation consumes (R342), and its address: a word of a scratchpad as a window gives it, 0 of a tile. -/
def State.matrixBad (s : State) (f m : Nat) (op : MatOp) : Option BadWord :=
  s.bad.find? fun b =>
    let inTile (d : Desc) (n sc g : Nat) : Bool :=
      (d.offset < 8 * g + 8 && 8 * g < d.offset + n) || (d.soff < 8 * g + 8 && 8 * g < d.soff + sc)
    match b with
    | .tile f' m' t => f' == f && m' == m && t == op.tile &&
        (match op.kind with | .mma | .mlut => !op.z | .mstore | .mstoresr => true | _ => false)
    | .scratch f' m' g =>
      f' == f &&
      (match op.kind with
        | .mma => (m' == op.a.target m && inTile op.a op.a.elem.tileBytes op.a.elem.scaleBytes g) || (m' == op.b.target m && inTile op.b op.b.elem.tileBytes op.b.elem.scaleBytes g)
        | .mlut => (m' == op.a.target m && inTile op.a 8192 0 g) || (m' == op.b.target m && inTile op.b (512 * (op.b.fmt + 1)) 256 g)
        | .mstore | .mstoresr => m' == op.a.target m && !op.z && op.a.elem.hasZero && inTile ⟨0, op.a.word1⟩ 0 op.a.elem.scaleBytes g
        | .mload => m' == op.a.target m && inTile op.a (if op.z then 16384 else op.a.elem.tileBytes) (if op.z then 0 else op.a.elem.scaleBytes) g
        | .mzero => false)
    | _ => false

/-- The address of a failing word of a scratchpad as a member's window gives it; 0 of anything else. -/
def BadWord.window (own : Nat) : BadWord → DWord
  | .scratch _ m w => windowOf own m (8 * w)
  | _ => 0

/-- Performs the store of a tile (R295, R296). -/
def State.storeOp (s : State) (f m : Nat) (op : MatOp) (cn : Nat) (elem : Nat → Word) (mode : Nat → RMode) : State × Stored :=
  let f32 := op.kind == .mstore && op.z
  let d := op.a
  let t := s.view f m d (if f32 then .fp32 else d.elem)
  let tm := d.target m
  if f32 then
    let codes := (List.range 4096).map fun k => (elem (if d.tr then 64 * (k % 64) + k / 64 else k)).toNat
    (s.engineScratch f tm d.offset (packCodes 32 codes), ⟨[], [], false, false, false⟩)
  else
    let r := storeTile (contractOf cn) t elem mode
    let s := s.engineScratch f tm d.offset (packCodes t.elem.bits r.codes)
    (if r.deltas.isEmpty then s else s.engineScratch f tm d.soff (packCodes 4 r.deltas), r)

/-- The engine performs an operation of a workgroup (R280-R282); Z is the M bit of the word. -/
def State.performMatrix (s : State) (f m : Nat) (op : MatOp) : State × MatOp :=
  match s.wg? f m with
  | none => (s, op)
  | some wg =>
    let cn := s.contractNo f
    let c := contractOf cn
    let done := { op with started := true }
    let old (k : Nat) : Word := if op.z then 0 else wg.tileAt op.tile k
    let loose (k : Nat) : Option Nat := if cn = 0 then some (s.fresh + k) else none
    let taken (t : State) : State := if cn = 0 then { t with fresh := t.fresh + 4096 } else t
    match op.kind with
    | .mma =>
      let a := s.view f m op.a op.a.elem
      let b := s.view f m op.b op.b.elem
      (taken (s.setTile f m op.tile fun k => mmaElem c (loose k) a b (old k) (k / 64) (k % 64)), done)
    | .mlut =>
      let a := s.view f m op.a .bf16
      let b := s.view f m op.b .bf16
      (taken (s.setTile f m op.tile fun k =>
        mlutElem c (loose k) a b (op.b.fmt + 1) (old k) (k / 64) (k % 64)), done)
    | .mzero => (s.setTile f m op.tile fun _ => 0, done)
    | .mload =>
      let t := s.view f m op.a (if op.z then .fp32 else op.a.elem)
      (s.setTile f m op.tile fun k => mloadElem c op.z t (k / 64) (k % 64), done)
    | .mstore =>
      let r := s.storeOp f m op cn (wg.tileAt op.tile) fun _ => .ne
      (r.1, { done with ovf := r.2.ovf, inv := r.2.inv, sat := r.2.sat })
    | .mstoresr =>
      let word (k : Nat) : Word :=
        s.randomFor f m op.u op.lane (op.seq + BitVec.ofNat 30 k) op.srseed
      let r := s.storeOp f m op cn (wg.tileAt op.tile) fun k => .sr op.k (word k).toNat
      (r.1, { done with ovf := r.2.ovf, inv := r.2.inv, sat := r.2.sat })

/-- The completion token of an operation (R282). -/
def MatOp.token_ (op : MatOp) : Word :=
  let kind : Nat := match op.kind with | .mma => 0 | .mlut => 1 | .mzero => 2 | .mload => 3 | .mstore => 4 | .mstoresr => 5
  BitVec.ofNat 32 (op.num * 2 ^ 16 + (if op.ovf then 1024 else 0) + (if op.inv then 512 else 0) + (if op.sat then 256 else 0) +
    kind * 16 + op.tile)

/-- Whether a waiting load of a listed warp, issued before an operation was accepted, is still to be performed (R269, R290). -/
def Flock.matrixWaits (fl : Flock) (m : Nat) (op : MatOp) : Bool :=
  fl.wgs.any fun wg => wg.waits.any fun q => q.m == m && decide (q.u < 32) && op.units.getLsbD q.u && decide (q.since ≤ op.since)
/-- The workgroups of a core whose next operation could enter the array: place, flock, member. -/
def State.matrixReady (s : State) (core : Nat) : List (Nat × Nat × Nat) :=
  s.flocks.zipIdx.flatMap fun fl =>
    if fl.1.onCores then
      fl.1.wgs.zipIdx.filterMap fun wg =>
        match wg.1.matQ with
        | op :: _ => if wg.1.core == core && !op.started && !fl.1.matrixWaits wg.2 op then some (wg.1.slot, fl.2, wg.2) else none
        | [] => none
    else []
/-- The workgroup of a core whose turn it is at the engine: the first that is ready from the place after the last one's (R280). -/
def State.matrixTurn (s : State) (core : Nat) : Option (Nat × Nat) :=
  let ready := s.matrixReady core
  let last := assocGet 0 s.matLast core
  ((List.range 4).findSome? fun k => ready.find? fun q => q.1 == (last + k) % 4).map Prod.snd

/-- The first operation of a workgroup enters the array in its core's turn, and is performed (R280, R283), all its reads and writes in this one step
(R281, log 100); one that consumes data whose check bits fail aborts the flock instead (R342). -/
def State.matrixStart (s : State) (f m : Nat) : State :=
  match s.wg? f m with
  | some wg =>
    match wg.matQ with
    | op :: rest =>
      if op.started || s.matrixTurn wg.core ≠ some (f, m) then s
      else match s.matrixBad f m op with
      | some b => s.scratchAbort f m op.u [op.lane] op.pc (b.window m)
      | none =>
        let r := { s with matLast := assocSet 0 wg.core (wg.slot + 1) s.matLast }.performMatrix f m op
        r.1.modWg f m fun wg => { wg with matQ := r.2 :: rest }
    | [] => s
  | none => s

/-- The first operation completes, with its token if it asked for one (R282). -/
def State.matrixFinish (s : State) (f m : Nat) : State :=
  s.modWg f m fun wg =>
    match wg.matQ with
    | op :: rest => if op.started then { wg with matQ := rest, q3 := if op.token then wg.q3 ++ [op.token_] else wg.q3 } else wg
    | [] => wg

end Sys2Proof.Machine
end

