-- ==== Sys2Proof/Machine/MatrixWords.lean ====
section
/-! DEFINITION. The matrix words: issue checks, the stile and acceptance (12_matrix_engine.md R278-R290, R293-R296). -/
namespace Sys2Proof.Machine
open Sys2Proof

/-- What a descriptor is used for at issue: its tile bytes and the bytes of its scale array. -/
structure DescUse where
  d : Desc
  tile : Nat
  scale : Nat
  deriving DecidableEq, Repr

/-- The window address of a byte of the allocation that a descriptor names (R284). -/
def Desc.window (d : Desc) (off : Nat) : DWord :=
  BitVec.ofNat 64 (if d.remote then 0x00FD000000000000 + d.member * 2 ^ 19 + off else 0x00FE000000000000 + off)

/-- The ALIGN check of a descriptor: the address of the first misaligned part. -/
def DescUse.misaligned (u : DescUse) : Option DWord :=
  if u.d.offset % 256 ≠ 0 then some (u.d.window u.d.offset)
  else if u.scale ≠ 0 && u.d.soff % 16 ≠ 0 then some (u.d.window u.d.soff)
  else none

/-- The PROTFAULT check of a descriptor: member, tile bytes, scale-array bytes (R284). -/
def DescUse.outside (u : DescUse) (fl : Flock) : Option DWord :=
  let dead : Bool := if u.d.remote then (match fl.wgs[u.d.member]? with | some wg => wg.ended | none => true) else u.d.member != 0
  if dead || decide (fl.launch.scratch < u.d.offset + u.tile) then some (u.d.window u.d.offset)
  else if u.scale ≠ 0 && decide (fl.launch.scratch < u.d.soff + u.scale) then some (u.d.window u.d.soff)
  else none

/-- The first failing issue check of R284 but for the gang rules: its cause and address. -/
def matrixCheck (fl : Flock) (uses : List DescUse) (tile : Nat) (fmtBad : Bool) : Option (Nat × DWord) :=
  match uses.findSome? DescUse.misaligned with
  | some a => some (causeAlign, a)
  | none =>
    match uses.findSome? fun u => u.outside fl with
    | some a => some (causeProtfault, a)
    | none =>
      if fl.launch.acc ≤ tile then some (causeProtfault, BitVec.ofNat 64 tile)
      else if fmtBad then some (causeFmtbad, 0)
      else none

/-- A matrix word's descriptor, from a w pair. -/
def descOf (lo hi : Word) : Desc := ⟨lo, hi⟩
/-- A descriptor used as a tile of its own format. -/
def Desc.use (d : Desc) : DescUse := ⟨d, d.elem.tileBytes, d.elem.scaleBytes⟩

/-- Operations of a core's engine that have not completed (R279). -/
def State.coreOps (s : State) (core : Nat) : Nat := (s.coreWgs core).foldl (fun a wg => a + wg.matQ.length) 0

/-- An operation before its acceptance. -/
def MatOp.new (kind : MatKind) (z token : Bool) (tile : Nat) (a b : Desc) : MatOp where
  kind := kind
  z := z
  token := token
  tile := tile
  a := a
  b := b
  num := 0
  k := 0
  u := 0
  lane := 0
  seq := 0
  srseed := 0
  started := false
  ovf := false
  inv := false
  sat := false

/-- Whether the engine cannot accept an operation yet: 16 operations, or 64 tokens (R279, R282). -/
def State.engineFull (s : State) (wg : Workgroup) (op : MatOp) : Bool :=
  decide (16 ≤ s.coreOps wg.core) || (op.token && decide (64 ≤ wg.q3asked))

/-- Accepts an operation of a workgroup (R279), which releases the earlier accesses of the issuing thread, or of every listed warp. -/
def State.acceptMatrix (s : State) (c : Issue) (lane : Nat) (units : Word) (op : MatOp) : State :=
  let t := s.live c lane
  s.modWg c.f c.m fun wg =>
    { wg with
      opnum := wg.opnum + 1
      q3asked := if op.token then wg.q3asked + 1 else wg.q3asked
      matQ := wg.matQ ++ [{ op with
        num := wg.opnum.toNat, u := c.u, lane := lane, seq := t.seq, srseed := t.srseed, units := units, since := s.cycle, pc := c.pc }] }

/-- The open round of a mask. -/
def Workgroup.roundOf (wg : Workgroup) (mask : Word) : Option Round := wg.rounds.find? fun r => r.mask == mask

/-- The threads held at the stile in the warps of a mask are held there no longer, but as told. -/
def Workgroup.moveStile (wg : Workgroup) (mask : Word) (h : Hold) : Workgroup :=
  { wg with warps := wg.warps.zipIdx.map fun q =>
      if mask.getLsbD q.2 then { q.1 with threads := q.1.threads.map fun t => if t.hold == .stile then { t with hold := h } else t } else q.1 }
/-- A round completes: the threads held in it are released (R288). -/
def Workgroup.releaseStile (wg : Workgroup) (mask : Word) : Workgroup := wg.moveStile mask .stilePast
/-- Whether a listed warp of a round has ended without arriving (R289). -/
def Workgroup.roundFails (wg : Workgroup) (r : Round) : Bool :=
  (List.range 32).any fun k => r.mask.getLsbD k && !r.arrived.getLsbD k && (match wg.warps[k]? with | some w => w.allEnded | none => true)
/-- Closes the stile rounds of which a listed warp has ended without arriving; every arrival held there raises GANGBAD (R289). -/
def Workgroup.closeRounds (wg : Workgroup) : Workgroup :=
  (wg.rounds.filter wg.roundFails).foldl (fun w r => { w.moveStile r.mask .stileBad with rounds := w.rounds.erase r }) wg

/-- A gang arrival (R288, R289): held until every warp of its mask has arrived; the last arrival accepts the operation. What a group that
is held or has been released does is gangHeld's. -/
def State.gangArrive (s : State) (c : Issue) (lanes : List Nat) (thread : Nat) (wg : Workgroup) (op : MatOp) : State :=
  let mask := c.snap.gang
  let key := [if op.kind = .mma then 0 else 1, op.tile, if op.z then 1 else 0, if op.token then 1 else 0,
    op.a.word0.toNat, op.a.word1.toNat, op.b.word0.toNat, op.b.word1.toNat]
  let bad := s.trapLanes lanes causeGangbad 0
  let others := wg.rounds.filter fun r => r.mask ≠ mask
  if (c.snap.thread (lowest c.group)).trapMode then bad
  else if others.any fun r => r.mask &&& mask ≠ 0 then bad
  else
    let r := (wg.roundOf mask).getD ⟨mask, key, 0⟩
    if r.op ≠ key || r.arrived.getLsbD c.u then bad
    else if !c.going && (wg.roundOf mask).isNone && decide (4 ≤ wg.rounds.length) then s.holdGroup .wait
    else
      let arrived := r.arrived ||| BitVec.ofNat 32 (2 ^ c.u)
      if arrived = mask then
        if !c.going && s.engineFull wg op then s.holdGroup .wait
        else (s.acceptMatrix c thread mask op).modWg c.f c.m fun wg => { wg.releaseStile mask with rounds := others }
      else (s.modWg c.f c.m fun wg => { wg with rounds := others ++ [{ r with arrived := arrived }] }).holdGroup .stile

/-- A group of which a thread is held at the stile, or has been released from it (R288, R289): it keeps its place in the round that its arrival
joined, whatever its warp's gang register has become; released, it issues; if its round has closed, it raises GANGBAD. -/
def State.gangHeld (s : State) (c : Issue) (lanes : List Nat) : Option State :=
  let holds := c.group.map fun l => (c.snap.thread l).hold
  if holds.contains .stilePast then some s
  else if holds.contains .stileBad then some (s.trapLanes lanes causeGangbad 0)
  else if holds.contains .stile then some (s.holdGroup .stile)
  else none

/-- A matrix word that executes: once, for its group (R278), after the checks of R284. It follows the waiting loads of the thread that issues it
(R242, R269, R279); matrixStart waits for those of the threads of listed warps (R290). -/
def matrixWord (s : State) (h : Head) (uses : List Use) (gang : Bool) (adv : Nat) (make : List Word → MatOp)
    (descs : MatOp → List DescUse) (fmtBad : Nat → MatOp → Bool) : Outcome :=
  onIssue s fun c s => beginAll s c h uses [] fun all lanes s =>
    let thread := lowest all
    let op := make (c.values thread uses)
    match s.flock? c.f, s.wg? c.f c.m with
    | some fl, some wg =>
      match if gang then s.gangHeld c lanes else none with
      | some s => s
      | none =>
        match matrixCheck fl (descs op) op.tile (fmtBad fl.launch.contract op) with
        | some r => s.trapLanes lanes r.1 r.2
        | none =>
          if !c.going && s.waiting c thread then s.block
          else if gang && !c.isHerder && c.snap.gang ≠ 0 then s.gangArrive c lanes thread wg op
          else if !c.going && s.engineFull wg op then s.holdGroup .wait
          else (s.acceptMatrix c thread 0 op).advanceSeq c thread adv
    | _, _ => s

/-- MSTORESR, in either form (R296). -/
def storeRandom (s : State) (h : Head) (k : Nat) (t : Bool) (tile : Fin 8) (a : Src) : Outcome :=
  matrixWord s h [pair a] false 4096
    (fun xs => { MatOp.new .mstoresr false t tile.val (descOf (x0 xs) (x1 xs)) ⟨0, 0⟩ with k := k })
    (fun op => [op.a.use]) fun cn op => decide (4 < op.a.fmt) || !op.a.elem.admitted cn

/-- MMA (R286). -/
def execMma (h : Head) (z t : Bool) (tile : Fin 8) (a b : Src) (s : State) : Outcome :=
  matrixWord s h [pair a, pair b] true 0
    (fun xs => .new .mma z t tile.val (descOf (x0 xs) (x1 xs)) (descOf (x2 xs) (x3 xs)))
    (fun op => [op.a.use, op.b.use]) fun cn op => !op.a.elem.admitted cn || !op.b.elem.admitted cn

/-- MLUT (R291): BF16 by one or two weight planes and 64 column scales. A FMT that names neither has a tile of no bytes in the range check
(log 101). -/
def execMlut (h : Head) (z t : Bool) (tile : Fin 8) (a b : Src) (s : State) : Outcome :=
  matrixWord s h [pair a, pair b] true 0
    (fun xs => .new .mlut z t tile.val (descOf (x0 xs) (x1 xs)) (descOf (x2 xs) (x3 xs)))
    (fun op => [op.a.use, ⟨op.b, if op.b.fmt ≤ 1 then 512 * (op.b.fmt + 1) else 0, 256⟩])
    fun cn op => !admitsFour cn || op.a.fmt != 0 || decide (1 < op.b.fmt) || op.b.tr

/-- MZERO (R293). -/
def execMzero (h : Head) (t : Bool) (tile : Fin 8) (s : State) : Outcome :=
  matrixWord s h [] false 0 (fun _ => .new .mzero false t tile.val ⟨0, 0⟩ ⟨0, 0⟩) (fun _ => []) fun _ _ => false

/-- MLOAD (R294). -/
def execMload (h : Head) (m t : Bool) (tile : Fin 8) (a : Src) (s : State) : Outcome :=
  matrixWord s h [pair a] false 0 (fun xs => .new .mload m t tile.val (descOf (x0 xs) (x1 xs)) ⟨0, 0⟩)
    (fun op => [if m then ⟨op.a, 16384, 0⟩ else op.a.use]) fun cn op => !m && !op.a.elem.admitted cn

/-- MSTORE (R295). -/
def execMstore (h : Head) (m t : Bool) (tile : Fin 8) (a : Src) (s : State) : Outcome :=
  matrixWord s h [pair a] false 0 (fun xs => .new .mstore m t tile.val (descOf (x0 xs) (x1 xs)) ⟨0, 0⟩)
    (fun op => [if m then ⟨op.a, 16384, 0⟩ else op.a.use]) fun cn op => !m && (op.a.fmt == 5 || !op.a.elem.admitted cn)

/-- MSTORESR, unguarded, with k from X (R296). -/
def execMstoresr (chain : Bool) (k : Nat) (t : Bool) (tile : Fin 8) (a : Src) (s : State) : Outcome :=
  storeRandom s ⟨chain, none⟩ k t tile a

/-- MSTORESR, guarded, with k = 24 (R296). -/
def execMstoresrGuarded (chain : Bool) (g : Guard) (t : Bool) (tile : Fin 8) (a : Src) (s : State) : Outcome :=
  storeRandom s ⟨chain, some g⟩ 24 t tile a

end Sys2Proof.Machine
end

