-- ==== Sys2Proof/Machine/Roles.lean ====
section
/-! DEFINITION. The registers and guards that each thread word names, for the CHAINHAZ check of debug mode
(02_formats_and_assembly.md R56): all that the word alone says. -/
namespace Sys2Proof.Machine
open Sys2Proof

/-- The registers a word reads and writes, the guards it reads and writes, and its guard. -/
structure Roles where
  reads : List Reg
  writes : List Reg
  guardsRead : List Nat
  guardsWritten : List Nat
  guard : Option Guard
  deriving DecidableEq, Repr

/-- The guard a head names, as a list. -/
def headGuards (h : Head) : List Nat := match h.guard with | some g => [g.index.val] | none => []

/-- The roles of a thread word; none for the rows that are not thread words. -/
def rolesOf : Instr → Option Roles
  | .iadd h d a b => some ⟨[a.reg] ++ [b.reg], [d], headGuards h, [], h.guard⟩
  | .isub h d a b => some ⟨[a.reg] ++ [b.reg], [d], headGuards h, [], h.guard⟩
  | .imul h d a b => some ⟨[a.reg] ++ [b.reg], [d], headGuards h, [], h.guard⟩
  | .imulh h _ d a b => some ⟨[a.reg] ++ [b.reg], [d], headGuards h, [], h.guard⟩
  | .imad h d a b c => some ⟨[a.reg] ++ [b.reg] ++ [c], [d], headGuards h, [], h.guard⟩
  | .imin h _ d a b => some ⟨[a.reg] ++ [b.reg], [d], headGuards h, [], h.guard⟩
  | .imax h _ d a b => some ⟨[a.reg] ++ [b.reg], [d], headGuards h, [], h.guard⟩
  | .and h d a b => some ⟨[a.reg] ++ [b.reg], [d], headGuards h, [], h.guard⟩
  | .or h d a b => some ⟨[a.reg] ++ [b.reg], [d], headGuards h, [], h.guard⟩
  | .xor h d a b => some ⟨[a.reg] ++ [b.reg], [d], headGuards h, [], h.guard⟩
  | .andn h d a b => some ⟨[a.reg] ++ [b.reg], [d], headGuards h, [], h.guard⟩
  | .shl h d a b => some ⟨[a.reg] ++ [b.reg], [d], headGuards h, [], h.guard⟩
  | .shr h d a b => some ⟨[a.reg] ++ [b.reg], [d], headGuards h, [], h.guard⟩
  | .sar h d a b => some ⟨[a.reg] ++ [b.reg], [d], headGuards h, [], h.guard⟩
  | .rotl h d a b => some ⟨[a.reg] ++ [b.reg], [d], headGuards h, [], h.guard⟩
  | .fshr h d a b c => some ⟨[a.reg] ++ [b.reg] ++ [c], [d], headGuards h, [], h.guard⟩
  | .bfe h _ d a b => some ⟨[a.reg] ++ [b.reg], [d], headGuards h, [], h.guard⟩
  | .bfi h d a b c => some ⟨[a.reg] ++ [b.reg] ++ [c], [d], headGuards h, [], h.guard⟩
  | .bshuf h d a b c => some ⟨[a.reg] ++ [b.reg] ++ [c], [d], headGuards h, [], h.guard⟩
  | .sel _ g _ d a b => some ⟨[a.reg] ++ [b.reg], [d], [g.val], [], none⟩
  | .iadd64 h d a b => some ⟨regSpan a.reg 2 ++ regSpan b.reg 2, regSpan d 2, headGuards h, [], h.guard⟩
  | .lea64 _ _ d a b => some ⟨regSpan a.reg 2 ++ [b.reg], regSpan d 2, [], [], none⟩
  | .lea64s _ _ d a b => some ⟨regSpan a.reg 2 ++ [b.reg], regSpan d 2, [], [], none⟩
  | .mov h d a => some ⟨[a.reg], [d], headGuards h, [], h.guard⟩
  | .not h d a => some ⟨[a.reg], [d], headGuards h, [], h.guard⟩
  | .ineg h d a => some ⟨[a.reg], [d], headGuards h, [], h.guard⟩
  | .iabs h d a => some ⟨[a.reg], [d], headGuards h, [], h.guard⟩
  | .popc h d a => some ⟨[a.reg], [d], headGuards h, [], h.guard⟩
  | .clz h d a => some ⟨[a.reg], [d], headGuards h, [], h.guard⟩
  | .brev h d a => some ⟨[a.reg], [d], headGuards h, [], h.guard⟩
  | .ctz h d a => some ⟨[a.reg], [d], headGuards h, [], h.guard⟩
  | .addi h d a _ => some ⟨[a], [d], headGuards h, [], h.guard⟩
  | .andi h d a _ => some ⟨[a], [d], headGuards h, [], h.guard⟩
  | .ori h d a _ => some ⟨[a], [d], headGuards h, [], h.guard⟩
  | .xori h d a _ => some ⟨[a], [d], headGuards h, [], h.guard⟩
  | .shli h d a _ => some ⟨[a], [d], headGuards h, [], h.guard⟩
  | .shri h d a _ => some ⟨[a], [d], headGuards h, [], h.guard⟩
  | .sari h d a _ => some ⟨[a], [d], headGuards h, [], h.guard⟩
  | .muli h d a _ => some ⟨[a], [d], headGuards h, [], h.guard⟩
  | .movi h d _ => some ⟨[], [d], headGuards h, [], h.guard⟩
  | .movl h d _ => some ⟨[], [d], headGuards h, [], h.guard⟩
  | .icmp h k gd _ a b => some ⟨[a, b], [], headGuards h ++ (if k then [gd.val] else []), [gd.val], h.guard⟩
  | .icmpi h k gd _ a _ => some ⟨[a], [], headGuards h ++ (if k then [gd.val] else []), [gd.val], h.guard⟩
  | .fcmp h k gd _ a b => some ⟨[a, b], [], headGuards h ++ (if k then [gd.val] else []), [gd.val], h.guard⟩
  | .plop h gd ga gb _ => some ⟨[], [], headGuards h ++ [ga.val, gb.val], [gd.val], h.guard⟩
  | .pmov h d a b => some ⟨[a.reg] ++ [b.reg], [d], headGuards h ++ List.range 16, List.range 16, h.guard⟩
  | .fadd h d a b => some ⟨[a.reg] ++ [b.reg], [d], headGuards h, [], h.guard⟩
  | .fsub h d a b => some ⟨[a.reg] ++ [b.reg], [d], headGuards h, [], h.guard⟩
  | .fmul h d a b => some ⟨[a.reg] ++ [b.reg], [d], headGuards h, [], h.guard⟩
  | .ffma h d a b c => some ⟨[a.reg] ++ [b.reg] ++ [c], [d], headGuards h, [], h.guard⟩
  | .fmin h d a b => some ⟨[a.reg] ++ [b.reg], [d], headGuards h, [], h.guard⟩
  | .fmax h d a b => some ⟨[a.reg] ++ [b.reg], [d], headGuards h, [], h.guard⟩
  | .frndNe h d a => some ⟨[a.reg], [d], headGuards h, [], h.guard⟩
  | .frndFl h d a => some ⟨[a.reg], [d], headGuards h, [], h.guard⟩
  | .frndCe h d a => some ⟨[a.reg], [d], headGuards h, [], h.guard⟩
  | .frndTr h d a => some ⟨[a.reg], [d], headGuards h, [], h.guard⟩
  | .hadd2 h _ d a b => some ⟨[a.reg] ++ [b.reg], [d], headGuards h, [], h.guard⟩
  | .hmul2 h _ d a b => some ⟨[a.reg] ++ [b.reg], [d], headGuards h, [], h.guard⟩
  | .hfma2 h _ d a b c => some ⟨[a.reg] ++ [b.reg] ++ [c], [d], headGuards h, [], h.guard⟩
  | .hmin2 h _ d a b => some ⟨[a.reg] ++ [b.reg], [d], headGuards h, [], h.guard⟩
  | .hmax2 h _ d a b => some ⟨[a.reg] ++ [b.reg], [d], headGuards h, [], h.guard⟩
  | .rcp h d a => some ⟨[a.reg], [d], headGuards h, [], h.guard⟩
  | .rsq h d a => some ⟨[a.reg], [d], headGuards h, [], h.guard⟩
  | .sqrt h d a => some ⟨[a.reg], [d], headGuards h, [], h.guard⟩
  | .exp2 h d a => some ⟨[a.reg], [d], headGuards h, [], h.guard⟩
  | .log2 h d a => some ⟨[a.reg], [d], headGuards h, [], h.guard⟩
  | .sin h d a => some ⟨[a.reg], [d], headGuards h, [], h.guard⟩
  | .cos h d a => some ⟨[a.reg], [d], headGuards h, [], h.guard⟩
  | .tanh h d a => some ⟨[a.reg], [d], headGuards h, [], h.guard⟩
  | .cvt h code d a => some ⟨(if code = 8 || code = 9 then regSpan a.reg 2 else [a.reg]), [d], headGuards h, [], h.guard⟩
  | .cvtsr _ _ _ d a => some ⟨[a.reg], [d], [], [], none⟩
  | .fpack h d a b => some ⟨[a.reg] ++ [b.reg], [d], headGuards h, [], h.guard⟩
  | .funpk h _ d a => some ⟨[a.reg], [d], headGuards h, [], h.guard⟩
  | .qexp h d a b => some ⟨[a.reg] ++ [b.reg], [d], headGuards h, [], h.guard⟩
  | .qcvt h d a b => some ⟨[a.reg] ++ [b.reg], [d], headGuards h, [], h.guard⟩
  | .bra h _ => some ⟨[], [], headGuards h, [], h.guard⟩
  | .brx h a => some ⟨[a.reg], [], headGuards h, [], h.guard⟩
  | .call h _ => some ⟨[], [.v 23], headGuards h, [], h.guard⟩
  | .ret h => some ⟨[.v 23], [], headGuards h, [], h.guard⟩
  | .join h => some ⟨[], [], headGuards h, [], h.guard⟩
  | .yield h => some ⟨[], [], headGuards h, [], h.guard⟩
  | .exit h => some ⟨[], [], headGuards h, [], h.guard⟩
  | .trap h _ => some ⟨[], [], headGuards h, [], h.guard⟩
  | .tret h => some ⟨[], [], headGuards h, [], h.guard⟩
  | .bkpt h _ => some ⟨[], [], headGuards h, [], h.guard⟩
  | .nop h => some ⟨[], [], headGuards h, [], h.guard⟩
  | .movs h _ d => some ⟨[], [d], headGuards h, [], h.guard⟩
  | .movcRead h _ d => some ⟨[], [d], headGuards h, [], h.guard⟩
  | .movcWrite h _ a => some ⟨[a.reg], [], headGuards h, [], h.guard⟩
  | .brdq h _ => some ⟨[], [], headGuards h, [], h.guard⟩
  | .dqpush h a => some ⟨[a.reg], [], headGuards h, [], h.guard⟩
  | .dqpop h d => some ⟨[], [d], headGuards h, [], h.guard⟩
  | .ldb h _ d a _ => some ⟨regSpan a 2, [d], headGuards h, [], h.guard⟩
  | .ldbs h _ d a _ => some ⟨regSpan a 2, [d], headGuards h, [], h.guard⟩
  | .ldh h _ d a _ => some ⟨regSpan a 2, [d], headGuards h, [], h.guard⟩
  | .ldhs h _ d a _ => some ⟨regSpan a 2, [d], headGuards h, [], h.guard⟩
  | .ldw h _ d a _ => some ⟨regSpan a 2, [d], headGuards h, [], h.guard⟩
  | .ldd h _ d a _ => some ⟨regSpan a 2, regSpan d 2, headGuards h, [], h.guard⟩
  | .ldq h _ d a _ => some ⟨regSpan a 2, regSpan d 4, headGuards h, [], h.guard⟩
  | .stb h _ a _ src => some ⟨regSpan a 2 ++ [src], [], headGuards h, [], h.guard⟩
  | .sth h _ a _ src => some ⟨regSpan a 2 ++ [src], [], headGuards h, [], h.guard⟩
  | .stw h _ a _ src => some ⟨regSpan a 2 ++ [src], [], headGuards h, [], h.guard⟩
  | .std h _ a _ src => some ⟨regSpan a 2 ++ regSpan src 2, [], headGuards h, [], h.guard⟩
  | .stq h _ a _ src => some ⟨regSpan a 2 ++ regSpan src 4, [], headGuards h, [], h.guard⟩
  | .atomiAdd h d a b => some ⟨regSpan a 2 ++ [b], [d], headGuards h, [], h.guard⟩
  | .atomiMin h d a b => some ⟨regSpan a 2 ++ [b], [d], headGuards h, [], h.guard⟩
  | .atomiMax h d a b => some ⟨regSpan a 2 ++ [b], [d], headGuards h, [], h.guard⟩
  | .atomiMinu h d a b => some ⟨regSpan a 2 ++ [b], [d], headGuards h, [], h.guard⟩
  | .atomiMaxu h d a b => some ⟨regSpan a 2 ++ [b], [d], headGuards h, [], h.guard⟩
  | .atomiAnd h d a b => some ⟨regSpan a 2 ++ [b], [d], headGuards h, [], h.guard⟩
  | .atomiOr h d a b => some ⟨regSpan a 2 ++ [b], [d], headGuards h, [], h.guard⟩
  | .atomiXor h d a b => some ⟨regSpan a 2 ++ [b], [d], headGuards h, [], h.guard⟩
  | .atomfFadd h d a b => some ⟨regSpan a 2 ++ [b], [d], headGuards h, [], h.guard⟩
  | .atomfFmin h d a b => some ⟨regSpan a 2 ++ [b], [d], headGuards h, [], h.guard⟩
  | .atomfFmax h d a b => some ⟨regSpan a 2 ++ [b], [d], headGuards h, [], h.guard⟩
  | .atomfBfadd2 h d a b => some ⟨regSpan a 2 ++ [b], [d], headGuards h, [], h.guard⟩
  | .atomfHadd2 h d a b => some ⟨regSpan a 2 ++ [b], [d], headGuards h, [], h.guard⟩
  | .atomfXchg h d a b => some ⟨regSpan a 2 ++ [b], [d], headGuards h, [], h.guard⟩
  | .cas h d a b c => some ⟨regSpan a.reg 2 ++ [b.reg] ++ [c], [d], headGuards h, [], h.guard⟩
  | .ldx h _ d a => some ⟨regSpan a.reg 2, [d], headGuards h, [], h.guard⟩
  | .stx h _ a b => some ⟨regSpan a.reg 2 ++ [b.reg], [], headGuards h, [], h.guard⟩
  | .fence h _ => some ⟨[], [], headGuards h, [], h.guard⟩
  | .tagq h d a => some ⟨[a.reg], [d], headGuards h, [], h.guard⟩
  | .tagw h d a b => some ⟨[a.reg] ++ [b.reg], regSpan d 2, headGuards h, [], h.guard⟩
  | .fest h d a b => some ⟨regSpan a.reg 2 ++ [b.reg], [d], headGuards h, [], h.guard⟩
  | .pref h a b => some ⟨regSpan a.reg 2 ++ [b.reg], [], headGuards h, [], h.guard⟩
  | .vany h d a => some ⟨[a.reg], [d], headGuards h, [], h.guard⟩
  | .vall h d a => some ⟨[a.reg], [d], headGuards h, [], h.guard⟩
  | .ballot h d a => some ⟨[a.reg], [d], headGuards h, [], h.guard⟩
  | .actm h d => some ⟨[], [d], headGuards h, [], h.guard⟩
  | .first h d a => some ⟨[a.reg], [d], headGuards h, [], h.guard⟩
  | .count h d a => some ⟨[a.reg], [d], headGuards h, [], h.guard⟩
  | .wsync h => some ⟨[], [], headGuards h, [], h.guard⟩
  | .shflIdx h d a b => some ⟨[a.reg] ++ [b], [d], headGuards h, [], h.guard⟩
  | .shflUp h d a b => some ⟨[a.reg] ++ [b], [d], headGuards h, [], h.guard⟩
  | .shflDown h d a b => some ⟨[a.reg] ++ [b], [d], headGuards h, [], h.guard⟩
  | .shflXor h d a b => some ⟨[a.reg] ++ [b], [d], headGuards h, [], h.guard⟩
  | .wredAdd h d a => some ⟨[a.reg], [d], headGuards h, [], h.guard⟩
  | .wredMin h d a => some ⟨[a.reg], [d], headGuards h, [], h.guard⟩
  | .wredMax h d a => some ⟨[a.reg], [d], headGuards h, [], h.guard⟩
  | .wredMinu h d a => some ⟨[a.reg], [d], headGuards h, [], h.guard⟩
  | .wredMaxu h d a => some ⟨[a.reg], [d], headGuards h, [], h.guard⟩
  | .wredAnd h d a => some ⟨[a.reg], [d], headGuards h, [], h.guard⟩
  | .wredOr h d a => some ⟨[a.reg], [d], headGuards h, [], h.guard⟩
  | .wredXor h d a => some ⟨[a.reg], [d], headGuards h, [], h.guard⟩
  | .wredFadd h d a => some ⟨[a.reg], [d], headGuards h, [], h.guard⟩
  | .wredFmin h d a => some ⟨[a.reg], [d], headGuards h, [], h.guard⟩
  | .wredFmax h d a => some ⟨[a.reg], [d], headGuards h, [], h.guard⟩
  | .hurdle h _ => some ⟨[], [], headGuards h, [], h.guard⟩
  | .hurdleF h _ => some ⟨[], [], headGuards h, [], h.guard⟩
  | .arrive h d a => some ⟨[a.reg], [d], headGuards h, [], h.guard⟩
  | .await h a b => some ⟨[a.reg] ++ [b.reg], [], headGuards h, [], h.guard⟩
  | .prog h a => some ⟨[a.reg], [], headGuards h, [], h.guard⟩
  | .cont h a b => some ⟨[a.reg] ++ [b.reg], [], headGuards h, [], h.guard⟩
  | .gang h a => some ⟨[a.reg], [], headGuards h, [], h.guard⟩
  | .qpush h a => some ⟨[a.reg], [], headGuards h, [], h.guard⟩
  | .qpop h _ d => some ⟨[], [d], headGuards h, [], h.guard⟩
  | .mma h _ _ _ a b => some ⟨regSpan a.reg 2 ++ regSpan b.reg 2, [], headGuards h, [], h.guard⟩
  | .mlut h _ _ _ a b => some ⟨regSpan a.reg 2 ++ regSpan b.reg 2, [], headGuards h, [], h.guard⟩
  | .mzero h _ _ => some ⟨[], [], headGuards h, [], h.guard⟩
  | .mload h _ _ _ a => some ⟨regSpan a.reg 2, [], headGuards h, [], h.guard⟩
  | .mstore h _ _ _ a => some ⟨regSpan a.reg 2, [], headGuards h, [], h.guard⟩
  | .mstoresr _ _ _ _ a => some ⟨regSpan a.reg 2, [], [], [], none⟩
  | .mstoresrGuarded _ g _ _ a => some ⟨regSpan a.reg 2, [], [g.index.val], [], some g⟩
  | .xform h a b => some ⟨regSpan a.reg 2 ++ regSpan b.reg 2, [], headGuards h, [], h.guard⟩
  | .post h a b => some ⟨[a.reg] ++ regSpan b.reg 2, [], headGuards h, [], h.guard⟩
  | .tlwait h d a => some ⟨[a.reg] ++ regSpan d 2, [], headGuards h, [], h.guard⟩
  | .tlread h d a => some ⟨[a.reg], regSpan d 2, headGuards h, [], h.guard⟩
  | .bwaitFull h a => some ⟨[a.reg], [], headGuards h, [], h.guard⟩
  | .bwaitFree h a => some ⟨[a.reg], [], headGuards h, [], h.guard⟩
  | .bstate h d a => some ⟨[a.reg], [d], headGuards h, [], h.guard⟩
  | .brel h a => some ⟨[a.reg], [], headGuards h, [], h.guard⟩
  | .boinit h d a => some ⟨regSpan a.reg 2, [d], headGuards h, [], h.guard⟩
  | .boarr h d a => some ⟨regSpan a.reg 2, [d], headGuards h, [], h.guard⟩
  | .boexp h d a => some ⟨regSpan a.reg 2, [d], headGuards h, [], h.guard⟩
  | .botest h d a => some ⟨[a.reg], [d], headGuards h, [], h.guard⟩
  | .bowait h a => some ⟨regSpan a.reg 2, [], headGuards h, [], h.guard⟩
  | _ => none

/-- Whether a word collides with a lower slot of its chain (R56): it reads, or writes again, what the other writes. -/
def Roles.collides (low high : Roles) : Bool :=
  (high.reads.any low.writes.contains) || (high.writes.any low.writes.contains) ||
    (high.guardsRead.any low.guardsWritten.contains) || (high.guardsWritten.any low.guardsWritten.contains)

end Sys2Proof.Machine
end

