-- ==== Sys2Proof/Machine/Sync.lean ====
section
/-! DEFINITION. Hurdles (06_parallel_instructions.md R170-R174). -/
namespace Sys2Proof.Machine
open Sys2Proof

/-- The bit of a hurdle in a thread's record of arrivals (R346). -/
def hurdleBit (flock : Bool) (h : Nat) : Nat := if flock then 16 + h else h

/-- The phase count of a hurdle (R170). -/
def State.phase (s : State) (f m : Nat) (flock : Bool) (h : Nat) : Word :=
  if flock then (match s.flock? f with | some fl => nth 0 fl.hurdles h | none => 0)
  else (match s.wg? f m with | some wg => nth 0 wg.hurdles h | none => 0)

/-- Whether a thread has arrived in the current phase. -/
def Thread.hasArrived (t : Thread) (flock : Bool) (h : Nat) : Bool := t.arrived.getLsbD (hurdleBit flock h)
/-- The arrival of a thread. -/
def Thread.arrive (t : Thread) (flock : Bool) (h : Nat) : Thread := { t with arrived := setBit t.arrived (hurdleBit flock h) true }

/-- What a completed phase does to a thread: its arrival is used up; held at the hurdle, it goes on, or arrives in the
next phase (R170, R171). -/
def Thread.phaseDone (flock : Bool) (h : Nat) (t : Thread) : Thread :=
  let t := { t with arrived := setBit t.arrived (hurdleBit flock h) false }
  match t.hold with
  | .hurdle fl k left again =>
    if fl == flock && k == h then
      if left ≤ 1 then { t with hold := .none }
      else
        let t := { t with hold := .hurdle fl k (left - 1) false }
        if again then t.arrive flock h else t
    else t
  | _ => t

/-- Changes every waiting load of a flock. -/
def Flock.modWaits (fl : Flock) (g : WaitLoad → WaitLoad) : Flock := { fl with wgs := fl.wgs.map fun wg => { wg with waits := wg.waits.map g } }
/-- The thread of a waiting load's lane. -/
def Flock.threadOf (fl : Flock) (m u lane : Nat) : Thread :=
  match (fl.wgs[m]?).bind fun wg => wg.unit? u with | some w => w.thread lane | none => Thread.missing
/-- Threads that arrive at a hurdle owe it their waiting loads, which are to be performed before it releases anyone (R174). -/
def Flock.owe (fl : Flock) (b : Nat) (who : Nat → Nat → Nat → Bool) : Flock :=
  fl.modWaits fun q => if q.lanes.any (who q.m q.u) then { q with owes := setBit q.owes b true } else q
/-- Whether a live participant has still to perform a load that it issued before its arrival (R174). -/
def Flock.owed (fl : Flock) (b : Nat) (member : Nat → Bool) : Bool :=
  fl.wgs.any fun wg => wg.waits.any fun q =>
    q.owes.getLsbD b && member q.m && q.lanes.any fun l => (fl.threadOf q.m q.u l).live

/-- Whether a phase completes: a live warp thread has arrived, and every one has (R170). -/
def phaseComplete (flock : Bool) (h : Nat) (ws : List Warp) : Bool :=
  let ts := ws.flatMap fun w => w.threads.filter Thread.live
  (ts.any fun t => t.hasArrived flock h) && ts.all fun t => t.hasArrived flock h

/-- Ends a phase in the warps of some members; the loads that wait as threads arrive again are owed to the next (R171, R174). -/
def Flock.endPhase (fl : Flock) (flock : Bool) (h : Nat) (member : Nat → Bool) : Flock :=
  let done (wg : Workgroup) : Workgroup := { wg with warps := wg.warps.map fun w => { w with threads := w.threads.map (Thread.phaseDone flock h) } }
  let fl := { fl with wgs := fl.wgs.zipIdx.map fun (wg : Workgroup × Nat) => if member wg.2 then done wg.1 else wg.1 }
  fl.owe (hurdleBit flock h) fun m u l => member m && (fl.threadOf m u l).hasArrived flock h

/-- Completes a phase of a member's workgroup hurdle if every participant has arrived and owes it nothing. -/
def Flock.settleHurdleOf (fl : Flock) (m h : Nat) : Flock :=
  match fl.wgs[m]? with
  | some wg =>
    if phaseComplete false h wg.warps && !fl.owed (hurdleBit false h) (· == m) then
      { fl with wgs := modifyNth (fun wg => { wg with hurdles := modifyNth (· + 1) h wg.hurdles }) m fl.wgs }.endPhase false h (· == m)
    else fl
  | none => fl

/-- Completes a phase of a flock hurdle if every participant has arrived and owes it nothing. -/
def Flock.settleHurdle (fl : Flock) (h : Nat) : Flock :=
  if phaseComplete true h (fl.wgs.flatMap Workgroup.warps) && !fl.owed (hurdleBit true h) (fun _ => true) then
    { fl with hurdles := modifyNth (· + 1) h fl.hurdles }.endPhase true h fun _ => true
  else fl

/-- The hurdles at which some thread of a warp list has arrived, as bits. -/
def arrivals (ws : List Warp) : Nat := ws.foldl (fun a w => w.threads.foldl (fun b t => b ||| t.arrived.toNat) a) 0

/-- Completes every phase of a flock's hurdles that is complete. -/
def Flock.settleHurdles (fl : Flock) : Flock :=
  let some_ := arrivals (fl.wgs.flatMap Workgroup.warps)
  if some_ = 0 then fl
  else
    let hs := List.range 16
    let fl := (List.range fl.wgs.length).foldl (fun fl m => hs.foldl (fun fl h => if bitAt some_ h then fl.settleHurdleOf m h else fl) fl) fl
    hs.foldl (fun fl h => if bitAt some_ (16 + h) then fl.settleHurdle h else fl) fl

/-- Threads of the issuing unit arrive at a hurdle. -/
def State.owe (s : State) (c : Issue) (b : Nat) (lanes : List Nat) : State :=
  s.modFlock c.f fun fl => fl.owe b fun m u l => m == c.m && u == c.u && lanes.contains l

/-- HURDLE: the executing threads arrive, and the group is held until the phase of the last arrival completes (R171, log 22). -/
def hurdle (flock : Bool) (s : State) (h : Head) (n : Fin 16) : Outcome :=
  onIssue s fun c s => begin s c h [] [] fun lanes s =>
    if c.isHerder then s
    else
      let late (l : Nat) : Bool := (c.snap.thread l).hasArrived flock n.val
      let most := if lanes.any late then 2 else 1
      let s := s.owe c (hurdleBit flock n.val) (lanes.filter fun l => !late l)
      c.lanes.foldl (fun s l => s.modThread c.f c.m c.u l fun t =>
        if !lanes.contains l then { t with hold := .hurdle flock n.val most false }
        else if late l then { t with hold := .hurdle flock n.val most true }
        else { t.arrive flock n.val with hold := .hurdle flock n.val most false }) s

/-- HURDLE (R171). -/
def execHurdle (h : Head) (n : Fin 16) (s : State) : Outcome :=
  hurdle false s h n

/-- HURDLE.F (R171). -/
def execHurdleF (h : Head) (n : Fin 16) (s : State) : Outcome :=
  hurdle true s h n

/-- ARRIVE (R172). -/
def execArrive (h : Head) (d : Reg) (a : Src) (s : State) : Outcome :=
  onIssue s fun c s => beginAll s c h [one a] [d] fun all lanes s =>
    let scope (l : Nat) : Bool := (c.snap.get l a.reg).getLsbD 4
    let num (l : Nat) : Nat := bitsOf (c.snap.get l a.reg).toNat 3 0
    if !c.going && !c.isHerder && lanes.any fun l => (c.snap.thread l).hasArrived (scope l) (num l) then s.block
    else
      let s := (if d.isW then [lowest all] else lanes).foldl (fun s l => s.give c l d 1 [s.phase c.f c.m (scope l) (num l)]) s
      if c.isHerder then s
      else lanes.foldl (fun s l => (s.owe c (hurdleBit (scope l) (num l)) [l]).modThread c.f c.m c.u l fun t => t.arrive (scope l) (num l)) s

/-- AWAIT (R173): the group is held until the phase count of each executing thread's hurdle differs from its b. -/
def execAwait (h : Head) (a b : Src) (s : State) : Outcome :=
  onIssue s fun c s => begin s c h [one a, one b] [] fun lanes s =>
    if !c.going && lanes.any fun l =>
      let x := c.snap.get l a.reg
      s.phase c.f c.m (x.getLsbD 4) (bitsOf x.toNat 3 0) == c.snap.get l b.reg
    then s.holdGroup .wait else s

end Sys2Proof.Machine
end

