-- ==== Sys2Proof/Machine/Issue.lean ====
section
/-! DEFINITION. Issuing a chain: fetch, the chain rules, precise traps, strays, and the effects that come last
(01 R19-R24; 02 R53-R60; 05 R139, R142-R144; 15 R326, R329-R338). The meaning of a word is a parameter here, so that
the step only joins these operations to exec. -/
namespace Sys2Proof.Machine
open Sys2Proof

/-! ## Fetch and chains -/

/-- What a fetch of a word gives (R19, R221, R342). -/
inductive Fetch where
  | word (w : Nat)
  | trap (cause : Nat) (va : DWord)
  | absent (va : DWord)
  deriving DecidableEq, Repr

/-- The byte address of a word index. -/
def Launch.wordAt (l : Launch) (pc : Nat) : DWord := BitVec.ofNat 64 (l.code + 4 * pc)

/-- The word that a fetch takes at an address where one stands: that word, or one that stood there since the launch's task issued (R261). -/
def State.fetched (s : State) (fl : Flock) (va w : Nat) : Nat :=
  match s.oldCode.filter fun o => o.p == fl.p && o.va == va && decide (fl.launch.issuedAt ≤ o.since) && o.value ≠ w with
  | [] => w
  | o :: os => (((o :: os)[Config.otherWord s.cycle va]?).map OldWord.value).getD w

/-- A fetch at or beyond the code object's length raises PROTFAULT (R19). -/
def State.fetch (s : State) (f pc : Nat) : Fetch :=
  match s.flock? f with
  | none => .trap causeProtfault 0
  | some fl =>
    let va := fl.launch.wordAt pc
    if fl.launch.codelen ≤ pc then .trap causeProtfault va
    else match s.translate fl.p va.toNat .fetch with
      | .absent => .absent va
      | .refused => .trap causeProtfault va
      | .uncorr => .trap causeUncorrMem va
      | .leaf l =>
        if s.pageBad fl.p l va.toNat 4 then .trap causeUncorrMem va
        else match s.pageRead fl.p l va.toNat 4 with
          | some bs => .word (s.fetched fl va.toNat (ofBytes bs))
          | none => .trap causeProtfault va

/-- The pipes (R52, R57); NOP and reserved opcodes have none. -/
inductive Pipe where | a | f | m | x
  deriving DecidableEq, Repr
def pipeOf (op : Nat) : Option Pipe :=
  if op = 0x2E || (0x34 ≤ op && op ≤ 0x3A) then some .f
  else if 0x01 ≤ op && op ≤ 0x33 && op ≠ 0x27 then some .a
  else if (0x50 ≤ op && op ≤ 0x65) then some .m
  else if (0x40 ≤ op && op ≤ 0x4F && op ≠ 0x4A) || (0x68 ≤ op && op ≤ 0x7A) then some .x
  else none

/-- A word of a chain: its index, its bits, and the instruction it decodes to. -/
structure ChainWord where
  index : Nat
  raw : Nat
  instr : Option Instr
  deriving DecidableEq, Repr

def ChainWord.slot (c : ChainWord) : Nat := c.index % 3
def ChainWord.op (c : ChainWord) : Nat := opOf c.raw
def ChainWord.more (c : ChainWord) : Bool := bitAt c.raw 31
def ChainWord.movl (c : ChainWord) : Bool := c.op == 0x21

/-- A chain as it is fetched: its words and the index after it, or what stopped the fetch. -/
structure Chain where
  words : List ChainWord
  next : Nat
  stop : Option Fetch
  deriving DecidableEq, Repr

/-- Fetches a chain from an index: up to three words, to the end of the packet; a MOVL takes the next word as its literal
(R20, R22, R54). -/
def State.fetchChain (s : State) (f : Nat) : Nat → Nat → Chain
  | 0, pc => ⟨[], pc, none⟩
  | n + 1, pc =>
    match s.fetch f pc with
    | .word w =>
      let movl := opOf w == 0x21 && pc % 3 ≠ 2
      let lit := if movl then s.fetch f (pc + 1) else .word 0
      match lit with
      | .word x =>
        let c : ChainWord := ⟨pc, w, if opOf w == 0x21 && pc % 3 == 2 then none else decodeWord w x⟩
        if movl then ⟨[c], pc + 2, none⟩
        else if c.more && pc % 3 ≠ 2 then
          let rest := s.fetchChain f n (pc + 1)
          ⟨c :: rest.words, rest.next, rest.stop⟩
        else ⟨[c], pc + 1, none⟩
      | stop => ⟨[], pc, some stop⟩
    | stop => ⟨[], pc, some stop⟩

/-- The chain at a PC. -/
def State.chainAt (s : State) (f pc : Nat) : Chain := s.fetchChain f 3 pc

/-- Whether a word breaks R53 or R54 in its chain. -/
def chainBad (ws : List ChainWord) (c : ChainWord) : Bool :=
  (c.more && (c.slot == 2 || c.movl)) ||
    ws.any fun d => d.index != c.index && (pipeOf d.op).isSome && pipeOf d.op == pipeOf c.op
/-- The trap of a chain that is decided from its encoding alone: the lowest slot's, ILLEGAL before CHAINBAD (R59, R60), with the words of the
slots below. -/
def encodingTrap (ws : List ChainWord) : Option (List ChainWord × Nat) :=
  ws.zipIdx.findSome? fun q =>
    if q.1.instr.isNone then some (ws.take q.2, causeIllegal) else if chainBad ws q.1 then some (ws.take q.2, causeChainbad) else none

/-! ## Running the words -/

/-- A state and the chain it has issued. -/
def State.withIssue (s : State) (c : Issue) : State := { s with issue := some c }

/-- Runs one word of a chain; a word with no next state has no effect. -/
def runWord (exec : Instr → State → Outcome) (s : State) (w : ChainWord) : State :=
  match w.instr, s.issue with
  | some i, some c =>
    match exec i (s.withIssue { c with here := w.index }) with
    | .next t => t
    | _ => s
  | _, _ => s

/-- The chain's threads at issue: PC past the chain, held by nothing (R22). -/
def State.beginChain (s : State) (f m u : Nat) (lanes : List Nat) (next : Nat) : State :=
  lanes.foldl (fun s l => s.modThread f m u l fun t => { t with pc := BitVec.ofNat 24 next, hold := .none }) s

/-- The blank issue of a group. -/
def Issue.start (f m u : Nat) (lanes : List Nat) (pc next : Nat) (snap : Warp) : Issue where
  f := f
  m := m
  u := u
  lanes := lanes
  pc := pc
  here := pc
  next := next
  snap := snap
  blocked := false
  held := none
  traps := []
  strays := []
  deferred := []

/-- What a word of the chain reads and writes for a lane (R56): of PMOV, the guards that its mask selects (R113); of CONT, the words that a
record of its pool carries (R180). -/
def State.rolesFor (s : State) (c : Issue) (lane : Nat) (i : Instr) : Option Roles :=
  (rolesOf i).map fun r =>
    match i with
    | .pmov _ _ _ b => { r with guardsWritten := (List.range 16).filter fun k => (c.snap.get lane b.reg).getLsbD k }
    | .cont _ a _ =>
      let n := match s.poolFor c.f (c.snap.get lane a.reg).toNat with | some q => s.poolRegs c.f q.seq | none => 0
      { r with reads := r.reads ++ (List.range n).map fun k => Reg.v (Fin.ofNat 24 k) }
    | _ => r
/-- Whether a word of the chain that passes in a lane collides there with a lower slot: with one that passes in the lane, or in a w register
with one that passes in any (R56, R146). -/
def State.collidesAt (s : State) (c : Issue) (lane : Nat) (low high : Instr) : Bool :=
  let of_ (l : Nat) (i : Instr) : Option Roles := (s.rolesFor c l i).bind fun r => if (c.snap.thread l).passes r.guard then some r else none
  match of_ lane high with
  | none => false
  | some h => c.lanes.any fun l =>
      match of_ l low with
      | none => false
      | some r => if l = lane then r.collides h else { r with writes := r.writes.filter Reg.isW, guardsWritten := [] }.collides h
/-- Whether a word is uniform: it writes a w register (R50, R146). -/
def uniformWord (i : Instr) : Bool := match rolesOf i with | some r => r.writes.any Reg.isW | none => false
/-- The lanes in which each word of a chain raises CHAINHAZ, in debug mode (R56, R343): those where it collides with a lower slot, and every
executing thread of a uniform word that does (R146). -/
def State.hazards (s : State) (c : Issue) (ws : List ChainWord) : List (List Nat) :=
  let is := ws.filterMap ChainWord.instr
  let of_ (k : Nat) (i : Instr) : List Nat :=
    let hit := c.lanes.filter fun l => (is.take k).any fun low => s.collidesAt c l low i
    if !hit.isEmpty && uniformWord i then
      c.lanes.filter fun l => match rolesOf i with | some r => (c.snap.thread l).passes r.guard | none => false
    else hit
  if (match s.launchOf c.f with | some l => l.debug | none => false) then is.zipIdx.map fun q => of_ q.2 q.1 else []

/-- s with the SEQs that the group's threads have in t. -/
def State.takeSeqs (s : State) (c : Issue) (t : State) : State :=
  c.lanes.foldl (fun s l => s.modThread c.f c.m c.u l fun th => { th with seq := ((t.thread? c.f c.m c.u l).getD th).seq }) s

/-- What a chain would do if it issued now: the issue after each word alone, in slot order (R21), but for the random words that lower slots
take (R35). -/
def probe (exec : Instr → State → Outcome) (s : State) (c : Issue) (ws : List ChainWord) : List (Issue × State) :=
  let run (q : State × List (Issue × State)) (w : ChainWord) : State × List (Issue × State) :=
    let r := runWord exec (q.1.withIssue c) w
    (q.1.takeSeqs c r, q.2 ++ [(r.issue.getD c, r)])
  (ws.foldl run (s.beginChain c.f c.m c.u c.lanes c.next, [])).2

/-- What a chain raises in a lane: the cause of the lowest slot that raises one (R21), its word's own before CHAINHAZ (log 9); from the issue
after each word, and the lanes in which each raises CHAINHAZ. -/
def firstTrap (haz : List (List Nat)) (ps : List Issue) (lane : Nat) : Option (Nat × DWord) :=
  ps.zipIdx.findSome? fun q =>
    match q.1.traps.find? fun t => t.1 == lane with
    | some t => some t.2
    | none => if (haz.getD q.2 []).contains lane then some (causeChainhaz, 0) else none
/-- The errors that the traps which are taken found: of memory and scratchpad one for an address, of registers and tags one for a thread, or for a
uniform word (R377, log 62). -/
def foundErrors (ws : List ChainWord) (ps : List Issue) (taken : Nat → Option (Nat × DWord)) : List (Nat × DWord) :=
  (ps.zip ws).flatMap fun q =>
    let es := (q.1.traps.filter fun t => (t.2.1 == causeUncorr || t.2.1 == causeUncorrMem) && taken t.1 == some t.2).map fun t => t.2
    if q.2.instr.any uniformWord then es.eraseDups else (es.filter fun t => t.2 ≠ 0).eraseDups ++ es.filter fun t => t.2 = 0
/-- The first translation fault of a lane, in slot order. -/
def firstStray (ps : List Issue) (lane : Nat) : Option (DWord × Nat) :=
  (ps.findSome? fun c => c.strays.find? fun t => t.1 == lane).map fun t => t.2

/-- UNCORR, or a refused peer access, stops a thread at its chain (R326, R342, R380). -/
def Thread.stopUncorr (t : Thread) (cause pc : Nat) (addr : DWord) : Thread :=
  { t.recordUncorr cause pc addr with life := .stopped, pc := BitVec.ofNat 24 pc, hold := .none }
/-- An error that a chain's access found is counted (R377). -/
def State.countTrap (s : State) (c : Issue) (t : Nat × DWord) : State :=
  let die := s.device.coreDie (s.coreOf c.f c.m)
  if t.1 = causeUncorr then s.countDie die true
  else if t.1 = causeUncorrMem then s.countFoundAt die (s.ownerOf c.f) t.2.toNat 16
  else s
/-- A thread takes a trap of its chain; UNCORR goes to no handler (R326, R342). TRAPADDR is 0 for REGIONVIOL (R32). -/
def State.raiseTrap (s : State) (c : Issue) (lane cause : Nat) (addr : DWord) : State :=
  if cause = causeUncorr || cause = causeUncorrMem || cause = causePeer then
    (s.modThread c.f c.m c.u lane fun t => t.stopUncorr cause c.pc addr).startAbort c.f c.m c.u lane cause c.pc addr
  else
    let s := s.takeTrap c.f c.m c.u lane cause c.pc c.next (if cause = causeRegionviol then 0 else addr)
    if cause = causeRegionviol || cause = causeChainhaz then
      match s.flock? c.f, s.wg? c.f c.m with
      | some fl, some wg =>
        s.sheepdog fl.p (if cause = causeRegionviol then 1 else 2) fl.seq wg.wgid c.pc c.warpByte (if c.isHerder then 0 else lane)
          (if cause = causeRegionviol then addr else 0)
      | _, _ => s
    else s

/-- The threads of a group whose accesses found no translation are split off as one stray, with one fault record
(R336). -/
def State.parkStrays (s : State) (c : Issue) (strays : List (Nat × DWord × Nat)) : State :=
  match strays, s.flock? c.f, s.wg? c.f c.m with
  | q :: _, some fl, some wg =>
    let fid := (s.part fl.p).nextFid
    let s := s.raiseFault fl.p { FaultRec.blank 1 (.stray c.f c.m c.u) with
      seq := fl.seq, wgid := wg.wgid % 2 ^ 23, lanes := BitVec.ofNat 32 (laneMask (strays.map Prod.fst))
      warp := c.warpByte, va := q.2.1, detail := q.2.2 }
    strays.foldl (fun s r => s.modThread c.f c.m c.u r.1 fun t => { t with life := .stray fid r.2.1, hold := .none }) s
  | _, _, _ => s

/-- The index after the chain at a thread's TRAPPC, by C bits and MOVL (R330). -/
def State.afterTrapped (s : State) (f : Nat) (t : Thread) : Nat := (s.chainAt f t.trappc.toNat).next

/-- A held thread is released as if it had executed TRET (R334). -/
def State.releaseHeld (s : State) (f m u lane : Nat) : State :=
  s.modThread f m u lane fun t =>
    match t.life with
    | .held _ => { t.returnFromTrap (s.afterTrapped f t) with life := .live }
    | _ => t

/-- Forms the continuation record of a thread that has executed CONT, once the words it carries are full and the pool's area has room; the
thread then ends (R158, R180). A word whose check bits fail is consumed by it (R342). -/
def State.formRecord (s : State) (f m u lane : Nat) : State :=
  match s.flock? f, s.unit? f m u with
  | some fl, some w =>
    (match (w.thread lane).life, s.poolOf f (w.thread lane).life with
      | .cont _ target, some q =>
        let n := s.poolRegs f q.seq
        if (List.range n).all (fun k => (w.thread lane).full.getLsbD k) && decide (0 < s.poolRoom f q) then
          if (List.range n).any fun k => s.bad.contains (.reg f m u lane (.v (Fin.ofNat 24 k))) then s.scratchAbort f m u [lane] (w.thread lane).pc.toNat 0
          else
          let regs := (List.range 6).map fun k => if k < n then w.get lane (.v (Fin.ofNat 24 k)) else 0
          let issued := (s.part fl.p).window.any fun t => t.seq == q.seq && t.status == .issued
          let rec_ : ContRecord := ⟨BitVec.ofNat 32 target :: BitVec.ofNat 32 n :: regs, s.cycle⟩
          (s.modPart fl.p fun p =>
            { p with pools := p.pools.map fun r => if r.seq ≠ q.seq then r else if issued then r.take [rec_] else { r with records := r.records ++ [rec_] } }).modThread
              f m u lane Thread.end_
        else s
      | _, _ => s)
  | _, _ => s

/-- The effects that come after the other words of a chain (R129, R158, R180, R329-R331, R334). -/
def State.applyDeferred (s : State) (c : Issue) : Deferred → State
  | .exit l => s.modThread c.f c.m c.u l Thread.end_
  | .cont l number target =>
    match s.poolFor c.f number with
    | some q => (s.modThread c.f c.m c.u l fun t => { t with life := .cont q.seq target, hold := .none }).formRecord c.f c.m c.u l
    | none => s
  | .trap l code => s.takeTrap c.f c.m c.u l code c.pc c.next 0
  | .tret l =>
    match s.thread? c.f c.m c.u l with
    | some t =>
      let s := s.modThread c.f c.m c.u l fun t => t.returnFromTrap (s.afterTrapped c.f t)
      if c.isHerder && t.trapcause.toNat = causeNested then
        s.releaseHeld c.f c.m (bitsOf t.trapaddr.toNat 9 5) (bitsOf t.trapaddr.toNat 4 0)
      else s
    | none => s
  | .bkpt code l =>
    match s.flock? c.f, s.wg? c.f c.m, s.thread? c.f c.m c.u l with
    | some fl, some wg, some t =>
      if fl.status ≠ .resident then s
      else
      let fid := (s.part fl.p).nextFid
      let s := s.raiseFault fl.p { FaultRec.blank 6 (.halt c.f) with
        seq := fl.seq, wgid := wg.wgid % 2 ^ 23, lanes := t.pc.setWidth 32, lane := if c.isHerder then 0 else l
        warp := c.warpByte, detail := code }
      s.modFlock c.f fun fl => { fl with status := .folding (some (code, fid)) }
    | _, _, _ => s
  | .yield =>
    s.modUnit c.f c.m c.u fun w =>
      let others := w.lanesWith fun t => t.live
      { w with yields := w.yields ++
          [⟨BitVec.ofNat 32 (laneMask c.lanes), BitVec.ofNat 32 (laneMask (others.filter fun l => !c.lanes.contains l))⟩] }

/-- Whether a JOIN, a WSYNC or the stile has released a thread whose chain has still to issue, or to trap: a group that comes to its PC later
does not go with it (R144, R167, R288, R289). -/
def Thread.past (t : Thread) : Bool :=
  match t.hold with
  | .joinPast | .wsyncPast | .stilePast | .stileBad => true
  | _ => false

/-- The yield marks of a warp after some lanes have issued (R143): a mark of a group that issued again is cleared, and
one whose other threads have all issued or ended. -/
def Warp.settleYields (w : Warp) (issued : List Nat) : Warp :=
  let mask := BitVec.ofNat 32 (laneMask issued)
  let ended := BitVec.ofNat 32 (laneMask (w.lanesWith fun t => !t.live))
  let merged (y : Yield) : Bool :=
    (w.lanesWith fun t => t.running).any fun l => !y.lanes.getLsbD l &&
      (w.lanesWith fun t => t.running).any fun k => y.lanes.getLsbD k && (w.thread k).pc == (w.thread l).pc &&
        (w.thread k).trapMode == (w.thread l).trapMode && (w.thread k).past == (w.thread l).past
  { w with yields := (w.yields.map fun y => { y with owed := y.owed &&& ~~~(mask ||| ended) }).filter fun y =>
      y.lanes &&& mask = 0 && y.owed ≠ 0 && !merged y }

/-- What issuing does to a warp beside the chain: the lanes' wait counts restart (R142), and yield marks clear (R143). -/
def Warp.hasIssued (w : Warp) (lanes : List Nat) : Warp :=
  let w := lanes.foldl (fun (w : Warp) l => w.modThread l fun t => { t with wait := 0 }) w
  if w.yields.isEmpty then w else w.settleYields lanes

/-! ## Issuing a group -/

/-- What an attempt to issue a group finds. -/
inductive Attempt where
  /-- a register is empty or a queue full (R25, R26) -/
  | blocked
  /-- held before issue at a JOIN, WSYNC, the stile or a wait (R142, R344): the hold, and the state that records an arrival -/
  | held (h : Hold) (t : State)
  /-- it issues: the state afterwards -/
  | issues (t : State)
  deriving Repr

/-- Whether an effect that comes last is TRAP's in a lane. -/
def Deferred.trapIn (lane : Nat) : Deferred → Bool
  | .trap l _ => l == lane
  | _ => false

/-- Whether a chain holds a WSYNC that executes. -/
def syncs (c : Issue) (ws : List ChainWord) : Bool :=
  ws.any fun w => match w.instr with | some (.wsync h) => !(c.exec h).isEmpty | _ => false
/-- What a chain leaves that issues, whether its threads trap or not: the walks that its memory word began (R221, R223), and the groups that its
WSYNC releases (R167). -/
def State.issued (s : State) (c : Issue) (ws : List ChainWord) (ps : List (Issue × State)) : State :=
  let s := (ps.flatMap fun p => p.1.looks).foldl (fun s va => s.noteWalk (s.ownerOf c.f) va) s
  if syncs c ws && !c.isHerder && !c.wsyncPast then s.releaseWsync c else s

/-- The chain's effects in the threads that neither trap nor stray, then the traps, TRAP's among them, by ascending lane (R333, R339) and the
stray, then what comes last. -/
def finishChain (exec : Instr → State → Outcome) (s : State) (c : Issue) (ws : List ChainWord) (ps : List (Issue × State)) : State :=
  let haz := s.hazards c ws
  let trapOf (l : Nat) : Option (Nat × DWord) := firstTrap haz (ps.map Prod.fst) l
  let trapping := c.lanes.filter fun l => (trapOf l).isSome
  let straying := c.lanes.filterMap fun l =>
    if trapping.contains l then none else (firstStray (ps.map Prod.fst) l).map fun q => (l, q.1, q.2)
  let good := c.lanes.filter fun l => !trapping.contains l && !(straying.any fun q => q.1 == l)
  let issued := c.lanes
  let base := s.issued c ws ps
  let c := { c with lanes := good, gone := c.lanes.filter (fun l => !good.contains l), going := true, pages := ps.flatMap fun p => p.1.pages }
  let again : State := if good.isEmpty then base else ws.foldl (runWord exec) ((base.beginChain c.f c.m c.u good c.next).withIssue c)
  let run : State := match ps with | [p] => if c.gone.isEmpty then p.2 else again | _ => again
  let deferred := match run.issue with | some d => if good.isEmpty then [] else d.deferred | none => []
  let s := (foundErrors ws (ps.map Prod.fst) trapOf).foldl (fun s t => s.countTrap c t) { run with issue := none }
  let s := issued.foldl (fun s l =>
    match trapOf l with
    | some t => s.raiseTrap c l t.1 t.2
    | none => (deferred.filter fun d => d.trapIn l).foldl (fun s d => s.applyDeferred c d) s) s
  let s := (s.parkStrays c straying).modUnit c.f c.m c.u fun w => w.hasIssued issued
  (deferred.filter fun d => !issued.any d.trapIn).foldl (fun s d => s.applyDeferred c d) s

/-- What the words below one with a bad encoding raise in a lane: TRAPCAUSE names the lowest slot's cause (R21). A word that would wait for a
register raises nothing, and does not hold the chain back (R21, R60). -/
def lowerTrap (exec : Instr → State → Outcome) (s : State) (c : Issue) (ws : List ChainWord) (lane : Nat) : Option (Nat × DWord) :=
  let all := probe exec s c ws
  let ps := if all.any fun p => p.1.blocked then probe exec s { c with lanes := [lane] } ws else all
  firstTrap (s.hazards c ws) (ps.map Prod.fst) lane

/-- An attempt to issue the chain of a group at a PC. -/
def attempt (exec : Instr → State → Outcome) (s : State) (f m u : Nat) (lanes : List Nat) (pc : Nat) : Attempt :=
  match s.unit? f m u with
  | none => .blocked
  | some snap =>
    let ch := s.chainAt f pc
    let c := Issue.start f m u lanes pc ch.next snap
    match ch.stop with
    | some (.trap cause va) => .issues ((lanes.foldl (fun s l => s.raiseTrap c l cause va) (s.countTrap c (cause, va))).modUnit f m u fun w => w.hasIssued lanes)
    | some (.absent va) => .issues (s.parkStrays c (lanes.map fun l => (l, va, 8)))
    | _ =>
      match encodingTrap ch.words with
      | some bad =>
        let raised (l : Nat) : Nat × DWord := (lowerTrap exec s c bad.1 l).getD (bad.2, 0)
        let s := (lanes.map raised).eraseDups.foldl (fun s t => s.countTrap c t) s
        .issues ((lanes.foldl (fun s l => s.raiseTrap c l (raised l).1 (raised l).2) s).modUnit f m u fun w => w.hasIssued lanes)
      | none =>
        let ps := probe exec s c ch.words
        if ps.any fun p => p.1.blocked then .blocked
        else match ps.find? fun p => p.1.held.isSome with
          | some p => .held (p.1.held.getD .wait) p.2
          | none => .issues (finishChain exec s c ch.words ps)

/-- Records that a group is held: a thread that already waits at the JOIN keeps its cycle; an arrival at the stile stays
(R144, R288). -/
def State.recordHold (s : State) (f m u : Nat) (lanes : List Nat) (h : Hold) (t : State) : State :=
  let s := match h, t.wg? f m with
    | .stile, some wg => s.modWg f m fun w => { w with rounds := wg.rounds }
    | _, _ => s
  lanes.foldl (fun s l => s.modThread f m u l fun th =>
    match h, th.hold with
    | .join _, .join _ => th
    | _, _ => { th with hold := h }) s

/-! ## Groups (R139, R325) -/

/-- A group: its PC, its trap-mode bit, whether it has been released (Thread.past), and its lanes. -/
structure Group where
  pc : Nat
  mode : Bool
  past : Bool
  lanes : List Nat
  deriving DecidableEq, Repr

/-- Whether a thread is held after HURDLE, and so the group that it is in (R142, R171). -/
def Thread.atHurdle (t : Thread) : Bool := match t.hold with | .hurdle _ _ _ _ => true | _ => false

/-- Inserts a lane into the groups, kept by rising PC. -/
def insertLane (pc : Nat) (mode past : Bool) (lane : Nat) : List Group → List Group
  | [] => [⟨pc, mode, past, [lane]⟩]
  | g :: rest =>
    if g.pc = pc && g.mode = mode && g.past = past then { g with lanes := g.lanes ++ [lane] } :: rest
    else if pc < g.pc || (pc = g.pc && !mode && g.mode) || (pc = g.pc && mode = g.mode && past && !g.past) then ⟨pc, mode, past, [lane]⟩ :: g :: rest
    else g :: insertLane pc mode past lane rest

/-- The groups of a warp by rising PC. -/
def Warp.groups (w : Warp) : List Group :=
  (w.lanesWith Thread.running).foldl (fun gs l => insertLane (w.thread l).pc.toNat (w.thread l).trapMode (w.thread l).past l gs) []

/-- The wait count of a group (R142): a merged group has the larger one. -/
def Warp.waitOf (w : Warp) (g : Group) : Nat := g.lanes.foldl (fun a l => max a (w.thread l).wait) 0
/-- Whether a group is marked yielded (R143). -/
def Warp.yielded (w : Warp) (g : Group) : Bool := w.yields.any fun y => g.lanes.all y.lanes.getLsbD

/-! ## After each step -/

/-- A herder that ends while a thread of its workgroup is held aborts the flock (R334). -/
def State.checkHerder (s : State) (f m : Nat) : State :=
  match s.wg? f m with
  | some wg =>
    match wg.herder with
    | some h =>
      if h.allEnded then
        let held := wg.warps.zipIdx.flatMap fun w => w.1.threads.zipIdx.filterMap fun t =>
          match t.1.life with | .held x => some (w.2, t.2, x, t.1.pc.toNat) | _ => none
        (match held with
          | (u, l, x, pc) :: _ => s.startAbort f m u l x.cause pc x.addr
          | [] => s)
      else s
    | none => s
  | none => s

/-- Forms the records that the threads of a workgroup wait to form (R180). -/
def State.formRecords (s : State) (f m : Nat) : State :=
  match s.wg? f m with
  | some wg =>
    wg.units.foldl (fun s u =>
      match wg.unit? u with
      | some w => (w.lanesWith fun t => match t.life with | .cont _ _ => true | _ => false).foldl (fun s l => s.formRecord f m u l) s
      | none => s) s
  | none => s

/-- What follows at once from the state of a flock: phases that are complete, pops that can be served, records that can be formed, rounds
that close. -/
def State.settleFlock (s : State) (f : Nat) : State :=
  match s.flock? f with
  | some fl =>
    if fl.onCores then
      let s := if fl.settleHurdles.hurdles == fl.hurdles then s else s.meetFlock fl
      let s := s.modFlock f Flock.settleHurdles
      (List.range fl.wgs.length).foldl (fun s m =>
        (((s.servePops f m).formRecords f m).modWg f m Workgroup.closeRounds).checkHerder f m) s
    else s
  | none => s

/-! ## The slice sequencer and the scalar unit (R142, R148) -/

/-- The warps that a slice of a core holds, in slot order: slot, flock, member, unit. -/
def State.sliceWarps (s : State) (core sl : Nat) : List (Nat × Nat × Nat × Nat) :=
  let here := s.flocks.zipIdx.flatMap fun fl =>
    match fl.1.status with
    | .resident =>
      fl.1.wgs.zipIdx.flatMap fun wg =>
        if wg.1.core == core && !wg.1.ended then
          wg.1.warps.zipIdx.filterMap fun w => if w.1.slice == sl then some (w.1.slot, fl.2, wg.2, w.2) else none
        else []
    | _ => []
  (List.range 8).flatMap fun k => here.filter fun q => q.1 == k

/-- Tries every group of a warp, and records the holds of those that are held; the groups that issue, with the states
they would give. -/
def tryGroups (exec : Instr → State → Outcome) (s : State) (f m u : Nat) : State × List (Group × Bool × Bool) :=
  match s.unit? f m u with
  | some w =>
    w.groups.foldl (fun (q : State × List (Group × Bool × Bool)) g =>
      if g.lanes.any fun l => (w.thread l).atHurdle then (q.1, q.2 ++ [(g, true, false)])
      else match attempt exec q.1 f m u g.lanes g.pc with
      | .blocked => (q.1, q.2 ++ [(g, false, false)])
      | .held h t => (q.1.recordHold f m u g.lanes h t, q.2 ++ [(g, true, false)])
      | .issues _ => (q.1, q.2 ++ [(g, false, true)])) (s, [])
  | none => (s, [])

/-- The candidate group of a warp (R142), from its groups with whether each is held and whether it can issue. -/
def candidate (w : Warp) (gs : List (Group × Bool × Bool)) : Option Group :=
  if !w.progress then
    match gs.filter fun g => !g.2.1 with
    | g :: _ => if g.2.2 then some g.1 else none
    | [] => none
  else
    let iss := (gs.filter fun g => g.2.2).map Prod.fst
    let late := iss.filter fun g => w.fairness.toNat < w.waitOf g
    let fresh := iss.filter fun g => !w.yielded g
    match late with
    | g :: rest => some (rest.foldl (fun a b => if w.waitOf a < w.waitOf b then b else a) g)
    | [] => match fresh with | g :: _ => some g | [] => iss.head?

/-- Advances the wait counts of the groups of a warp that could issue and were not chosen (R142). -/
def State.countWaits (s : State) (f m u : Nat) (gs : List (Group × Bool × Bool)) (chosen : Option Group) : State :=
  gs.foldl (fun s g =>
    if g.2.2 && some g.1 != chosen then
      g.1.lanes.foldl (fun s l => s.modThread f m u l fun t => { t with wait := t.wait + 1 }) s
    else s) s

/-- The time limit of a flock's task starts counting with its first chain (R362). -/
def State.startClock (s : State) (f : Nat) : State :=
  match s.flock? f with
  | some fl =>
    s.modPart fl.p fun q => { q with window := q.window.map fun t => if t.seq = fl.seq then { t with ticking := true } else t }
  | none => s
/-- The L2 serves the fetch of a chain (R225, R226, log 85). -/
def State.serveFetch (s : State) (f pc : Nat) : State :=
  match s.flock? f with
  | some fl => s.served fl.p (fl.launch.wordAt pc).toNat (4 * ((s.chainAt f pc).next - pc))
  | none => s
/-- Issues a group's chain, or leaves the state. -/
def issueGroup (exec : Instr → State → Outcome) (s : State) (f m u : Nat) (g : Group) : State :=
  match attempt exec (s.serveFetch f g.pc) f m u g.lanes g.pc with
  | .issues t => (t.settleFlock f).startClock f
  | .held h t => s.recordHold f m u g.lanes h t
  | .blocked => s

/-- A list turned so that what follows position k comes first. -/
def rotateAfter {α : Type} (k : Nat) (l : List α) : List α := l.drop (k + 1) ++ l.take (k + 1)

/-- One cycle of a slice (R142): the first warp with a candidate after the one chosen last. -/
def sliceTurn (exec : Instr → State → Outcome) (core sl : Nat) (s : State) : State :=
  let key := 16 * core + sl
  let ws := s.sliceWarps core sl
  let tried := ws.foldl (fun (q : State × List ((Nat × Nat × Nat × Nat) × List (Group × Bool × Bool))) w =>
    let r := tryGroups exec q.1 w.2.1 w.2.2.1 w.2.2.2
    (r.1, q.2 ++ [(w, r.2)])) (s, [])
  let s := tried.1
  let cands := tried.2.filterMap fun q =>
    let (k, f, m, u) := q.1
    ((s.unit? f m u).bind fun w => candidate w q.2).map fun g => (k, (f, m, u), g)
  let last := assocGet 0 s.sliceLast key
  let order := (cands.filter fun q => decide (last ≤ q.1)) ++ cands.filter fun q => decide (q.1 < last)
  let pick := order.head?
  let s := tried.2.foldl (fun s q =>
    let (_, f, m, u) := q.1
    s.countWaits f m u q.2 (match pick with | some (_, w, g) => if w = (f, m, u) then some g else none | none => none)) s
  match pick with
  | some (k, (f, m, u), g) => issueGroup exec { s with sliceLast := assocSet 0 key (k + 1) s.sliceLast } f m u g
  | none => s

/-- The herder takes its first notice, at a chain boundary while it is not in trap mode (R333-R335). -/
def State.takeNotice (s : State) (f m : Nat) (nested : Bool) : State :=
  match s.wg? f m with
  | some wg =>
    match wg.herder, wg.notices with
    | some h, n :: rest =>
      let t := h.thread 0
      if !t.running || t.trapMode then s
      else
        let entry := t.trapvec.toNat % 2 ^ 24
        let enter (s : State) (cause : Nat) (addr : DWord) : State :=
          (s.modWg f m fun wg => { wg with notices := rest }).modThread f m herderUnit 0 fun t =>
            { t.record cause t.pc.toNat addr with trapMode := true, pc := BitVec.ofNat 24 entry, hold := .none }
        (match n with
          | .nested u lane =>
            if !nested then s
            else match s.thread? f m u lane with
              | some q =>
                (match q.life with
                  | .held x =>
                    if entry = 0 then s.startAbort f m u lane x.cause q.pc.toNat x.addr
                    else enter s causeNested (BitVec.ofNat 64 (q.pc.toNat * 2 ^ 32 + x.cause * 2 ^ 16 + u * 32 + lane))
                  | _ => s.modWg f m fun wg => { wg with notices := rest })
              | none => s
          | .xfthresh jcb =>
            if nested then s
            else if entry = 0 then s.modWg f m fun wg => { wg with notices := rest }
            else enter s causeXfthresh jcb)
    | _, _ => s
  | none => s

/-- The herders resident on a core, by the place of their workgroups: place, flock, member. -/
def State.coreHerders (s : State) (core : Nat) : List (Nat × Nat × Nat) :=
  let here := s.flocks.zipIdx.flatMap fun fl =>
    match fl.1.status with
    | .resident => fl.1.wgs.zipIdx.filterMap fun wg =>
        if wg.1.core == core && !wg.1.ended && wg.1.herder.isSome then some (wg.1.slot, fl.2, wg.2) else none
    | _ => []
  (List.range 4).flatMap fun k => here.filter fun q => q.1 == k

/-- The group of a herder: its one thread. -/
def State.herderGroup (s : State) (f m : Nat) : Option Group :=
  (s.unit? f m herderUnit).bind fun w => w.groups.head?

/-- One cycle of a scalar unit (R148): notices first, then the first herder that can issue after the one chosen last. -/
def scalarTurn (exec : Instr → State → Outcome) (core : Nat) (s : State) : State :=
  let hs := s.coreHerders core
  let s := hs.foldl (fun s q => (s.takeNotice q.2.1 q.2.2 true).takeNotice q.2.1 q.2.2 false) s
  let last := assocGet 0 s.scalarLast core
  let order := (hs.filter fun q => decide (last ≤ q.1)) ++ hs.filter fun q => decide (q.1 < last)
  let ready := order.find? fun q =>
    match s.herderGroup q.2.1 q.2.2 with
    | some g => (match attempt exec s q.2.1 q.2.2 herderUnit g.lanes g.pc with | .issues _ => true | _ => false)
    | none => false
  match ready with
  | some (k, f, m) =>
    match s.herderGroup f m with
    | some g => issueGroup exec { s with scalarLast := assocSet 0 core (k + 1) s.scalarLast } f m herderUnit g
    | none => s
  | none =>
    hs.foldl (fun s q =>
      match s.herderGroup q.2.1 q.2.2 with
      | some g => issueGroup exec s q.2.1 q.2.2 herderUnit g
      | none => s) s

end Sys2Proof.Machine
end

