-- ==== Sys2Proof/Machine/Place.lean ====
section
/-! DEFINITION. From a task to its threads: readiness, issue, launch images, placing flocks, forming pool warps, aborts and
completion (05 R152-R159; 07 R190-R192, R198-R201; 13 R321-R324; 15 R339, R340; 16 R351-R353). -/
namespace Sys2Proof.Machine
open Sys2Proof

/-! ## Cores and clusters (R152, R153, R351) -/

/-- What the workgroups of a core occupy: how many, warps, scratchpad, tiles, tags, warps by slice, the places taken by slice, those of
workgroups, and the scratchpad's ranges (R137, R152, R209). -/
structure CoreUse where
  wgs : Nat
  warps : Nat
  scratch : Nat
  acc : Nat
  tags : Nat
  slices : List Nat
  slots : List (Nat × Nat)
  places : List Nat
  ranges : List (Nat × Nat)
  deriving DecidableEq, Repr

/-- The bytes that an allocation takes of its core's scratchpad (R209). -/
def Launch.reserve (l : Launch) : Nat := roundUp l.scratch 1536
/-- The first number from k on that is not among some; k + n with no fuel left. -/
def firstNot (taken : List Nat) : Nat → Nat → Nat
  | 0, k => k
  | n + 1, k => if taken.contains k then firstNot taken n (k + 1) else k

/-- The workgroups of a core with what each one's launch sets. -/
def State.coreUse (s : State) (core : Nat) : CoreUse :=
  s.flocks.foldl (fun a fl =>
    if fl.onCores then
      fl.wgs.foldl (fun a wg =>
        if wg.core = core && !wg.ended then
          { wgs := a.wgs + 1, warps := a.warps + wg.warps.length, scratch := a.scratch + fl.launch.reserve, acc := a.acc + fl.launch.acc
            tags := a.tags + fl.launch.tags
            slices := wg.warps.foldl (fun l w => modifyNth (· + 1) w.slice l) a.slices
            slots := a.slots ++ wg.warps.map fun w => (w.slice, w.slot)
            places := a.places ++ [wg.slot]
            ranges := a.ranges ++ [(wg.scratchAt, fl.launch.reserve)] }
        else a) a
    else a) ⟨0, 0, 0, 0, 0, List.replicate 16 0, [], [], []⟩

/-- The slice with the fewest warps, and how many. -/
def leastSlice (l : List Nat) : Nat × Nat :=
  l.zipIdx.foldl (fun b x => if x.1 < b.2 then (x.2, x.1) else b) (0, l.headD 0)
/-- Binds n warps to slices, each to the one with the fewest (R137); none when a slice would hold more than 8. -/
def bindSlices : Nat → List Nat → Option (List Nat)
  | 0, _ => some []
  | n + 1, l =>
    let (k, x) := leastSlice l
    if 8 ≤ x then none else (bindSlices n (modifyNth (· + 1) k l)).map (k :: ·)
/-- The places that warps take in their slices: the lowest free one each (R137, log 81). -/
def takeSlots : List Nat → List (Nat × Nat) → List Nat
  | [], _ => []
  | k :: rest, taken =>
    let n := firstNot ((taken.filter fun q => q.1 == k).map Prod.snd) 8 0
    n :: takeSlots rest ((k, n) :: taken)
/-- Where an allocation of n bytes goes: the lowest multiple of 1,536 from which n bytes are free (R209, log 81). -/
def CoreUse.gap (u : CoreUse) (n : Nat) : Option Nat :=
  (List.range 256).findSome? fun k =>
    let a := 1536 * k
    if decide (a + n ≤ 393216) && u.ranges.all fun r => decide (r.1 + r.2 ≤ a) || decide (a + n ≤ r.1) then some a else none
/-- The slices of a workgroup's warps if the core can hold it (R152): the scratchpad counts whole multiples of 1,536 (R209). -/
def Launch.fits (l : Launch) (u : CoreUse) : Option (List Nat) :=
  if u.wgs < 4 && decide (u.warps + l.wg ≤ 128) && decide (u.scratch + l.reserve ≤ 393216) && (u.gap l.reserve).isSome && decide (u.acc + l.acc ≤ 8) &&
    decide (u.tags + l.tags ≤ 256) then bindSlices l.wg u.slices else none

/-- The clusters on which a partition's flocks hold cores, and those on which others do. -/
def State.clustersOf (s : State) (keep : Nat → Bool) : List Nat :=
  (s.flocks.flatMap fun fl =>
    if fl.onCores && keep fl.p then (fl.wgs.filter fun wg => !wg.ended).map fun wg => wg.core / 8 else []).eraseDups
/-- The cores that a flock holds, and those that a partition does: a workgroup that has ended holds none (R149, R351, R356, log 34). -/
def Flock.cores (fl : Flock) : List Nat := if fl.onCores then (fl.wgs.filter fun wg => !wg.ended).map fun wg => wg.core else []
def State.coresHeld (s : State) (p : Nat) : Nat := (s.flocks.flatMap fun fl => if fl.p == p then fl.cores else []).eraseDups.length

/-- The places that a launch's flock fits: the first core of each run of consecutive cores of a cluster (R153), on clusters that hold no flock
of another partition, and no more of them than the partition's grant (R351). -/
def State.placesFor (s : State) (p : Nat) (l : Launch) : List Nat :=
  let mine := s.clustersOf (· == p)
  let others := s.clustersOf (· != p)
  let n := l.m * l.s
  ((List.range s.device.clusters).filter fun c =>
      !others.contains c && decide (8 * (if mine.contains c then mine.length else mine.length + 1) ≤ (s.part p).sched.grant)).flatMap fun c =>
    ((List.range (9 - n)).map fun k => 8 * c + k).filter fun first =>
      (List.range n).all fun k => (l.fits (s.coreUse (first + k))).isSome

/-- The place that flock f takes among those that fit (R155: any of them): the loader's choice, the first where it names none (log 34). -/
def State.place (s : State) (p : Nat) (l : Launch) (f : Nat) : Option Nat :=
  match s.placesFor p l with
  | [] => none
  | first :: more => some (nth first (first :: more) (assocGet 0 s.cores f))

/-! ## New flocks -/

/-- The linear index of a flock's first workgroup (R155). -/
def Launch.wgid0 (l : Launch) (x y z : Nat) : Nat := ((z * l.ny + y) * l.nx + x) * (l.m * l.s)

/-- A workgroup as its flock is placed (R138, R149, R152, R154). -/
def newWorkgroup (l : Launch) (wgid k core : Nat) (slices : List Nat) (warps : List Warp) : Workgroup where
  wgid := wgid
  member := k % l.m
  stage := k / l.m
  core := core
  slot := 0
  scratchAt := 0
  warps := warps.zipIdx.map fun w => { w.1 with slice := nth 0 slices w.2, slot := nth 0 (takeSlots slices []) w.2 }
  herder := if l.pool.isSome then none else some (Warp.new l [{ Thread.new with g := 0x8000 }] 0)
  scratch := []
  granules := 0
  tags := List.replicate l.tags 0
  tagUse := 0
  tiles := List.replicate l.acc []
  opnum := 1
  matQ := []
  q3 := []
  q3asked := 0
  q1 := []
  q1asked := 0
  copies := []
  hurdles := List.replicate 16 0
  dq := []
  dqBase := 0
  notices := []
  waits := []
  pops := []
  rounds := []
  ended := false

/-- A workgroup on a core whose use is given: its core, its place there, its range of the scratchpad, its warps' slices and their places. -/
def Workgroup.putOn (wg : Workgroup) (l : Launch) (core : Nat) (u : CoreUse) : Workgroup :=
  let slices := (l.fits u).getD []
  let slots := takeSlots slices u.slots
  { wg with
    core := core, slot := firstNot u.places 4 0, scratchAt := (u.gap l.reserve).getD 0
    warps := wg.warps.zipIdx.map fun w => { w.1 with slice := nth 0 slices w.2, slot := nth 0 slots w.2 } }

/-- A flock placed from a core on. -/
def State.newFlock (s : State) (p seq : Nat) (l : Launch) (x y z wgid0 first : Nat) (warps : List Warp) : Flock where
  p := p
  seq := seq
  launch := l
  x := x
  y := y
  z := z
  wgs := (List.range (l.m * l.s)).map fun k =>
    (newWorkgroup l (wgid0 + k) k (first + k) [] warps).putOn l (first + k) (s.coreUse (first + k))
  hurdles := List.replicate 16 0
  status := .resident
  placedAt := s.cycle
  preempted := 0
  marks := []

/-- The warps of a field's workgroup (R138). -/
def Launch.warps (l : Launch) : List Warp := List.replicate l.wg (Warp.new l (List.replicate 32 Thread.new) 0)
/-- Flocks of a field. -/
def Launch.flocks (l : Launch) : Nat := l.nx * l.ny * l.nz

/-! ## Resuming a folded flock (R338, R344, R347) -/

/-- A folded flock's threads as they come back: timers and waits restart and open rounds are gone; who has been released from a JOIN, a WSYNC
or a stile round stays released (R347). -/
def Warp.resumed (w : Warp) : Warp :=
  { w with yields := [], threads := w.threads.map fun t => { t with wait := 0, hold := if t.atHurdle || t.past || t.hold.awaits ≠ 0 then t.hold else .none } }

/-- A cancelled lane of a stray takes CANCELLED (R338). -/
def State.cancelLane (s : State) (f m u lane : Nat) : State :=
  match s.thread? f m u lane with
  | some t =>
    (match t.life with
      | .stray _ addr =>
        let s := s.modThread f m u lane fun t => { t with life := .live }
        s.takeTrap f m u lane causeCancelled t.pc.toNat t.pc.toNat addr
      | _ => s)
  | none => s
/-- The lanes of a flock parked under a fault identifier: member, unit, lane. -/
def Flock.strayLanes (fl : Flock) (fid : Word) : List (Nat × Nat × Nat) :=
  fl.wgs.zipIdx.flatMap fun wg => wg.1.units.flatMap fun u =>
    match wg.1.unit? u with
    | some w => (w.lanesWith fun t => match t.life with | .stray x _ => x == fid | _ => false).map fun l => (wg.2, u, l)
    | none => []
/-- Replays a stray, or cancels the lanes of a mask (R337, R338). -/
def State.answerStray (s : State) (f : Nat) (fid : Word) (cancel : Bool) (mask : Word) : State :=
  match s.flock? f with
  | some fl =>
    (fl.strayLanes fid).foldl (fun s q =>
      if !cancel then s.modThread f q.1 q.2.1 q.2.2 fun t => { t with life := .live, hold := .none }
      else if mask.getLsbD q.2.2 then s.cancelLane f q.1 q.2.1 q.2.2 else s) s
  | none => s

/-- Whether a notice is of a nested trap: after a resume these come first (R347). -/
def Notice.isNested : Notice → Bool | .nested _ _ => true | .xfthresh _ => false
/-- The notices of nested traps before those of thresholds, each in its order (R347). -/
def Workgroup.nestedFirst (wg : Workgroup) : Workgroup :=
  { wg with notices := wg.notices.filter Notice.isNested ++ wg.notices.filter fun n => !n.isNested }
/-- Places a folded flock again at a run of cores (R347); its first loads miss every copy (R264). -/
def State.resume (s : State) (f first : Nat) : State :=
  match s.flock? f with
  | some fl =>
    let wgs := fl.wgs.zipIdx.map fun wg =>
      { wg.1 with
        warps := wg.1.warps.map Warp.resumed
        herder := wg.1.herder.map Warp.resumed
        rounds := [] }.putOn fl.launch (first + wg.2) (s.coreUse (first + wg.2))
    let marks := fl.marks
    let s := (({ s with copies := s.copies.filter fun c => wgs.all fun wg => wg.core ≠ c.core } : State).startFlock { fl with wgs := wgs }).modFlock f fun fl =>
      { fl with wgs := wgs, status := .resident, placedAt := s.cycle, marks := [] }
    let s := marks.foldl (fun s k => s.answerStray f k.fid k.cancel k.mask) s
    (s.modFlock f fun fl => { fl with wgs := fl.wgs.map Workgroup.nestedFirst }).settleFlock f
  | none => s

/-! ## Placing (R353) -/

/-- The folded flocks of a task that wait to be placed again: those that no BKPT holds (R361). -/
def State.foldedFlocks (s : State) (p seq : Nat) : List Nat :=
  s.flocks.zipIdx.filterMap fun fl =>
    if fl.1.p = p && fl.1.seq = seq then (match fl.1.status with | .folded _ none => some fl.2 | _ => none) else none

/-- Places the warps that a pool's sorter has formed, while they fit, each as a flock of its own (R159, R353). -/
def State.placeWarps (s : State) (p : Nat) (t : Task) (l : Launch) : List (Nat × List ContRecord) → State
  | [] => s
  | (wgid, rs) :: more =>
    match s.place p l s.flocks.length with
    | some first =>
      let thread (r : ContRecord) : Thread :=
        { Thread.new with
          pc := BitVec.ofNat 24 (nth 0 r.words 0).toNat
          v := (List.range 6).foldl (fun v k => v.set! k (nth 0 r.words (k + 2))) Thread.new.v }
      let threads := (List.range 32).map fun k => match rs[k]? with | some r => thread r | none => Thread.missing
      let fl := s.newFlock p t.seq l 0 0 0 wgid first [Warp.new l threads 0]
      (({ s.startFlock fl with flocks := s.flocks ++ [fl] }).modPart p fun u =>
        { u with pools := u.pools.map fun (q : Pool) => if q.seq = t.seq then { q with warps := q.warps.drop 1 } else q }).placeWarps p t l more
    | none => s
/-- The pool of a task. -/
def State.poolSeq (s : State) (p seq : Nat) : Option Pool := (s.part p).pools.find? fun q => q.seq == seq

/-- Resumes folded flocks at places that fit them. -/
def State.placeFolded (s : State) (p : Nat) (l : Launch) : List Nat → State
  | [] => s
  | f :: rest =>
    match s.place p l f with
    | some first => (s.resume f first).placeFolded p l rest
    | none => s
/-- Whether flock k of a field has been placed. -/
def State.placedIn (s : State) (p seq : Nat) (l : Launch) (k : Nat) : Bool :=
  s.flocks.any fun fl => fl.p == p && fl.seq == seq && fl.launch.issuedAt == l.issuedAt && (fl.z * l.ny + fl.y) * l.nx + fl.x == k
/-- The first number from k on, around n, that is not taken; k with no fuel left. -/
def firstFree (taken : Nat → Bool) (n : Nat) : Nat → Nat → Nat
  | 0, k => k
  | fuel + 1, k => if taken k then firstFree taken n fuel ((k + 1) % n) else k
/-- Places flocks of a field, while they fit, in the loader's order (R155: any): by rising index where it names none. -/
def State.placeField (s : State) (p : Nat) (t : Task) (l : Launch) : Nat → State
  | 0 => s
  | n + 1 =>
    let start := assocGet (l.flocks - (n + 1)) s.order s.flocks.length
    let k := firstFree (s.placedIn p t.seq l) l.flocks l.flocks (start % l.flocks)
    match s.place p l s.flocks.length with
    | some first =>
      let x := k % l.nx
      let y := k / l.nx % l.ny
      let z := k / l.nx / l.ny
      let fl := s.newFlock p t.seq l x y z (l.wgid0 x y z) first l.warps
      (({ s.startFlock fl with flocks := s.flocks ++ [fl] }).modTask p t.seq fun t => { t with placed := t.placed + 1 }).placeField p t l n
    | none => s

/-- Places as many flocks of an issued RUN or POOL task as fit on free granted cores (R353): folded ones first. -/
def State.placeTask (s : State) (p seq : Nat) : State :=
  match s.task? p seq with
  | some t =>
    (match t.status, t.launch with
      | .issued, some l =>
        let s := s.placeFolded p l (s.foldedFlocks p seq)
        if l.pool.isSome then
          match s.poolSeq p seq with | some q => s.placeWarps p t l q.warps | none => s
        else s.placeField p t l (l.flocks - t.placed)
      | _, _ => s)
  | none => s

/-- Flocks of a task still to be placed (R353). -/
def State.unplaced (s : State) (p : Nat) (t : Task) : Nat :=
  match t.launch with
  | some l =>
    (s.foldedFlocks p t.seq).length +
      (if l.pool.isSome then
        (match s.poolSeq p t.seq with | some q => q.warps.length | none => 0)
       else l.flocks - t.placed)
  | none => 0

/-! ## Readiness (R200) -/

def Task.waits (t : Task) : Bool := t.op == 0x08 || t.op == 0x0C
/-- Whether a task that has not issued is ready, among the older tasks of the window. -/
def Task.readyAmong (t : Task) (older : List Task) : Bool :=
  t.news.all (fun v => !v.copy) &&
    older.all (fun u => !u.waits || u.done) &&
    (!(t.fixedWriter || t.op == 0x09 || t.op == 0x0C) || older.all Task.done) &&
    (t.op != 0x07 || older.all fun u => u.op != 0x07 || u.arg % 64 != t.arg % 64 || u.done) &&
    (match t.shortcut with
      | some off => older.all fun u => u.seq != off || u.done
      | none => older.all fun u => !u.conflicts t || u.done)
/-- Whether a task is a DISPATCH candidate (R352, R353). -/
def State.ready (s : State) (p : Nat) (t : Task) : Bool :=
  match t.status with
  | .decoded => t.readyAmong ((s.part p).window.filter fun u => decide (u.seq < t.seq))
  | .issued => decide (0 < s.unplaced p t)
  | _ => false

/-! ## Issue (R190, R191, R198, R201, R321-R324) -/

/-- The launch image of a RUN or POOL task: the addresses of the slots, then the parameters (R190). -/
def launchImage (t : Task) (params : List Byte) : List Byte :=
  ((List.range 6).flatMap fun k =>
    leBytes 8 (match nth none t.regions k with
      | some r => if r.kind = 1 || r.target = 0 then r.start else 0
      | none => 0)) ++ params
/-- The records 0 to n − 1 of a pool's area (R192). -/
def parseRecords (bs : List Byte) (now : Nat) : List ContRecord :=
  (pieces 32 (bs.length / 32) bs).map fun b => ⟨bytesToWords b, now⟩

/-- A launch issues (R190-R192): its image is written, with the parameters that its descriptor named when it was decoded, a pool takes its
initial records, and its flocks are placed. A read or write that fails faults the task with MEMFAULT, or UNCORR. -/
def State.issueLaunch (s : State) (p : Nat) (t : Task) (l : Launch) : State :=
  let init := if l.pool.isSome then 32 * bitsOf t.arg 31 12 else 0
  let t' := (s.served p l.params l.paramLen).served p l.area init
  match s.readVa p none l.params l.paramLen, s.readVa p none l.area init with
  | .ok (params, _), .ok (recs, _) =>
    (match t'.writeVa p none l.param.toNat (launchImage t params) (.task p t.seq) with
      | (s, .ok _) =>
        let s := (s.enterTask p t.seq).modPart p fun q =>
          { q with pools := q.pools.map fun r => if r.seq = t.seq then { r with records := [] }.take (parseRecords recs s.cycle ++ r.records) else r }
        (s.modTask p t.seq fun t => { t with status := .issued, launch := t.launch.map fun l => { l with issuedAt := s.cycle } }).placeTask p t.seq
      | (s, _) => s.faultTask p t.seq 0x0B 0)
  | a, b => t'.faultTask p t.seq (((readCause a).or (readCause b)).getD 0x0B) 0

/-- The transform stream of an XFORM task with the records that it reads at acceptance (R298, R322): its die is die 0; the choice shows in timing
only. -/
def taskStream (p num : Nat) (t : Task) (a b : Option (List Byte) × Bool × Nat) (now : Nat) : Stream where
  p := p
  num := num
  die := 0
  op := bitsOf t.arg 27 24
  k := t.flags % 32
  contract := bitsOf t.arg 31 28
  stampMask := bitAt t.flags 5
  jcb := t.ptr
  src := bitsOf t.arg 11 0
  dst := bitsOf t.arg 23 12
  srcRec := a.1.map parseLayout
  dstRec := b.1.map parseLayout
  refusal := if a.2.2 ≠ 0 then a.2.2 else b.2.2
  wg := none
  bar := none
  task := some t.seq
  lattice := none
  ka := 0
  kb := 0
  counter := counterOf (t.seq % 2 ^ 23) true 0 0 0
  pos := 0
  chosen := []
  flags := 0
  masked := a.2.1 || b.2.1
  error := 0
  active := false
  started := false
  finished := false
  penned := false
  fault := none
  need := 0
  turnAt := now

/-- The transform engine takes an XFORM task. -/
def State.acceptTask (s : State) (p : Nat) (t : Task) : State :=
  let st : Option Stamped := some ⟨bitsOf t.arg 31 28, bitAt t.flags 5⟩
  let x := taskStream p s.streamNum t (s.acceptRecord p (bitsOf t.arg 11 0) st) (s.acceptRecord p (bitsOf t.arg 23 12) st) s.cycle
  let s := (s.noteLayout p t.seq t.debug x.src).noteLayout p t.seq t.debug x.dst
  { s with streams := s.streams ++ [x], streamNum := s.streamNum + 1 }

/-- A ready task issues (R200, R201). -/
def State.issueTask (s : State) (p seq : Nat) : State :=
  match s.task? p seq with
  | none => s
  | some t =>
    let issued := s.modTask p seq fun t => { t with status := .issued }
    match t.status with
    | .issued => s.placeTask p seq
    | .decoded =>
      (match t.op, t.launch with
        | 0x01, some l | 0x02, some l => s.issueLaunch p t l
        | 0x04, _ => issued.acceptTask p t
        | 0x05, _ => issued.setBuffer p (t.arg % 4096) 3
        | 0x06, _ =>
          if t.shortcut.isSome then
            (s.completeTask p seq).modPart p fun q => { q with links := q.links.filter fun l => !(l.entry == t.arg && t.shortcut == some l.task) }
          else issued
        | 0x07, _ => s.issueColl p t
        | 0x09, _ =>
          let s := (s.raise p t.arg (BitVec.ofNat 64 t.ptr)).completeTask p seq
          if bitAt t.flags 0 then s.msix (p + 1) 0 else s
        | 0x0A, _ => if t.news.any NewVersion.zero then issued else s.completeTask p seq
        | 0x0B, _ | 0x0C, _ | 0x0F, _ => s.completeTask p seq
        | _, _ => issued)
    | _ => s

/-! ## Aborts (R339, R340) -/

/-- What an aborted flock leaves nowhere: its results in flight, its transforms over its own scratchpad, its threads. -/
def State.clearFlock (s : State) (f : Nat) (status : FlockStatus) : State :=
  let dead (t : Stream) : Bool :=
    (match t.wg with | some (g, _) => g == f | none => false) &&
      (match t.layouts with
        | some (a, b) => (decide (localBase ≤ a.base) && decide (a.base < localEnd)) || (decide (localBase ≤ b.base) && decide (b.base < localEnd))
        | none => false)
  let s := { s with
    landings := s.landings.filter fun l => l.f != f
    randoms := s.randoms.filter fun l => l.f != f
    streams := s.streams.filter fun t => !dead t
    bad := s.bad.filter fun b => match b with
      | .reg g _ _ _ _ | .scratch g _ _ | .tile g _ _ | .tag g _ _ => g != f
      | _ => true }
  s.modFlock f fun fl =>
    { fl with status := status, marks := [], wgs := fl.wgs.map fun wg =>
        { wg with warps := [], herder := none, scratch := [], granules := 0, tags := [], tiles := [], matQ := [], copies := [], waits := []
                  pops := [], rounds := [], notices := [], dq := [], q1 := [], q3 := [], ended := true } }

/-- Faults that no command can find any more: those of an aborted flock's strays and tile copies. -/
def FaultContext.ofFlock (f : Nat) : FaultContext → Bool
  | .stray g _ _ | .tileCopy g _ | .halt g => g == f
  | _ => false
def State.dropFaults (s : State) (p : Nat) (gone : FaultContext → Bool) : State :=
  s.modPart p fun q => { q with faults := q.faults.map fun r => if gone r.context then { r with pending := false, decide := false } else r }

/-- Every other flock of a task stops (R340). -/
def State.stopFlocks (s : State) (p seq : Nat) : State :=
  (List.range s.flocks.length).foldl (fun s f =>
    match s.flock? f with
    | some fl =>
      if fl.p = p && fl.seq = seq then
        (match fl.status with
          | .aborted | .retired => s
          | _ => (s.clearFlock f .aborted).dropFaults p (FaultContext.ofFlock f))
      else s
    | none => s) s

/-- The task fault of an abort's cause (R340). -/
def abortFault (cause : Nat) : Nat × Nat :=
  if cause = causeCancelled || cause = causePeer then (0x0B, 0)
  else if cause = causeUncorrMem then (0x0C, 0)
  else if cause = causeTimeout then (0x0D, 0)
  else (0x09, cause)
/-- DETAIL of the record of an abort: the trap cause (R336); of a refused peer access the spec gives none, and the code is some one of those that
are recorded (R327). -/
def abortDetail (cause : Nat) : Nat :=
  if cause = causeUncorrMem then causeUncorr
  else if cause = causePeer then (let k := Config.peerDetail % 51; if k < 19 then k + 1 else k + 13)
  else cause

/-- A flock aborts (R339, R340): one record of KIND 7, every flock of its task stops, and the task faults. -/
def State.abortFlock (s : State) (f : Nat) : State :=
  match s.flock? f with
  | some fl =>
    (match fl.status with
      | .aborting cause m u lane addr pc =>
        let wgid := match fl.wgs[m]? with | some wg => wg.wgid | none => 0
        let s := s.raiseFault fl.p { FaultRec.blank 7 (.abort f) with
          seq := fl.seq, wgid := wgid % 2 ^ 23, lanes := BitVec.ofNat 32 (pc % 2 ^ 24), lane := if u = herderUnit then 0 else lane
          warp := u, va := addr, detail := abortDetail cause }
        let s := s.stopFlocks fl.p fl.seq
        s.faultTask fl.p fl.seq (abortFault cause).1 (abortFault cause).2
      | _ => s)
  | none => s

/-- A time limit expires (R339, R362): one record for the task. -/
def State.expire (s : State) (p seq : Nat) : State :=
  match s.task? p seq with
  | some t =>
    (match t.launch with
      | some l =>
        if l.limit = 0 || t.ticked < l.limit * 1024 || t.isFaulted || t.done then s
        else
          let ids := s.flocks.filterMap fun fl =>
            if fl.p = p && fl.seq = seq && fl.onCores then fl.wgs.head?.map Workgroup.wgid else none
          let least := ids.foldl min (ids.headD 0)
          let s := s.raiseFault p { FaultRec.blank 7 (.task seq) with
            seq := seq, wgid := least % 2 ^ 23, warp := 0xFE, detail := causeTimeout }
          (s.stopFlocks p seq).faultTask p seq 0x0D 0
      | none => s)
  | none => s

/-! ## Completion -/

/-- Whether a pool has work left: records, or a live or unplaced thread. -/
def State.poolIdle (s : State) (p : Nat) (q : Pool) : Bool :=
  q.records.isEmpty && q.warps.isEmpty && !(s.flocks.any fun fl => fl.p == p && fl.seq == q.seq && fl.status != .retired && fl.status != .aborted)
/-- Whether an issued task has completed by the state of the window (R192, R201): a RUN by its flocks, a POOL, a WAIT. -/
def State.completes (s : State) (p : Nat) (t : Task) : Bool :=
  t.status == .issued &&
    (match t.op with
      | 0x01 => (match t.launch with
          | some l => decide (l.flocks ≤ t.placed) &&
              !(s.flocks.any fun fl => fl.p == p && fl.seq == t.seq && fl.status != .retired && fl.status != .aborted)
          | none => false)
      | 0x02 => (match (s.part p).pools.find? fun q => q.seq == t.seq with
          | some q => s.poolIdle p q && ((s.part p).window.all fun u => decide (t.seq ≤ u.seq) || u.done)
          | none => false)
      | 0x08 => decide (t.ptr ≤ ((s.part p).counter t.arg).toNat)
      | _ => false)
/-- Tasks that complete now, and tasks that become ready now (R200, R356). -/
def State.settleTasks (s : State) (p : Nat) : State :=
  let s := ((s.part p).window.filter (s.completes p)).foldl (fun s t => s.completeTask p t.seq) s
  (s.part p).window.foldl (fun s t =>
    if t.readyAt.isNone && t.status == .decoded && s.ready p t then s.modTask p t.seq fun t => { t with readyAt := some s.cycle } else s) s

end Sys2Proof.Machine
end

