-- ==== Sys2Proof/Machine/Transform.lean ====
section
/-! DEFINITION. The transform engine (13_async_engines.md R315-R320): what each opcode writes, scales and MX blocks, the
job control block, pens, and writes to packed pages (09 R232, R234). -/
namespace Sys2Proof.Machine
open Sys2Proof

/-! ## Scale arrays (R317) -/

def Layout.q0 (l : Layout) : Nat := (l.ext0 + 15) / 16
def Layout.q1 (l : Layout) : Nat := (l.ext1 + 15) / 16
/-- Squares of a tensor, and 8 × 8 sub-squares. -/
def Layout.squares (l : Layout) : Nat := l.q0 * l.q1 * l.ext2
def Layout.subs (l : Layout) : Nat := ((l.ext0 + 7) / 8) * ((l.ext1 + 7) / 8) * l.ext2
/-- The index of the square, of the sub-square and of the MX block that hold an element. -/
def Layout.square (l : Layout) (i0 i1 i2 : Nat) : Nat := (i2 * l.q1 + i1 / 16) * l.q0 + i0 / 16
def Layout.sub (l : Layout) (i0 i1 i2 : Nat) : Nat := (i2 * ((l.ext1 + 7) / 8) + i1 / 8) * ((l.ext0 + 7) / 8) + i0 / 8
def Layout.block (l : Layout) (i0 i1 i2 : Nat) : Nat := (i2 * l.ext1 + i1) * ((l.ext0 + 31) / 32) + i0 / 32
/-- Bytes of a scale array's first part, the address of its second part, and the bytes of that (R317). -/
def Layout.bytes1 (l : Layout) : Nat := if l.elem = .nq4 then l.subs else if l.elem.hasDelta then (l.squares + 1) / 2 else 0
def Layout.part2 (l : Layout) : Nat := roundUp (l.sbase + l.bytes1) 16
def Layout.bytes2 (l : Layout) : Nat :=
  match l.elem with | .int8 => l.squares | .int4 => (l.squares + 1) / 2 | .nq4 => 4 * l.squares | _ => 0
/-- Nibble address of a delta, and of a zero point. -/
def Layout.deltaAt (l : Layout) (q : Nat) : Nat := 2 * l.sbase + q
def Layout.zeroAt (l : Layout) (q : Nat) : Nat := 2 * l.part2 + q * l.nibs
/-- The nibble addresses and counts of the scales of an element (R317). -/
def Layout.scaleRuns (l : Layout) (i0 i1 i2 : Nat) : List (Nat × Nat) :=
  if l.scl = 1 then [(2 * (l.sbase + l.block i0 i1 i2), 2)]
  else if l.elem = .nq4 then [(2 * (l.sbase + l.sub i0 i1 i2), 2), (2 * (l.part2 + 4 * l.square i0 i1 i2), 8)]
  else if l.elem.hasDelta then
    (l.deltaAt (l.square i0 i1 i2), 1) :: if l.elem.hasZero then [(l.zeroAt (l.square i0 i1 i2), l.nibs)] else []
  else []

/-! ## Accesses of a stream -/

/-- What an access or a step of a stream gives: done, a translation fault, an error code, too few chunks, or scratchpad data at an offset whose
check bits fail; and where it is not done, whether it has met a mismatch that the mask let pass (R299). -/
inductive XRes (α : Type) where
  | ok (x : α)
  | absent (va detail : Nat) (masked : Bool := false)
  | err (code : Nat) (masked : Bool := false)
  | poor (need : Nat) (masked : Bool := false)
  | lost (off : Nat) (masked : Bool := false)
  deriving Repr

def XRes.bind {α β : Type} (r : XRes α) (f : α → XRes β) : XRes β :=
  match r with
  | .ok x => f x
  | .absent va d m => .absent va d m
  | .err c m => .err c m
  | .poor n m => .poor n m
  | .lost a m => .lost a m
/-- A step that follows a mismatch that was let pass, if there was one. -/
def XRes.saw {α : Type} (m : Bool) : XRes α → XRes α
  | .ok x => .ok x
  | .absent va d k => .absent va d (m || k)
  | .err c k => .err c (m || k)
  | .poor n k => .poor n (m || k)
  | .lost a k => .lost a (m || k)
/-- A step after one whose result says whether it met such a mismatch. -/
def XRes.seen {α β : Type} (r : XRes (α × Bool)) (f : α × Bool → XRes β) : XRes β := r.bind fun q => (f q).saw q.2
/-- Whether a step that is not done met such a mismatch. -/
def XRes.masked {α : Type} : XRes α → Bool
  | .ok _ => false
  | .absent _ _ m | .err _ m | .poor _ m | .lost _ m => m
/-- A read through the page table; met says what it met of mismatches before it stopped. -/
def XRes.ofRead {α : Type} (met : Bool) : EngineRes α → XRes α
  | .ok x => .ok x
  | .absent va => .absent va 1 met
  | .err c => .err c met

def Stream.stamped (t : Stream) : Option Stamped := some ⟨t.contract, t.stampMask⟩
/-- Whether a base lies in the local window. -/
def inLocal (base : Nat) : Bool := localBase ≤ base && base < localEnd
/-- The scratchpad that an address of a tensor or a scale array names for a stream, if its base lies in the local window (R299, which says so of BASE;
of SBASE it is the model's reading, log 105). -/
def Stream.local? (t : Stream) (base va : Nat) : Option (Nat × Nat × Nat) :=
  match t.wg with
  | some (f, m) => if inLocal base then some (f, m, va - localBase) else none
  | none => none

/-- The task that a stream works for. -/
def State.streamSeq (s : State) (t : Stream) : Nat :=
  match t.task, t.wg with
  | some q, _ => q
  | none, some (f, _) => (match s.flock? f with | some fl => fl.seq | none => 0)
  | none, none => 0
/-- A stream as the operation that its writes belong to, and its writes (R267, R268). -/
def Stream.writeOp (t : Stream) : WriteOp := .stream (t.wg.map Prod.fst) t.num
def State.streamWriter (s : State) (t : Stream) : Writer := { Writer.engine with p := t.p, seq := some (s.streamSeq t), op := t.writeOp }
/-- Whether a read of n bytes meets a mismatch that the mask lets pass, before it stops. -/
def State.readMasked (s : State) (p : Nat) (st : Option Stamped) : Nat → Nat → Nat → Bool
  | 0, _, _ => false
  | fuel + 1, va, n =>
    if n = 0 then false
    else match s.translate p va .read with
      | .leaf l =>
        let k := spanHere va n
        !stampStops st l && (stampMismatch st l || ((s.pageRead p l va k).isSome && !s.pageBad p l va k && s.readMasked p st fuel (va + k) (n - k)))
      | _ => false
/-- Reads bytes of global memory for a stream. -/
def State.xBytes (s : State) (t : Stream) (va n : Nat) : XRes (List Byte × Bool) :=
  XRes.ofRead (s.readMasked t.p t.stamped (spanFuel n) va n) (s.readVa t.p t.stamped va n)
/-- Reads nibbles for a stream, of what has a base: from its workgroup's scratchpad or from global memory (R299). A workgroup that has ended has no
allocation any more (R210, log 108). -/
def State.xRead (s : State) (t : Stream) (base a n : Nat) : XRes (List Nat × Bool) :=
  let (b, k) := nibSpan a n
  match t.local? base b with
  | some (f, m, off) =>
    match s.wg? f m, s.flock? f with
    | some wg, some fl =>
      if wg.ended || decide (fl.launch.scratch < off + k) then .err 0x02
      else if s.scratchBad f m off k then .lost off
      else .ok (((toNibs (cellsRead wg.scratch off k)).drop (a % 2)).take n, false)
    | _, _ => .err 0x02
  | none => XRes.ofRead (s.readMasked t.p t.stamped (spanFuel k) b k) (s.readNibs t.p t.stamped a n)

/-- The number that nibbles form, low first. -/
def nibNum : List Nat → Nat
  | [] => 0
  | x :: xs => x + 16 * nibNum xs
/-- The nibbles of a number. -/
def numNibs : Nat → Nat → List Nat
  | 0, _ => []
  | n + 1, x => x % 16 :: numNibs n (x / 16)
/-- Reads one number of n nibbles. -/
def State.xNum (s : State) (t : Stream) (base a n : Nat) : XRes (Nat × Bool) :=
  (s.xRead t base a n).bind fun r => .ok (nibNum r.1, r.2)

/-- A write of a transform to a block of an immutable packed page: merged into the old block, encoded into a fresh chain,
and the map word swapped; it may have read the block before another stream's swap, whose elements are then lost; the old chain waits for the leases on the word (R232, R265, R320).
The L2 serves the lines of the fresh chain and of the map word (R225, R226). -/
def State.writeImmutable (s : State) (t : Stream) (l : Leaf) (va : Nat) (bs : List Byte) : XRes State :=
  let p := t.p
  match s.keyOf p l.key with
  | none => .err 0x03
  | some key =>
    let j := (va - l.start) / 2048
    let (n, _, first) := s.mapWord key l j
    match s.readBlock p key l j, s.chain p (min n 8) first with
    | some now, some chain =>
      let before := s.swaps.find? fun w => w.block == l.mapAt j && (w.p != p || w.jcb != t.jcb) && decide (t.turnAt ≤ w.since)
      let old := match before with | some w => if Config.losesBlock s.fresh then w.old else now | none => now
      let s := if before.isSome then s.nextFresh else s
      let (k, raw, stream) := packBlock (patch old ((va - l.start) % 2048) bs)
      match s.takeChunks p k with
      | none => .poor k
      | some (cs, s) =>
        let s := cs.foldl (fun s c => s.touch p l.cls l.key true (s.chunkAt p c) 256) s
        let s := (s.touch p l.cls l.key true (l.mapAt j) 8).storeChunks p key cs stream
        let s := s.setMapWord key l j k raw (if k = 0 then 0xFFFFFFFF else cs.headD 0)
        let s := { s with swaps := (s.swaps.filter fun w => s.streams.any fun u => decide (u.turnAt ≤ w.since)) ++ [⟨l.mapAt j, p, t.jcb, now, s.cycle⟩] }
        .ok (if chain.isEmpty then s else { s with reclaims := s.reclaims ++ [⟨p, chain, (s.home (l.mapAt j / 128)).2, s.cycle⟩] })
    | _, _ => .err 0x03

/-- Writes bytes for a stream to global memory, page by page and block by block. -/
def State.xWriteBytes (s : State) (t : Stream) : Nat → Nat → List Byte → XRes (State × Bool)
  | 0, _, _ => .ok (s, false)
  | fuel + 1, va, bs =>
    if bs.isEmpty then .ok (s, false)
    else match s.translate t.p va .write with
      | .absent => .absent va 2
      | .refused => .err 0x03
      | .uncorr => .err 0x07
      | .leaf l =>
        let k := spanHere va bs.length
        if stampStops t.stamped l then .err 0x05
        else if l.packed && (l.mut_ || decide (k < 2048)) && s.pageBad t.p l va k then .err 0x07 (stampMismatch t.stamped l)
        else
          let r : XRes State :=
            let s := s.noteWalk t.p va
            if l.packed && !l.mut_ then
              ((if k < 2048 then s.touchPage t.p l false va k else s).noteLate (s.streamWriter t) t.p l va k).writeImmutable t l va (bs.take k)
            else match ((s.touchPage t.p l true va k).noteLate (s.streamWriter t) t.p l va k).pageWrite t.p l va (bs.take k) with
              | some s => .ok s
              | none => .err 0x03
          (r.bind fun s => (s.xWriteBytes t fuel (va + k) (bs.drop k)).bind fun q => .ok (q.1, q.2 || stampMismatch t.stamped l)).saw (stampMismatch t.stamped l)

/-- Makes the granules of bytes full that a transform skips of a destination in the scratchpad (R211). -/
def State.xSkip (s : State) (t : Stream) (base a n : Nat) : State :=
  let (b, k) := nibSpan a n
  match t.local? base b with
  | some (f, m, off) =>
    match s.flock? f with
    | some fl => if fl.launch.scratch < off + k then s else s.fillRange f m off k
    | none => s
  | none => s
/-- Writes nibbles for a stream; a granule of the scratchpad that it covers becomes full (R211). -/
def State.xWrite (s : State) (t : Stream) (base a : Nat) (new : List Nat) : XRes (State × Bool) :=
  let (b, k) := nibSpan a new.length
  match t.local? base b with
  | some (f, m, off) =>
    match s.wg? f m, s.flock? f with
    | some wg, some fl =>
      if wg.ended || decide (fl.launch.scratch < off + k) then .err 0x02
      else
        let s := s.scratchPut f m off (mergeNibs (cellsRead wg.scratch off k) (a % 2) new)
        .ok (s.fillRange f m off k, false)
    | _, _ => .err 0x02
  | none =>
    let old := (List.range k).map fun i =>
      if (i = 0 && a % 2 = 1) || (i + 1 = k && (a + new.length) % 2 = 1) then s.peek t.p (b + i) else 0
    s.xWriteBytes t (spanFuel k) b (mergeNibs old (a % 2) new)

/-! ## Values -/

/-- A value over 255 as a binary value with a sticky bit below 64 more bits: every rounding of it is the exact one's. -/
def exactOf (v : Val) (den : Nat) : Val :=
  match v with
  | .fin s m e => if den = 1 then v else let x := m * 2 ^ 64; .fin s (2 * (x / den) + (if x % den = 0 then 0 else 1)) (e - 65)
  | _ => v

/-- An MX scale byte as a factor: none for NaN (R317). -/
def mxScale (x : Nat) : Option Int := if x = 255 then none else some ((x : Int) - 127)

/-- The exact value of a source element with its scales (R73-R76, R317); CAST reads it unscaled. -/
def State.sourceValue (s : State) (t : Stream) (l : Layout) (scaled : Bool) (i0 i1 i2 : Nat) : XRes (Val × Bool) :=
  (s.xNum t l.base (l.nibAddr i0 i1 i2) l.nibs).seen fun r =>
    match l.elem.fmt with
    | some g =>
      let v := decode g r.1
      if g = .fp32 || g = .fp16 || g = .bf16 then .ok (v, r.2)
      else if !scaled then .ok (v, r.2)
      else if l.scl = 1 then
        (s.xNum t l.sbase (2 * (l.sbase + l.block i0 i1 i2)) 2).seen fun q =>
          .ok (match mxScale q.1 with | some k => v.scale k | none => .nan, r.2 || q.2)
      else
        (s.xNum t l.sbase (l.deltaAt (l.square i0 i1 i2)) 1).seen fun q =>
          .ok ((elemValue l.elem r.1 { e := l.se, delta := q.1 }).1, r.2 || q.2)
    | none =>
      if l.elem = .nq4 then
        (s.xNum t l.sbase (2 * (l.sbase + l.sub i0 i1 i2)) 2).seen fun q =>
          (s.xNum t l.sbase (2 * (l.part2 + 4 * l.square i0 i1 i2)) 8).seen fun u =>
            let v := elemValue .nq4 r.1 { sub := q.1, super := BitVec.ofNat 32 u.1 }
            .ok (exactOf v.1 v.2, r.2 || q.2 || u.2)
      else
        (s.xNum t l.sbase (l.deltaAt (l.square i0 i1 i2)) 1).seen fun q =>
          (s.xNum t l.sbase (l.zeroAt (l.square i0 i1 i2)) l.nibs).seen fun u =>
            .ok ((elemValue l.elem r.1 { e := l.se, delta := q.1, zero := u.1 }).1, r.2 || q.2 || u.2)

/-- The value that a transform converts: a subnormal FP32, FP16 or BF16 operand is zero under a flushing contract (R84). -/
def Layout.operand (l : Layout) (c : Contract) (v : Val) : Val :=
  match l.elem.fmt with
  | some g => if g = .fp32 || g = .fp16 || g = .bf16 then flushIn c g v else v
  | none => v
/-- The values of several source elements, as a transform converts them. -/
def State.sourceValues (s : State) (t : Stream) (l : Layout) : List (Nat × Nat × Nat) → XRes (List Val × Bool)
  | [] => .ok ([], false)
  | (i0, i1, i2) :: rest =>
    (s.sourceValue t l true i0 i1 i2).seen fun v => (s.sourceValues t l rest).bind fun r => .ok (l.operand (contractOf t.contract) v.1 :: r.1, v.2 || r.2)

/-- The present elements of the square, or of the MX block, that holds an element. -/
def Layout.squareElems (l : Layout) (i0 i1 i2 : Nat) : List (Nat × Nat × Nat) :=
  (List.range 16).flatMap fun b => (List.range 16).filterMap fun a =>
    let x := i0 / 16 * 16 + a
    let y := i1 / 16 * 16 + b
    if x < l.ext0 && y < l.ext1 then some (x, y, i2) else none
def Layout.blockElems (l : Layout) (i0 i1 i2 : Nat) : List (Nat × Nat × Nat) :=
  (List.range 32).filterMap fun a => let x := i0 / 32 * 32 + a; if x < l.ext0 then some (x, i1, i2) else none

/-- The MX scale of a block, and whether it was clamped at 254 (R317). -/
def chooseMx (f : Elem) (vs : List Val) : Nat × Bool :=
  if vs.any Val.isNan then (255, false)
  else match amaxOf vs with
    | .fin _ m e =>
      if m = 0 then (127, false)
      else
        let x : Int := floorLog2 m 1 e - f.emax + 127
        if x < 0 then (0, false) else if 254 < x then (254, true) else (x.toNat, false)
    | _ => (254, true)

/-! ## Job control block (R318) -/

/-- Adds to a 32-bit counter, which stops at its top, and says whether a threshold is crossed. -/
def addCount (old k lim : Nat) : Nat × Bool :=
  let new := min (old + k) 0xFFFFFFFF
  (new, lim ≠ 0 && decide (old < lim) && decide (lim ≤ new))

/-- A notice of a threshold crossing for the herder of the issuing workgroup (R335). -/
def State.threshold (s : State) (t : Stream) : State :=
  match t.wg with
  | some (f, m) => s.modWg f m fun wg =>
      let held := (wg.notices.filter fun n => match n with | .xfthresh _ => true | _ => false).length
      if wg.herderTakes && decide (held < 16) then { wg with notices := wg.notices ++ [.xfthresh (BitVec.ofNat 64 t.jcb)] } else wg
  | none => s

/-- What a segment counted: elements, saturations, flushes, NaNs. -/
structure Counts where
  elems : Nat := 0
  sats : Nat := 0
  ftzs : Nat := 0
  nans : Nat := 0
  deriving DecidableEq, Repr

/-- Adds a segment's counts to the job control block, whose ELEMS has 64 bits; gives the flags of thresholds crossed. -/
def State.addCounts (s : State) (t : Stream) (k : Counts) : XRes (State × Nat × Bool) :=
  (s.xBytes t t.jcb 64).seen fun r =>
    let n (off : Nat) : Nat := field r.1 off 4
    let (b, x) := addCount (n 8) k.sats (n 24)
    let (c, y) := addCount (n 12) k.ftzs (n 28)
    let (d, z) := addCount (n 16) k.nans (n 32)
    let crossed := (if x then 1 else 0) + (if y then 2 else 0) + (if z then 4 else 0)
    (s.xWriteBytes t 2 t.jcb (leBytes 8 (field r.1 0 8 + k.elems) ++ leBytes 4 b ++ leBytes 4 c ++ leBytes 4 d)).seen fun q =>
      if crossed = 0 then .ok (q.1, 0, r.2 || q.2)
      else (q.1.xWriteBytes t 2 (t.jcb + 52) (leBytes 4 (n 52 ||| (crossed * 1024)))).bind fun u => .ok (u.1, crossed, r.2 || q.2)

/-! ## One segment -/

/-- A segment's work so far: nibbles to write in order, scales to write, and counts. -/
structure Segment where
  nibs : List Nat := []
  scales : List (Nat × List Nat) := []
  chosen : List (Nat × Nat)
  counts : Counts := {}
  masked : Bool := false
  deriving Repr

/-- Whether a code of a format reads as NaN. -/
def codeNan (f : Elem) (code : Nat) : Bool := match f.fmt with | some g => g ≠ .e2m1 && (decode g code).isNan | none => false
/-- Whether a code stands for zero (R318). -/
def codeZero (f : Elem) (z code : Nat) : Bool :=
  match f.fmt with | some g => (decode g code).isZero | none => code == z

/-- Appends an element that was converted from a value. -/
def Segment.add (g : Segment) (d : Layout) (z : Nat) (v : Val) (c : Coded) : Segment :=
  let k := g.counts
  let zero := !v.isNan && !v.isZero && codeZero d.elem z c.code
  { g with
    nibs := g.nibs ++ numNibs d.nibs c.code
    counts := { elems := k.elems + 1, sats := k.sats + (if c.clamped then 1 else 0), ftzs := k.ftzs + (if zero then 1 else 0)
                nans := k.nans + (if codeNan d.elem c.code then 1 else 0) } }
/-- Appends an element that is copied bit for bit. -/
def Segment.copy (g : Segment) (d : Layout) (code : Nat) : Segment :=
  { g with nibs := g.nibs ++ numNibs d.nibs code
           counts := { g.counts with elems := g.counts.elems + 1, nans := g.counts.nans + (if codeNan d.elem code then 1 else 0) } }
/-- A scale chosen for a square or block; a clamp is counted. -/
def Segment.choose (g : Segment) (idx scale : Nat) (a : Nat) (nibs : List Nat) (clamped : Bool) : Segment :=
  { g with scales := g.scales ++ [(a, nibs)], chosen := (idx, scale) :: g.chosen
           counts := { g.counts with sats := g.counts.sats + (if clamped then 1 else 0) } }
def Segment.mask (g : Segment) (x : Bool) : Segment := { g with masked := g.masked || x }

/-- The rounding of destination element j (R316): stochastic with k bits, or to nearest even. -/
def State.xMode (s : State) (t : Stream) (j : Nat) : RMode :=
  if stochastic t.op t.k then
    let n := t.counter / 2 ^ 30 * 2 ^ 30 + (t.counter + j) % 2 ^ 30
    .sr t.k (randomWord (contractOf t.contract).gen t.lattice (s.drawn t.contract n) t.ka t.kb).toNat
  else .ne

/-- A step after one that gave a segment. -/
def XRes.on {β : Type} (r : XRes Segment) (f : Segment → XRes β) : XRes β := r.bind fun g => (f g).saw g.masked
/-- One destination element of QUANT and MXIN: its square's delta is chosen first (R74, R316). In a square of delta 15, which has no scale to
divide by, every element is code 0, or the zero point (log 96). -/
def State.quantElem (s : State) (t : Stream) (src dst : Layout) (j i0 i1 i2 : Nat) (g : Segment) : XRes Segment :=
  let q := dst.square i0 i1 i2
  let ready : XRes Segment :=
    if (g.chosen.any fun e => e.1 == q) then .ok g
    else (s.sourceValues t src (dst.squareElems i0 i1 i2)).seen fun r =>
      let (d, clamped) := chooseDelta dst.elem dst.se (amaxOf r.1)
      .ok ((g.choose q d (dst.deltaAt q) [d] clamped).mask r.2)
  ready.on fun g =>
    let d := assocGet 15 (g.chosen.filter fun e => e.1 == q) q
    (s.sourceValue t src true i0 i1 i2).seen fun v =>
      (if dst.elem.hasZero then s.xNum t dst.sbase (dst.zeroAt q) dst.nibs else .ok (0, false)).seen fun z =>
        let code := if d = 15 then ⟨if dst.elem.hasZero then z.1 else 0, false, false, false⟩
          else elemCode (contractOf t.contract) false dst.elem z.1 (s.xMode t j) ((src.operand (contractOf t.contract) v.1).scale (-((dst.se : Int) - 127 + d)))
        .ok ((g.add dst z.1 v.1 code).mask (v.2 || z.2))

/-- One destination element of MXOUT (R317). -/
def State.mxoutElem (s : State) (t : Stream) (src dst : Layout) (i0 i1 i2 : Nat) (g : Segment) : XRes Segment :=
  let q := dst.block i0 i1 i2
  let ready : XRes Segment :=
    if (g.chosen.any fun e => e.1 == q) then .ok g
    else (s.sourceValues t src (dst.blockElems i0 i1 i2)).seen fun r =>
      let (x, clamped) := chooseMx dst.elem r.1
      .ok ((g.choose q x (2 * (dst.sbase + q)) [x % 16, x / 16] clamped).mask r.2)
  ready.on fun g =>
    let x := assocGet 255 (g.chosen.filter fun e => e.1 == q) q
    (s.sourceValue t src true i0 i1 i2).seen fun v =>
      let w := match mxScale x with | some k => (src.operand (contractOf t.contract) v.1).scale (-k) | none => .nan
      .ok ((g.add dst 0 v.1 (elemCode (contractOf t.contract) false dst.elem 0 .ne w)).mask v.2)

/-- One destination element of TRANS: the source bits, and for a scaled type the scales of its square (R276, R316). -/
def State.transElem (s : State) (t : Stream) (src dst : Layout) (i0 i1 i2 : Nat) (g : Segment) : XRes Segment :=
  let q := dst.square i0 i1 i2
  let ready : XRes Segment :=
    if !dst.elem.hasDelta || (g.chosen.any fun e => e.1 == q) then .ok g
    else
      let p := src.square i1 i0 i2
      (s.xNum t src.sbase (src.deltaAt p) 1).seen fun d =>
        if dst.elem.hasZero then
          (s.xNum t src.sbase (src.zeroAt p) src.nibs).seen fun z =>
            let g := g.choose q d.1 (dst.deltaAt q) [d.1] false
            .ok ({ g with scales := g.scales ++ [(dst.zeroAt q, numNibs dst.nibs z.1)] }.mask (d.2 || z.2))
        else .ok ((g.choose q d.1 (dst.deltaAt q) [d.1] false).mask d.2)
  ready.on fun g => (s.xNum t src.base (src.nibAddr i1 i0 i2) src.nibs).seen fun r => .ok ((g.copy dst r.1).mask r.2)

/-- One destination element of a transform; row is the destination row of GATHER's source and SCATADD's destination. -/
def State.xElem (s : State) (t : Stream) (src dst : Layout) (j i0 i1 i2 row : Nat) (g : Segment) : XRes Segment :=
  let c := contractOf t.contract
  match t.op with
  | 0 => (s.xNum t src.base (src.nibAddr i0 i1 i2) src.nibs).seen fun r => .ok ((g.copy dst r.1).mask r.2)
  | 1 => (s.sourceValue t src false i0 i1 i2).seen fun v => .ok ((g.add dst 0 v.1 (elemCode c false dst.elem 0 (s.xMode t j) (src.operand c v.1))).mask v.2)
  | 2 => s.quantElem t src dst j i0 i1 i2 g
  | 3 => (s.sourceValue t src true i0 i1 i2).seen fun v => .ok ((g.add dst 0 v.1 (elemCode c false dst.elem 0 .ne (src.operand c v.1))).mask v.2)
  | 4 => s.transElem t src dst i0 i1 i2 g
  | 5 => (s.xNum t src.base (src.nibAddr i0 i1 i2) 1).seen fun r => .ok ((g.copy dst r.1).mask r.2)
  | 6 => (s.xNum t src.base (src.nibAddr i0 i1 i2) 1).seen fun r => .ok ((g.copy dst r.1).mask r.2)
  | 7 => (s.xNum t src.base (src.nibAddr i0 row i2) src.nibs).seen fun r => .ok ((g.copy dst r.1).mask r.2)
  | 8 =>
    (s.sourceValue t src false i0 i1 i2).seen fun v =>
      (s.sourceValue t dst false i0 row i2).seen fun w =>
        let f := (dst.elem.fmt).getD .fp32
        let r := fadd c f w.1 v.1
        let code := encode f r.v
        let nonzero : Bool := match addExact (dst.operand c w.1) (src.operand c v.1) with | some x => !x.isNan && !x.isZero | none => false
        .ok ((g.add dst 0 (if nonzero then .one else .zero false) ⟨code, r.ovf && c.saturate, false, false⟩).mask (v.2 || w.2))
  | 9 => s.quantElem t src dst j i0 i1 i2 g
  | _ => s.mxoutElem t src dst i0 i1 i2 g

/-- Elements of a segment from its first one on, until n are done or one faults. The element that faulted, if any, is
reported with what came before it. -/
def State.xElems (s : State) (t : Stream) (src dst : Layout) (i1 i2 row j i0 : Nat) : Nat → Segment → Segment × XRes Unit
  | 0, g => (g, .ok ())
  | n + 1, g =>
    match s.xElem t src dst j i0 i1 i2 row g with
    | .ok g => s.xElems t src dst i1 i2 row (j + 1) (i0 + 1) n g
    | .absent va d m => (g, .absent va d m)
    | .err c m => (g, .err c m)
    | .poor n m => (g, .poor n m)
    | .lost a m => (g, .lost a m)

/-- Writes the scales that a segment chose. -/
def State.writeScales (s : State) (t : Stream) (sbase : Nat) : List (Nat × List Nat) → XRes (State × Bool)
  | [] => .ok (s, false)
  | (a, ns) :: rest => (s.xWrite t sbase a ns).seen fun r => (r.1.writeScales t sbase rest).bind fun q => .ok (q.1, r.2 || q.2)

/-- Copies the source's scale array at the end of a COPY of a scaled tensor, each part to its place (R316, R317). -/
def State.copyPart (s : State) (t : Stream) (src dst : Layout) (a b n : Nat) : XRes (State × Bool) :=
  if n = 0 then .ok (s, false)
  else (s.xRead t src.sbase (2 * a) (2 * n)).seen fun r => (s.xWrite t dst.sbase (2 * b) r.1).bind fun q => .ok (q.1, r.2 || q.2)
def State.copyScales (s : State) (t : Stream) (src dst : Layout) : XRes (State × Bool) :=
  (s.copyPart t src dst src.sbase dst.sbase src.bytes1).seen fun r =>
    (r.1.copyPart t src dst src.part2 dst.part2 src.bytes2).bind fun q => .ok (q.1, r.2 || q.2)

/-- Why a transform cannot run: a bad record, or a format that the opcode, the contract or the extents refuse (R298,
R299, R316, R317). -/
def transformCheck (t : Stream) (src dst : Layout) : Nat :=
  let window (l : Layout) : Bool := decide (windowBase ≤ l.base) && !(t.wg.isSome && inLocal l.base)
  if src.bad || dst.bad || window src || window dst then 0x01
  else
    let a := src.etype
    let b := dst.etype
    let plain (e : Nat) : Bool := e = 0 || e = 1 || e = 8
    let narrow (e : Nat) : Bool := 2 ≤ e && e ≤ 4
    let pairOk : Bool := match t.op with
      | 0 | 4 | 7 => a = b && b ≠ 5
      | 1 => (a ≤ 4 || a = 8) && (b ≤ 4 || b = 8)
      | 2 => plain a && (narrow b || b = 6 || b = 7)
      | 3 => (2 ≤ a && a ≤ 7) && plain b
      | 5 => a = 6 && b = 7
      | 6 => a = 7 && b = 6
      | 8 => plain a && a = b
      | 9 => narrow a && (narrow b || b = 6 || b = 7)
      | _ => (a ≤ 8) && narrow b
    let sclOk : Bool := match t.op with
      | 9 => src.scl = 1 && dst.scl = 0
      | 10 => src.scl = 0 && dst.scl = 1
      | _ => src.scl = 0 && dst.scl = 0
    let extOk : Bool := match t.op with
      | 4 => src.ext0 = dst.ext1 && src.ext1 = dst.ext0 && src.ext2 = dst.ext2
      | 7 | 8 => src.ext0 = dst.ext0 && src.ext2 = dst.ext2
      | _ => src.ext0 = dst.ext0 && src.ext1 = dst.ext1 && src.ext2 = dst.ext2
    if pairOk && sclOk && extOk && src.elem.admitted t.contract && dst.elem.admitted t.contract then 0 else 0x06

/-- The tensor that a transform walks: its destination, or for SCATADD its source. -/
def walked (t : Stream) (src dst : Layout) : Layout := if t.op = 8 then src else dst

/-- The row index of GATHER and SCATADD, at the AUX address of the job control block. -/
def State.rowIndex (s : State) (t : Stream) (i1 : Nat) : XRes (Nat × Bool) :=
  if t.op = 7 || t.op = 8 then
    (s.xBytes t (t.jcb + 40) 8).seen fun a =>
      (s.xBytes t (ofBytes a.1 + 4 * i1) 4).bind fun r => .ok (ofBytes r.1, a.2 || r.2)
  else .ok (i1, false)

/-- One turn: the elements from the saved position to the end of the row, or to the next 2 KiB of destination. The new
state and stream, or why nothing was written. -/
def State.segment (s : State) (t : Stream) (src dst : Layout) : XRes (State × Stream) :=
  let w := walked t src dst
  let i0 := t.pos % w.ext0
  let i1 := t.pos / w.ext0 % w.ext1
  let i2 := t.pos / w.ext0 / w.ext1
  (s.rowIndex t i1).seen fun idx =>
    let row := idx.1
    let limit := if t.op = 7 then src.ext1 else dst.ext1
    let rest := w.ext0 - i0
    if (t.op = 7 || t.op = 8) && decide (limit ≤ row) then
      .ok (if t.op = 7 then s.xSkip t dst.base (dst.nibAddr i0 i1 i2) (rest * dst.nibs) else s, { t with pos := t.pos + rest, masked := t.masked || idx.2 })
    else
      let a := dst.nibAddr i0 (if t.op = 8 then row else i1) i2
      let n := max 1 (min rest ((4096 - a % 4096) / dst.nibs))
      let (g, why) := s.xElems t src dst i1 i2 row t.pos i0 n { chosen := t.chosen }
      let done := g.counts.elems
      let after : XRes (State × Stream) :=
        (s.writeScales t dst.sbase g.scales).seen fun u =>
          (u.1.xWrite t dst.base a g.nibs).seen fun v =>
            let last := t.pos + done = w.ext0 * w.ext1 * w.ext2
            (if t.op = 0 && last then v.1.copyScales t src dst else .ok (v.1, false)).seen fun x =>
              (x.1.addCounts t g.counts).bind fun y =>
                .ok (y.1, { t with
                  pos := t.pos + done, chosen := g.chosen, flags := t.flags ||| y.2.1
                  masked := t.masked || idx.2 || g.masked || u.2 || v.2 || x.2 || y.2.2 })
      let some_ := match why with
        | .ok _ => after
        | .absent va d m => if done = 0 then .absent va d m else after
        | .err c m => if done = 0 then .err c m else after
        | .poor n m => if done = 0 then .poor n m else after
        | .lost a m => .lost a m
      some_.saw g.masked

/-! ## Streams -/

def State.modStream (s : State) (k : Nat) (g : Stream → Stream) : State := { s with streams := modifyNth g k s.streams }

/-- Parks a stream: in a pen if the engine and the partition have one left, else in its place (R319). -/
def State.park (s : State) (k : Nat) (t : Stream) (g : Stream → Stream) : State :=
  let here := s.streams.filter fun u => u.penned && u.die == t.die
  let pen := decide (here.length < 16) && decide ((here.filter fun u => u.p == t.p).length < 4)
  s.modStream k fun u => let u := g u; if pen then { u with penned := true, active := false } else u

/-- A translation fault parks a stream and is reported: KIND 3, or KIND 3 for a task's transform as well (R319, R336). -/
def State.streamFault (s : State) (k : Nat) (t : Stream) (va detail : Nat) : State :=
  let fid := (s.part t.p).nextFid
  (s.raiseFault t.p { FaultRec.blank 3 (.transform t.jcb) with seq := s.streamSeq t, va := BitVec.ofNat 64 va, detail := detail }).park k t
    fun u => { u with fault := some fid }

/-- A stream that needs chunks parks with POOLEMPTY, and the pool interrupt is raised (R319). -/
def State.poolPark (s : State) (k : Nat) (t : Stream) (n : Nat) : State :=
  (s.modPart t.p fun q => { q with poolIrq := q.poolIrq + 1 }).park k t fun u => { u with need := n }

/-- A stream that ends: with an error code, or done. -/
def State.endStream (s : State) (k code : Nat) : State := s.modStream k fun t => { t with error := code, finished := true }

/-- A stream that consumes scratchpad data whose check bits fail aborts the flock that issued it, and ends (R342). -/
def State.streamLost (s : State) (k : Nat) (t : Stream) (off : Nat) : State :=
  match t.wg with
  | some (f, m) => (s.scratchAbort f m t.u [t.lane] t.pc (windowOf m m off)).endStream k 0x07
  | none => s

/-- Whether a transform is held: parked on a fault or for chunks. -/
def Stream.held (t : Stream) : Bool := t.fault.isSome || decide (0 < t.need)

/-- The stream that takes a die's next free place: of the partitions with a waiting stream, the next after the one served
last, and its oldest (R348). -/
def State.nextWaiting (s : State) (die : Nat) : Option Nat :=
  let ws := s.streams.zipIdx.filter fun q => q.1.die == die && !q.1.active && !q.1.finished && !q.1.held
  let last := assocGet 15 s.dieLast die
  (List.range 16).findSome? fun d => (ws.find? fun q => q.1.p == (last + 1 + d) % 16).map Prod.snd
/-- Whether a stream may have an active place: it has one, or fewer than 8 of its die do and its turn has come (R319, R348). -/
def State.mayRun (s : State) (k : Nat) (t : Stream) : Bool :=
  t.active ||
    (decide ((s.streams.filter fun q => q.die == t.die && q.active).length < 8) && s.nextWaiting t.die == some k)

/-- Whether a stream's accesses are checked: its task was decoded in debug mode (R343, R360). -/
def State.streamDebug (s : State) (t : Stream) : Bool :=
  match t.task, t.wg with
  | some q, _ => (s.part t.p).window.any fun k => k.seq == q && k.debug
  | none, some (f, _) => (match s.flock? f with | some fl => fl.launch.debug | none => false)
  | none, none => false
/-- What reading the value of an element reads (R73-R76, R317): base, nibble address and count of the element and of its scales. -/
def Layout.valueReads (l : Layout) (i0 i1 i2 : Nat) : List (Nat × Nat × Nat) :=
  (l.base, l.nibAddr i0 i1 i2, l.nibs) :: (l.scaleRuns i0 i1 i2).map fun r => (l.sbase, r)
/-- What one destination element reads, in order (R316, R317); new says that its square or block has no scale yet. -/
def elemReads (t : Stream) (src dst : Layout) (new : Bool) (i0 i1 i2 row : Nat) : List (Nat × Nat × Nat) :=
  let around (es : List (Nat × Nat × Nat)) : List (Nat × Nat × Nat) := if new then es.flatMap fun e => src.valueReads e.1 e.2.1 e.2.2 else []
  match t.op with
  | 2 | 9 => around (dst.squareElems i0 i1 i2) ++ src.valueReads i0 i1 i2 ++
      if dst.elem.hasZero then [(dst.sbase, dst.zeroAt (dst.square i0 i1 i2), dst.nibs)] else []
  | 3 => src.valueReads i0 i1 i2
  | 4 => (if new && dst.elem.hasDelta then (src.scaleRuns i1 i0 i2).map fun r => (src.sbase, r) else []) ++ [(src.base, src.nibAddr i1 i0 i2, src.nibs)]
  | 5 | 6 => [(src.base, src.nibAddr i0 i1 i2, 1)]
  | 7 => [(src.base, src.nibAddr i0 row i2, src.nibs)]
  | 8 => [(src.base, src.nibAddr i0 i1 i2, src.nibs), (dst.base, dst.nibAddr i0 row i2, dst.nibs)]
  | 10 => around (dst.blockElems i0 i1 i2) ++ src.valueReads i0 i1 i2
  | _ => [(src.base, src.nibAddr i0 i1 i2, src.nibs)]
/-- The reads of n elements from i0 on, the squares or blocks of whose predecessors are given. -/
def turnReads (t : Stream) (src dst : Layout) (i1 i2 row : Nat) : Nat → Nat → List Nat → List (Nat × Nat × Nat)
  | 0, _, _ => []
  | n + 1, i0, known =>
    let q := if t.op = 10 then dst.block i0 i1 i2 else dst.square i0 i1 i2
    elemReads t src dst (!known.contains q) i0 i1 i2 row ++ turnReads t src dst i1 i2 row n (i0 + 1) (q :: known)
/-- Of reads in order, those that a stream makes before it is stopped, and the one that finds data that cannot be corrected. -/
def State.madeReads (s : State) (t : Stream) : List (Nat × Nat × Nat) → List (Nat × Nat × Nat)
  | [] => []
  | r :: rs =>
    match s.xRead t r.1 r.2.1 r.2.2 with
    | .ok _ => r :: s.madeReads t rs
    | .err 0x07 _ => [r]
    | _ => []
/-- Adds a read to runs: to the one that it continues, or lies in (log 24). -/
def addRun (runs : List (Nat × Nat × Nat)) (r : Nat × Nat × Nat) : List (Nat × Nat × Nat) :=
  match runs.findIdx? fun q => q.1 == r.1 && decide (q.2.1 ≤ r.2.1) && decide (r.2.1 ≤ q.2.1 + q.2.2) with
  | some k => modifyNth (fun q => (q.1, q.2.1, max q.2.2 (r.2.1 + r.2.2 - q.2.1))) k runs
  | none => runs ++ [r]
/-- The writes of a turn: its elements, and the scales that it chose. -/
def turnWrites (t t' : Stream) (dst : Layout) (i0 i1 i2 row n : Nat) : List (Nat × Nat × Nat) :=
  let new := (List.range n).filter fun k =>
    let q := if t.op = 10 then dst.block (i0 + k) i1 i2 else dst.square (i0 + k) i1 i2
    !(t.chosen.any fun e => e.1 == q) && t'.chosen.any fun e => e.1 == q
  let scales := new.flatMap fun k =>
    ((if t.op = 4 then id else List.take 1) (dst.scaleRuns (i0 + k) i1 i2)).map fun r => (dst.sbase, r)
  (dst.base, dst.nibAddr i0 (if t.op = 8 then row else i1) i2, n * dst.nibs) :: scales.eraseDups
/-- What an access of a stream to global memory leaves beside its data. -/
def State.noteX (s : State) (t : Stream) (wr : Bool) (base a n : Nat) : State :=
  let (b, k) := nibSpan a n
  if n = 0 || (t.local? base b).isSome then s else s.noteRun t.p (s.streamSeq t) (s.streamDebug t) wr b k
/-- What reads of a stream leave beside their data. -/
def State.noteReads (s : State) (t : Stream) (rs : List (Nat × Nat × Nat)) : State :=
  (rs.foldl addRun []).foldl (fun s r => s.noteX t false r.1 r.2.1 r.2.2) s
/-- What the reads of a turn leave, in the state before it: the row index, and the elements with their scales, up to where it stops (R318, R343). -/
def State.noteTurnReads (s : State) (t : Stream) (src dst : Layout) : State :=
  let w := walked t src dst
  let i0 := t.pos % w.ext0
  let i1 := t.pos / w.ext0 % w.ext1
  let i2 := t.pos / w.ext0 / w.ext1
  let indexed := t.op = 7 || t.op = 8
  let aux := match s.readVa t.p t.stamped (t.jcb + 40) 8 with | .ok r => ofBytes r.1 | _ => 0
  let index := if indexed then [(0, 2 * (t.jcb + 40), 16), (0, 2 * (aux + 4 * i1), 8)] else []
  match s.rowIndex t i1 with
  | .ok r =>
    if indexed && decide ((if t.op = 7 then src.ext1 else dst.ext1) ≤ r.1) then s.noteReads t index
    else
      let a := dst.nibAddr i0 (if t.op = 8 then r.1 else i1) i2
      let n := max 1 (min (w.ext0 - i0) ((4096 - a % 4096) / dst.nibs))
      s.noteReads t (s.madeReads t (index ++ turnReads t src dst i1 i2 r.1 n i0 (t.chosen.map Prod.fst)))
  | _ => s.noteReads t (s.madeReads t index)
/-- What a turn that was made leaves beside its data: its reads, its writes, and the job control block's. -/
def State.noteTurn (s before : State) (t t' : Stream) (src dst : Layout) : State :=
  let w := walked t src dst
  let i0 := t.pos % w.ext0
  let i1 := t.pos / w.ext0 % w.ext1
  let i2 := t.pos / w.ext0 / w.ext1
  let row := match before.rowIndex t i1 with | .ok r => r.1 | _ => i1
  let s := s.noteTurnReads t src dst
  if (t.op = 7 || t.op = 8) && decide ((if t.op = 7 then src.ext1 else dst.ext1) ≤ row) then s
  else
    let copied := if t.op = 0 && t'.pos = w.ext0 * w.ext1 * w.ext2 then [(src.bytes1, src.sbase, dst.sbase), (src.bytes2, src.part2, dst.part2)] else []
    let writes := turnWrites t t' dst i0 i1 i2 row (t'.pos - t.pos) ++ copied.map fun q => (dst.sbase, 2 * q.2.2, 2 * q.1)
    let s := s.noteReads t (copied.map fun q => (src.sbase, 2 * q.2.1, 2 * q.1))
    let s := writes.foldl (fun s r => s.noteX t true r.1 r.2.1 r.2.2) s
    (s.noteX t false 0 (2 * t.jcb) 128).noteX t true 0 (2 * t.jcb) 40
/-- The reads with which a stream starts: the records that it did not read when it was accepted, and a task's seed. -/
def State.startReads (s : State) (t : Stream) : List (Nat × Nat × Nat) :=
  let record (known : Option Layout) (h : Nat) : List (Nat × Nat × Nat) :=
    if known.isSome then [] else [(0, 2 * ((s.part t.p).eng.ltbase.toNat + 64 * h), 128)]
  if t.started || t.refusal ≠ 0 then []
  else record t.srcRec t.src ++ record t.dstRec t.dst ++ if t.task.isSome then [(0, 2 * (t.jcb + 20), 8)] else []

/-- One turn of stream k (R319): it takes an active place, reads its records and its seed, and writes one segment. -/
def State.turnStream (s : State) (k : Nat) : State :=
  match s.streams[k]? with
  | none => s
  | some t =>
    if t.finished || t.held || !s.mayRun k t then s
    else
      let s := if t.active then s else { s with dieLast := assocSet 15 t.die t.p s.dieLast }
      let s := s.modStream k fun u => { u with active := true, penned := false }
      let t := { t with active := true, penned := false }
      let record (known : Option Layout) (h : Nat) : XRes (Layout × Bool) := match known with
        | some l => .ok (l, false)
        | none => (s.xBytes t ((s.part t.p).eng.ltbase.toNat + 64 * h) 64).bind fun r => .ok (parseLayout r.1, r.2)
      let start : XRes Stream :=
        if t.started then .ok t
        else if t.refusal ≠ 0 then .err t.refusal
        else
          (record t.srcRec t.src).seen fun a => (record t.dstRec t.dst).seen fun b =>
            (if t.task.isSome then (s.xBytes t (t.jcb + 20) 4).bind fun r => .ok (BitVec.ofNat 32 (ofBytes r.1), r.2)
              else .ok (t.ka, false)).seen fun ka =>
              .ok { t with srcRec := some a.1, dstRec := some b.1, masked := t.masked || a.2 || b.2 || ka.2, ka := ka.1, started := true }
      let s := s.noteReads t (s.madeReads t (s.startReads t))
      let kept (s : State) (m : Bool) : State := if m then s.modStream k fun u => { u with masked := true } else s
      match start with
      | .absent va d m => (kept s m).streamFault k t va d
      | .err c m => (kept s m).endStream k c
      | .poor _ _ | .lost _ _ => s
      | .ok t =>
        let s := s.modStream k fun _ => t
        match t.layouts with
        | none => s
        | some (src, dst) =>
          let e := transformCheck t src dst
          let w := walked t src dst
          if e ≠ 0 then s.endStream k e
          else if w.ext0 * w.ext1 * w.ext2 ≤ t.pos then s.endStream k 0
          else match s.segment t src dst with
            | .ok (s', t') =>
              let s' := (s'.noteTurn s t t' src dst).modStream k fun _ => { t' with finished := decide (w.ext0 * w.ext1 * w.ext2 ≤ t'.pos), turnAt := s.cycle }
              (List.range 3).foldl (fun s b => if bitAt t'.flags b && !bitAt t.flags b then s.threshold t else s) s'
            | .absent va d m => (kept (s.noteTurnReads t src dst) m).streamFault k t va d
            | .err c m => (kept (s.noteTurnReads t src dst) m).endStream k c
            | .poor n m => (kept (s.noteTurnReads t src dst) m).poolPark k t n
            | .lost off m => (kept (s.noteTurnReads t src dst) m).streamLost k t off

/-- Turns of a stream of one opcode until it ends or is held, with fuel. -/
def State.runStream (s : State) (k op : Nat) : Nat → State
  | 0 => s
  | n + 1 =>
    match s.streams[k]? with
    | some t =>
      if t.op ≠ op || t.finished || t.held then s
      else
        let s' := s.turnStream k
        (match s'.streams[k]? with
          | some t' => if t'.active then s'.runStream k op n else s'
          | none => s')
    | none => s

/-- Turns enough for a stream: one per element is always enough. -/
def State.streamFuel (s : State) (k : Nat) : Nat :=
  match s.streams[k]? with
  | some t => match t.layouts with
    | some (a, b) => a.ext0 * a.ext1 * a.ext2 + b.ext0 * b.ext1 * b.ext2 + 1
    | none => 1
  | none => 0

/-- The STATUS word of a stream that has ended (R318). -/
def Stream.status (t : Stream) : Nat :=
  t.error + 256 + (if t.error ≠ 0 then 512 else 0) + t.flags * 1024 + (if t.masked then 2 ^ 13 else 0)

/-- The bytes of a destination tensor, counted row by row (R301, R315). -/
def Layout.realBytes (l : Layout) : Nat := (l.ext0 * l.nibs + 1) / 2 * l.ext1 * l.ext2

/-- A transform completes: STATUS, then the barrier object (R318); the stream that was here is given back for its task. A
translation fault on STATUS parks it; once that is cancelled, or the write refused, the end shows only there. -/
def State.finishStream (s : State) (k : Nat) : State × Option Stream :=
  match s.streams[k]? with
  | some t =>
    if !t.finished || t.held then (s, none)
    else
      let mixed := match s.translate t.p (t.jcb + 52) .write with | .leaf l => stampMismatch t.stamped l | _ => false
      let t := { t with masked := t.masked || (mixed && !t.stampMask && !t.noStatus) }
      let close (s : State) (t : Stream) : State × Option Stream :=
        let bytes := match t.layouts with | some (_, d) => d.realBytes | none => 0
        let s := match t.wg, t.bar with
          | some (f, m), some off => s.barrierArrive f m off bytes t.error t.masked t.u t.lane t.pc t.writeOp
          | _, _ => s
        ({ s with streams := removeNth k s.streams }, some t)
      if t.noStatus then close s t
      else match s.xWriteBytes t 2 (t.jcb + 52) (leBytes 4 t.status) with
      | .ok r => close ((r.1.noteX t true 0 (2 * (t.jcb + 52)) 8).enterBytes t.p t.jcb 64) t
      | .absent va d _ => (s.streamFault k t va d, none)
      | .err c _ => close s (if t.error = 0 then { t with error := c } else t)
      | .poor n _ => (s.poolPark k t n, none)
      | .lost _ _ => (s, none)
  | none => (s, none)

end Sys2Proof.Machine
end

