-- ==== Sys2Proof/Machine/TaskEvents.lean ====
section
/-! DEFINITION. The events of the task window: decoding, copy-forwards, engine streams, retirement, recovery from a fault, and
the stream control block (07_task_stream.md R181-R204; 13 R321-R324). -/
namespace Sys2Proof.Machine
open Sys2Proof

/-! ## Byte streams (R322) -/

/-- The address of byte k of a region's byte stream, and the bytes from it to the end of its row. -/
def Region.byteAt (r : Region) (k : Nat) : Nat := r.start + k / r.rowbytes * r.pitch + k % r.rowbytes
def Region.runAt (r : Region) (k : Nat) : Nat := r.rowbytes - k % r.rowbytes
/-- How many bytes from byte k on move at once: up to the end of either row or of either 2 KiB, and, where a destination follows its source in
one space, up to the first byte that the move itself writes, so that the bytes go in ascending order (R312). -/
def moveRun (a b : Region) (k : Nat) : Nat :=
  let n := min (spanHere (a.byteAt k) (a.runAt k)) (spanHere (b.byteAt k) (b.runAt k))
  if a.target = b.target && a.peer = b.peer && decide (a.byteAt k < b.byteAt k) then min n (b.byteAt k - a.byteAt k) else n
/-- Moves the bytes of one region to another from a position on, run by run; the position reached, and what stopped it. -/
def State.moveBytes (s : State) (by_ : Writer) (p : Nat) (a b : Region) : Nat → Nat → State × Nat × XRes Unit
  | 0, k => (s, k, .ok ())
  | fuel + 1, k =>
    if a.bytes ≤ k then (s, k, .ok ())
    else
      let n := moveRun a b k
      let t := s.spaceServed p a.target (a.byteAt k) n
      match s.spaceRead p a.target a.peer (a.byteAt k) n with
      | .ok bs =>
        (match t.spaceWrite by_ p b.target b.peer (b.byteAt k) bs with
          | (s, .ok _) => s.moveBytes by_ p a b fuel (k + n)
          | (s, .absent va) => (s, k, .absent va 2)
          | (s, .err c) => (s, k, .err c))
      | .absent va => (t, k, .absent va 1)
      | .err c => (t, k, .err c)
/-- A region that is a whole version. -/
def wholeRegion (q : Partition) (h size : Nat) : Region :=
  { kind := 1, mode := 3, buf := 0, offset := 0, rowbytes := size, rows := 1, pitch := 0, inplace := false, handle := h
    base := q.handleVa h, target := 0, peer := 0 }

/-- A translation fault holds a task's engine stream, and is reported with KIND 5 (R336). -/
def State.taskFault (s : State) (p seq va detail : Nat) : State :=
  let fid := (s.part p).nextFid
  (s.raiseFault p { FaultRec.blank 5 (.task seq) with seq := seq, va := BitVec.ofNat 64 va, detail := detail }).modTask p seq
    fun t => { t with fault := some fid }
/-- What ends an engine stream: a cancelled fault gives MEMFAULT, any other error ENGINE with its code (R322). -/
def State.endTaskStream (s : State) (p seq code : Nat) : State :=
  if code = 0 then s.completeTask p seq
  else if code = 0x04 then s.faultTask p seq 0x0B 0
  else s.faultTask p seq 0x0A code

/-! ## Copy-forward and zero fill (R195, R198) -/

/-- The version of a task that is to be copied from the one before, once every older writer of that one has completed. -/
def State.nextForward (s : State) (p : Nat) (t : Task) : Option (NewVersion × Nat) :=
  (t.news.find? NewVersion.copy).bind fun v => v.prev.bind fun h =>
    if (s.part p).window.all fun u => decide (t.seq ≤ u.seq) || u.done ||
        !(u.regions.any fun r => match r with | some r => r.kind == 1 && r.handle == h && r.writes | none => false)
    then some (v, h) else none
/-- The copy engine initialises a version. -/
def State.copyForward (s : State) (p seq : Nat) : State :=
  match s.task? p seq with
  | some t =>
    if t.fault.isSome || t.isFaulted then s
    else match s.nextForward p t with
      | some (v, h) =>
        let q := s.part p
        (match s.moveBytes (.task p seq) p (wholeRegion q h v.size) (wholeRegion q v.handle v.size) v.size 0 with
          | (s, _, .ok _) => (s.enterTask p seq).modTask p seq fun t => { t with news := t.news.map fun x => if x.handle = v.handle then { x with copy := false } else x }
          | (s, _, .absent va d _) => s.taskFault p seq va d
          | (s, _, .err c _) => s.endTaskStream p seq c
          | (s, _, _) => s)
      | none => s
  | none => s
/-- The copy engine fills an ALLOC's version with zeros, and the task completes. -/
def State.zeroFill (s : State) (p seq : Nat) : State :=
  match s.task? p seq with
  | some t =>
    (match t.news.find? NewVersion.zero, t.status with
      | some v, .issued =>
        if t.fault.isSome then s
        else
          (match s.writeVa p none ((s.part p).handleVa v.handle) (List.replicate v.size 0) (.task p seq) with
            | (s, .ok _) => s.completeTask p seq
            | (s, .absent va) => s.taskFault p seq va 2
            | (s, .err c) => s.endTaskStream p seq c)
      | _, _ => s)
  | none => s

/-- A task's engine stream: COPY, OFFLOAD and RECALL move what is left of their bytes; an XFORM has been ended by its
stream (R322-R324). -/
def State.taskStreamEnds (s : State) (p seq : Nat) : State :=
  match s.task? p seq with
  | some t =>
    if t.status ≠ .issued || t.fault.isSome then s
    else if t.op = 0x04 then (match t.ended with | some c => s.endTaskStream p seq c | none => s)
    else if t.op = 0x03 || t.op = 0x05 || t.op = 0x06 then
      match nth none t.regions 0, nth none t.regions 1 with
      | some a, some b =>
        let (s, k, r) := s.moveBytes (.task p seq) p a b a.bytes t.moved
        let s := s.modTask p seq fun t => { t with moved := k }
        (match r with
          | .ok _ =>
            let s := if t.op = 0x05 then s.setBuffer p (t.arg % 4096) 0 else s
            s.completeTask p seq
          | .absent va d _ => s.taskFault p seq va d
          | .err c _ => s.endTaskStream p seq c
          | _ => s)
      | _, _ => s
    else s
  | none => s

/-! ## Retirement (R197, R201) -/

/-- Handles that nothing keeps any more return to their free lists. -/
def Partition.settleHandles (q : Partition) : Partition :=
  let bound (h : Nat) : Bool := q.buffers.any fun b => match b with | some b => b.handle == h | none => false
  let go := q.leaving.filter fun h => !bound h && !(q.window.any fun t => t.binds h)
  go.foldl Partition.freeHandle { q with leaving := q.leaving.filter fun h => !go.contains h && !bound h }
/-- The oldest task retires. -/
def State.retireOne (s : State) (p : Nat) : State :=
  match (s.part p).window with
  | t :: rest =>
    if !t.done then s
    else
      let s := s.raise p 0 (BitVec.ofNat 64 t.seq)
      let s := if t.op = 0x0F then
          (s.writeVa p none t.ptr (leBytes 8 s.cycle ++ leBytes 4 t.arg ++ leBytes 4 (t.seq % 2 ^ 32)) (.task p t.seq)).1.enterTask p t.seq
        else s
      s.modPart p fun q =>
        ({ q with window := rest, leaving := q.leaving ++ t.superseded, pools := q.pools.filter fun r => r.seq != t.seq }).settleHandles
  | [] => s

/-! ## Recovery from a task fault (R204) -/

/-- The oldest task has faulted: it and every younger one are discarded, bindings are restored, and the fault is recorded. -/
def State.recover (s : State) (p : Nat) : State :=
  match (s.part p).window with
  | t :: _ =>
    (match t.status with
      | .faulted cause detail =>
        let gone := (s.part p).window
        let s := gone.foldl (fun s u => s.stopFlocks p u.seq) s
        let mine (seq : Nat) : Bool := gone.any fun u => u.seq == seq
        let s := s.dropFaults p fun c => match c with
          | .task seq => mine seq
          | .transform jcb => s.streams.any fun x => x.p == p && x.jcb == jcb && (match x.task with | some k => mine k | none => false)
          | _ => false
        let s := { s with streams := s.streams.filter fun x => !(x.p == p && match x.task with | some k => mine k | none => false) }
        s.modPart p fun q =>
          let q := { q with
            window := [], buffers := t.before, repeats := t.repeats, epoch := t.epoch, nextSeq := t.seq, skipping := t.skipping
            pools := q.pools.filter fun r => !mine r.seq, links := q.links.filter fun l => !mine l.task
            colls := q.colls.filter fun c => !mine c.seq, creates := q.creates.filter fun c => !mine c.seq
            sq := { q.sq with
              faulted := true, cause := cause, detail := detail, fseq := BitVec.ofNat 64 t.seq, fidx := BitVec.ofNat 32 t.index
              read := BitVec.ofNat 32 t.index } }
          let bound (h : Nat) : Bool := q.buffers.any fun b => match b with | some b => b.handle == h | none => false
          ((gone.flatMap fun u => u.news.map NewVersion.handle).filter fun h => !bound h).foldl Partition.freeHandle q
      | _ => s)
  | [] => s

/-! ## The stream control block (R182-R184, R204) -/

/-- Whether the partition is idle (R184). -/
def Partition.idle (q : Partition) : Bool := !q.sq.enable && q.window.isEmpty
/-- A write to SQCTL.ENABLE (R184, R349): a 1 is held until the partition's lists are complete. -/
def Partition.setEnable (q : Partition) (on : Bool) : Partition :=
  if on && !q.started then { q with enableHeld := true }
  else { q with sq := { q.sq with enable := on }, enableHeld := false }
/-- A RESUME write (R204): ignored while FAULTED is 0. -/
def Partition.resume (q : Partition) (skip : Bool) : Partition :=
  if q.sq.faulted then
    { q with sq := { q.sq with faulted := false, cause := 0, detail := 0, read := if skip then q.sq.read + 1 else q.sq.read } }
  else q
/-- A write to SQWRITE (R183): clamped to the ring. -/
def Partition.writeIndex (q : Partition) (x : Word) : Partition :=
  let size : Nat := 2 ^ q.sq.log2
  if (size : Int) < (x - q.freeIndex).toInt then
    { q with sq := { q.sq with write := q.freeIndex + BitVec.ofNat 32 size, overrun := true } }
  else { q with sq := { q.sq with write := x } }

/-- TASK_RUN (R189): decodes the next record, if it is a RUN. -/
def execTaskRun (s : State) : Outcome :=
  event s fun e s => s.decodeOp e.p 0x01

/-- TASK_POOL (R192). -/
def execTaskPool (s : State) : Outcome :=
  event s fun e s => s.decodeOp e.p 0x02

/-- TASK_COPY (R322). -/
def execTaskCopy (s : State) : Outcome :=
  event s fun e s => s.decodeOp e.p 0x03

/-- TASK_XFORM (R322). -/
def execTaskXform (s : State) : Outcome :=
  event s fun e s => s.decodeOp e.p 0x04

/-- TASK_OFFLOAD (R323). -/
def execTaskOffload (s : State) : Outcome :=
  event s fun e s => s.decodeOp e.p 0x05

/-- TASK_RECALL (R324). -/
def execTaskRecall (s : State) : Outcome :=
  event s fun e s => s.decodeOp e.p 0x06

/-- TASK_WAIT (R201). -/
def execTaskWait (s : State) : Outcome :=
  event s fun e s => s.decodeOp e.p 0x08

/-- TASK_SIGNAL (R201). -/
def execTaskSignal (s : State) : Outcome :=
  event s fun e s => s.decodeOp e.p 0x09

/-- TASK_ALLOC (R198). -/
def execTaskAlloc (s : State) : Outcome :=
  event s fun e s => s.decodeOp e.p 0x0A

/-- TASK_FREE (R198). -/
def execTaskFree (s : State) : Outcome :=
  event s fun e s => s.decodeOp e.p 0x0B

/-- TASK_FENCE (R201). -/
def execTaskFence (s : State) : Outcome :=
  event s fun e s => s.decodeOp e.p 0x0C

/-- TASK_REPEAT (R202). -/
def execTaskRepeat (s : State) : Outcome :=
  event s fun e s => s.decodeOp e.p 0x0D

/-- TASK_ENDREP (R202). -/
def execTaskEndrep (s : State) : Outcome :=
  event s fun e s => s.decodeOp e.p 0x0E

/-- TASK_MARK (R201, R354). -/
def execTaskMark (s : State) : Outcome :=
  event s fun e s => s.decodeOp e.p 0x0F

/-- COLL_RUN (R386, R390): decodes the next record, if it is a COLL of that kind. -/
def execCollRun (s : State) : Outcome :=
  event s fun e s => s.decodeNext e.p fun op fl => op == 0x07 && fl % 4 == 0

/-- COLL_CREATE (R386, R388). -/
def execCollCreate (s : State) : Outcome :=
  event s fun e s => s.decodeNext e.p fun op fl => op == 0x07 && fl % 4 == 1

/-- COLL_DESTROY (R386, R389). -/
def execCollDestroy (s : State) : Outcome :=
  event s fun e s => s.decodeNext e.p fun op fl => op == 0x07 && fl % 4 == 2

/-- ILLEGAL_RECORD (R186, R408): a record whose OP is not listed faults with BADOP; one that cannot be read, with MEMFAULT. -/
def execIllegalRecord (s : State) : Outcome :=
  event s fun e s => s.decodeNext e.p fun op fl => op == 0 || decide (0x0F < op) || (op == 0x07 && fl % 4 == 3)

/-- COPY_FORWARD (R195): the next copy-forward of task k. -/
def execCopyForward (s : State) : Outcome :=
  event s fun e s => s.copyForward e.p e.k

/-- ALLOC_ZERO_FILL (R198). -/
def execAllocZeroFill (s : State) : Outcome :=
  event s fun e s => s.zeroFill e.p e.k

/-- TASK_ENGINE_STREAM_COMPLETE (R306, R322). -/
def execTaskEngineStreamComplete (s : State) : Outcome :=
  event s fun e s => s.taskStreamEnds e.p e.k

/-- TASK_RETIRE (R201): at most four tasks, in sequence order. -/
def execTaskRetire (s : State) : Outcome :=
  event s fun e s => (((s.retireOne e.p).retireOne e.p).retireOne e.p).retireOne e.p

/-- TASK_FAULT_RECOVERY (R204). -/
def execTaskFaultRecovery (s : State) : Outcome :=
  event s fun e s => s.recover e.p

/-- SQCTL_ENABLE (R184, R349). -/
def execSqctlEnable (s : State) : Outcome :=
  event s fun e s => s.modPart e.p fun q => q.setEnable e.on

/-- SQCTL_RESUME_RETRY (R204). -/
def execSqctlResumeRetry (s : State) : Outcome :=
  event s fun e s => s.modPart e.p fun q => q.resume false

/-- SQCTL_RESUME_SKIP (R204). -/
def execSqctlResumeSkip (s : State) : Outcome :=
  event s fun e s => s.modPart e.p fun q => q.resume true

/-- SQWRITE_WRITE (R183): x is the index written. -/
def execSqwriteWrite (s : State) : Outcome :=
  event s fun e s => s.modPart e.p fun q => q.writeIndex (e.x.setWidth 32)

end Sys2Proof.Machine
end

