-- ==== Sys2Proof/Machine/Bulk.lean ====
section
/-! DEFINITION. Bulk copy queues (13_async_engines.md R309-R313). -/
namespace Sys2Proof.Machine
open Sys2Proof

/-- A bulk packet (R312). -/
structure Packet where
  word0 : Nat
  bufh : Nat
  dst : Nat
  src : Nat
  rowbytes : Nat
  rows : Nat
  spitch : Nat
  dpitch : Nat
  value : Nat
  ctr : Nat
  legal : Bool
  deriving DecidableEq, Repr
/-- The fields of a packet. ROWS and ROWBYTES may be 0, and a FILL's ROWBYTES no multiple of 4 (log 103). -/
def parsePacket (bs : List Byte) : Packet :=
  let n (off k : Nat) : Nat := field bs off k
  let op := n 1 1
  { word0 := n 0 4, bufh := n 4 2, dst := n 8 8, src := n 16 8, rowbytes := n 24 4, rows := n 28 4, spitch := n 32 8, dpitch := n 40 8
    value := n 48 8, ctr := n 56 2
    legal := n 0 1 = 1 && decide (1 ≤ op) && decide (op ≤ 4) && decide (n 2 2 ≤ 1) && bitsOf (n 4 2) 13 12 = 0 && n 6 2 = 0 &&
      decide (n 56 2 < 1024) && n 58 6 = 0 }
def Packet.op (k : Packet) : Nat := bitsOf k.word0 15 8
def Packet.handle (k : Packet) : Nat := bitsOf k.bufh 11 0
/-- Whether the packet uses its handle as the destination's, and as the source's (R313). -/
def Packet.fills (k : Packet) : Bool := (k.op == 1 || k.op == 2) && bitAt k.bufh 15
def Packet.drains (k : Packet) : Bool := k.op == 1 && bitAt k.bufh 14
/-- The rows of a packet from an address, with a pitch. -/
def Packet.rowsAt (k : Packet) (a pitch : Nat) : Region :=
  { kind := 2, mode := 3, buf := 0, offset := 0, rowbytes := k.rowbytes, rows := k.rows, pitch := pitch, inplace := false, handle := 0
    base := a, target := 0, peer := 0 }

/-- The packet at READ of a queue as the operation that its writes belong to, and its writes (R267, R268). -/
def BulkQueue.writer (b : BulkQueue) (p q : Nat) : Writer := { Writer.engine with p := p, op := .bulk q b.read }
def State.queue? (s : State) (p q : Nat) : Option BulkQueue := nth none (s.part p).eng.bulk q
def State.modQueue (s : State) (p q : Nat) (g : BulkQueue → BulkQueue) : State :=
  s.modPart p fun u => { u with eng := { u.eng with bulk := modifyNth (Option.map g) q u.eng.bulk } }
/-- The queue's engine leaves it. -/
def State.closeQueue (s : State) (p q : Nat) : State :=
  s.modPart p fun u => { u with eng := { u.eng with bulk := modifyNth (fun _ => none) q u.eng.bulk } }
/-- Closes a queue whose EN has been cleared (R309). -/
def State.disable (s : State) (p q : Nat) : State :=
  (s.closeQueue p q).modPart p fun u => { u with eng := { u.eng with bqdesc := modifyNth (· &&& ~~~1) q u.eng.bqdesc } }
/-- A translation fault of a queue, reported with KIND 4 (R336). -/
def State.bulkFault (s : State) (p q va detail : Nat) : State :=
  let fid := (s.part p).nextFid
  (s.raiseFault p { FaultRec.blank 4 (.bulk q) with va := BitVec.ofNat 64 va, detail := detail }).modQueue p q
    fun b => { b with fault := some fid }
/-- An error stops the queue and raises the firmware core (R312); a clear of EN that waited takes effect. -/
def State.bulkStop (s : State) (p q : Nat) : State :=
  let s := s.modPart p fun u => { u with bulkIrq := u.bulkIrq + 1 }
  match s.queue? p q with
  | some b => if b.closing then s.disable p q else s.modQueue p q fun b => { b with stopped := true }
  | none => s

/-- Binds an enabled queue: its descriptor is read, and COUNTBASE set to the counter's value (R310). -/
def State.bindQueue (s : State) (p q : Nat) : State :=
  match s.queue? p q with
  | some b =>
    if b.bound || b.fault.isSome || b.stopped then s
    else match s.readVa p none b.desc 64 with
      | .absent va => s.bulkFault p q va 1
      | .err _ => (s.served p b.desc 64).bulkStop p q
      | .ok (bs, _) =>
        let s := s.served p b.desc 64
        let tl := field bs 18 2 % 1024
        let base := ((s.part p).counter tl).toNat
        (match s.writeVa p none (b.desc + 8) (leBytes 8 base) with
          | (s, .absent va) => s.bulkFault p q va 2
          | (s, .err _) => s.bulkStop p q
          | (s, .ok _) => s.modQueue p q fun b =>
              { b with bound := true, ring := field bs 0 8, log2 := max 4 (min 16 (field bs 17 1)), tl := tl, countbase := base
                       read := BitVec.ofNat 32 (field bs 24 4) })
  | none => s

/-- The address of the slot at READ. -/
def BulkQueue.slotVa (b : BulkQueue) : Nat := b.ring + 64 * (b.read.toNat % 2 ^ b.log2)
/-- The slot at READ, if the queue can take it. -/
def State.nextPacket (s : State) (p q : Nat) : Option (BulkQueue × EngineRes (List Byte × Bool)) :=
  match s.queue? p q with
  | some b => if !b.bound || b.stopped || b.fault.isSome || b.ending ≠ 0 then none else some (b, s.readVa p none b.slotVa 64)
  | none => none

/-- What a packet that is done still writes: word 0, then READ; then the counter is raised, its writes having entered the single order (R306), and what the packet or its end asks for happens (R311,
R312). A translation fault on a write holds the queue there. -/
def State.finishPacket (s : State) (p q : Nat) : Nat → State
  | 0 => s
  | n + 1 =>
    match s.queue? p q with
    | some b =>
      if b.ending = 0 || b.fault.isSome || b.stopped then s
      else if b.ending = 1 then
        (match s.writeVa p none b.slotVa (leBytes 4 0) (b.writer p q) with
          | (s, .ok _) => (s.modQueue p q fun b => { b with ending := 2 }).finishPacket p q n
          | (s, .absent va) => s.bulkFault p q va 2
          | (s, .err _) => s.bulkStop p q)
      else
        (match s.writeVa p none (b.desc + 24) (leBytes 4 (b.read + 1).toNat) (b.writer p q) with
          | (s, .ok _) =>
            let s := s.modQueue p q fun b =>
              { b with read := b.read + 1, done := b.done + 1, begun := false, moved := 0, ending := 0, irq := false, halts := false }
            let s := if b.tl = 0 then s else (s.enterOps p (· == .bulk q b.read)).raise p b.tl (BitVec.ofNat 64 (b.countbase + b.done + 1))
            let s := if b.irq then s.modPart p fun u => { u with bulkIrq := u.bulkIrq + 1 } else s
            let s := if b.halts then s.bulkStop p q else s
            if b.closing then s.disable p q else s
          | (s, .absent va) => s.bulkFault p q va 2
          | (s, .err _) => s.bulkStop p q)
    | none => s
/-- The packet in progress is done (R311, R313): buffer transitions, then word 0, READ and the counter. -/
def State.completePacket (s : State) (p q : Nat) (k : Packet) (halts : Bool) : State :=
  let s := if k.fills then (match s.queue? p q with | some b => s.fillBuffer p k.handle (.bulk q b.read) | none => s.setBuffer p k.handle 2) else s
  let s := if k.drains then s.setBuffer p k.handle 0 else s
  (s.modQueue p q fun b => { b with begun := true, ending := 1, irq := !halts && bitAt k.word0 16, halts := halts }).finishPacket p q 2

/-- An event of a queue whose next packet has an opcode: an access error stops the queue; a packet that is done is finished first. -/
def State.onPacket (s : State) (p q op : Nat) (g : State → BulkQueue → Packet → State) : State :=
  let s := (s.bindQueue p q).finishPacket p q 2
  match s.nextPacket p q with
  | some (b, .ok (bs, _)) =>
    let k := parsePacket bs
    if k.legal && k.op = op then g (s.served p b.slotVa 64) b k else s
  | some (_, .absent va) => s.bulkFault p q va 1
  | some (b, .err _) => (s.served p b.slotVa 64).bulkStop p q
  | none => s

/-- A COPY or FILL (R312, R313): it starts once its buffers are in the states it needs, and its completion may interrupt. -/
def State.movePacket (s : State) (p q op : Nat) (move : State → BulkQueue → Packet → State × Nat × XRes Unit) : State :=
  s.onPacket p q op fun s b k =>
    let st := (s.part p).buffer k.handle
    if !b.begun && ((k.fills && st ≠ 0) || (k.drains && st ≠ 2)) then s
    else
      let s := if b.begun then s else
        let s := s.modQueue p q fun b => { b with begun := true, moved := 0 }
        if k.fills then s.setBuffer p k.handle 1 else if k.drains then s.setBuffer p k.handle 3 else s
      let (s, n, r) := move s b k
      let s := s.modQueue p q fun b => { b with moved := n }
      match r with
      | .ok _ => s.completePacket p q k false
      | .absent va d _ => s.bulkFault p q va d
      | _ => s.bulkStop p q
/-- Writes the rows of a FILL from a row on. -/
def State.fillRows (s : State) (by_ : Writer) (p : Nat) (k : Packet) : Nat → Nat → State × Nat × XRes Unit
  | 0, r => (s, r, .ok ())
  | n + 1, r =>
    match s.writeVa p none (k.dst + r * k.dpitch) ((List.range k.rowbytes).map fun i => BitVec.ofNat 8 (k.value % 2 ^ 32 / 256 ^ (i % 4))) by_ with
    | (s, .ok _) => s.fillRows by_ p k n (r + 1)
    | (s, .absent va) => (s, r, .absent va 2)
    | (s, .err c) => (s, r, .err c)

/-- A write with EN = 1 to BQDESCq (R309, R310): while EN is 1 its DESC is ignored; it binds a stopped queue again, and takes back a clear that
waits for the packet in progress (log 93). -/
def State.enableQueue (s : State) (p q : Nat) (x : DWord) : State :=
  let old := nth 0 (s.part p).eng.bqdesc q
  let stopped := match s.queue? p q with | some b => b.stopped | none => true
  if 16 ≤ q || !x.getLsbD 0 then s
  else if old.getLsbD 0 && !stopped then s.modQueue p q fun b => { b with closing := false }
  else
    let y := if old.getLsbD 0 then old else x &&& 0x00FFFFFFFFFFFFC1
    let b : BulkQueue := {
      desc := bitsOf y.toNat 55 6 * 64, bound := false, ring := 0, log2 := 4, tl := 0, countbase := 0, read := 0, done := 0, begun := false
      moved := 0, stopped := false, closing := false, fault := none }
    (s.modPart p fun u => { u with eng := { u.eng with
        bqdesc := modifyNth (fun _ => y) q u.eng.bqdesc, bulk := modifyNth (fun _ => some b) q u.eng.bulk } }).bindQueue p q
/-- A write with EN = 0 to BQDESCq (R309): it takes effect once the packet in progress has completed, and until then EN is 1. -/
def State.disableQueue (s : State) (p q : Nat) (x : DWord) : State :=
  let old := nth 0 (s.part p).eng.bqdesc q
  if 16 ≤ q || x.getLsbD 0 then s
  else if !old.getLsbD 0 then
    s.modPart p fun u => { u with eng := { u.eng with bqdesc := modifyNth (fun _ => x &&& 0x00FFFFFFFFFFFFC0) q u.eng.bqdesc } }
  else match s.queue? p q with
    | some b => if b.begun && !b.stopped then s.modQueue p q fun b => { b with closing := true } else s.disable p q
    | none => s.disable p q

/-- BULK_COPY (R312): the next packet of queue k, if it is a COPY. -/
def execBulkCopy (s : State) : Outcome :=
  event s fun e s => s.movePacket e.p e.k 1 fun s b k =>
    let a := k.rowsAt k.src k.spitch
    s.moveBytes (b.writer e.p e.k) e.p a (k.rowsAt k.dst k.dpitch) a.bytes (if b.begun then b.moved else 0)

/-- BULK_FILL (R312). -/
def execBulkFill (s : State) : Outcome :=
  event s fun e s => s.movePacket e.p e.k 2 fun s b k =>
    let r := if b.begun then b.moved else 0
    s.fillRows (b.writer e.p e.k) e.p k (k.rows - r) r

/-- BULK_SIGNAL (R312); CTR 0, the retire counter, is raised by nothing but retirement, and such a packet raises nothing (log 104). -/
def execBulkSignal (s : State) : Outcome :=
  event s fun e s => s.onPacket e.p e.k 3 fun s _ k =>
    let s := if k.ctr = 0 then s else s.raise e.p k.ctr (BitVec.ofNat 64 k.value)
    s.completePacket e.p e.k k false

/-- BULK_WAIT (R312): it holds the queue until its counter has the value. -/
def execBulkWait (s : State) : Outcome :=
  event s fun e s => s.onPacket e.p e.k 4 fun s _ k =>
    if k.value ≤ ((s.part e.p).counter k.ctr).toNat then s.completePacket e.p e.k k false
    else s.modQueue e.p e.k fun b => { b with begun := true }

/-- BULK_QUEUE_ERROR (R312): an illegal packet completes without effect, and stops the queue. -/
def execBulkQueueError (s : State) : Outcome :=
  event s fun e s =>
    let s := (s.bindQueue e.p e.k).finishPacket e.p e.k 2
    match s.nextPacket e.p e.k with
    | some (b, .ok (bs, _)) =>
      let k := parsePacket bs
      if k.word0 % 256 = 0 || k.legal then s
      else (s.served e.p b.slotVa 64).completePacket e.p e.k { k with bufh := 0 } true
    | _ => s

/-- BQDESC_ENABLE (R309, R310): a write of x with EN = 1 to BQDESCk. -/
def execBqdescEnable (s : State) : Outcome :=
  event s fun e s => s.enableQueue e.p e.k e.x

/-- BQDESC_DISABLE (R309): a write of x with EN = 0 to BQDESCk. -/
def execBqdescDisable (s : State) : Outcome :=
  event s fun e s => s.disableQueue e.p e.k e.x

end Sys2Proof.Machine
end

