-- ==== Sys2Proof/Machine/Funcs.lean ====
section
/-! DEFINITION. The function instructions: correctly rounded revision 3 (R91), the special values (R92) and the
table-driven revisions 1 and 2 (R93, R94). -/
namespace Sys2Proof.Machine
open Sys2Proof

/-- FUNC minors (R58). -/
inductive Func where | rcp | rsq | sqrt | exp2 | log2 | sin | cos | tanh
  deriving DecidableEq, Repr

/-- The special operands of R92; none for an operand that R91 or R94 evaluates. -/
def funcSpecial (f : Func) (v : Val) : Option FRes :=
  match v with
  | .nan => some ⟨.nan, false, false⟩
  | .inf s =>
    some (match f with
      | .rcp => ⟨.zero s, false, false⟩
      | .rsq => if s then ⟨.nan, true, false⟩ else ⟨.zero false, false, false⟩
      | .sqrt | .log2 => if s then ⟨.nan, true, false⟩ else ⟨.inf false, false, false⟩
      | .exp2 => if s then ⟨.zero false, false, false⟩ else ⟨.inf false, false, false⟩
      | .sin | .cos => ⟨.nan, true, false⟩
      | .tanh => ⟨.fin s 1 0, false, false⟩)
  | .fin s m _ =>
    if m = 0 then
      some (match f with
        | .rcp | .rsq => ⟨.inf s, false, false⟩
        | .sqrt | .sin | .tanh => ⟨.zero s, false, false⟩
        | .exp2 | .cos => ⟨.one, false, false⟩
        | .log2 => ⟨.inf true, false, false⟩)
    else if s && (f = .rsq || f = .sqrt || f = .log2) then some ⟨.nan, true, false⟩
    else none

/-- Integer square root by bits, with fuel: the largest r with r² ≤ n below 2^bits. -/
def isqrtBits (n : Nat) : Nat → Nat → Nat
  | 0, r => r
  | k + 1, r => let t := r + 2 ^ k; isqrtBits n k (if t * t ≤ n then t else r)

/-- floor(sqrt n). -/
def isqrt (n : Nat) : Nat := isqrtBits n (Nat.log2 n / 2 + 1) 0

/-- An exact non-negative real given as floor(x × 2^p) with a sticky bit below: 2 × floor + sticky over 2^(p+1). -/
def sticky (fl : Nat) (exact : Bool) : Nat := 2 * fl + (if exact then 0 else 1)

/-- sqrt(m × 2^e), correct to more than any FP32 rounding needs: mantissa and exponent with a sticky bit. -/
def sqrtReal (m : Nat) (e : Int) : Nat × Int :=
  let m' := if e % 2 = 0 then m else 2 * m
  let e' := if e % 2 = 0 then e else e - 1
  let n := m' * 2 ^ 80
  let r := isqrt n
  (sticky r (r * r == n), (e' - 80) / 2 - 1)

/-- 1/sqrt(m × 2^e) in the same form. -/
def rsqrtReal (m : Nat) (e : Int) : Nat × Int :=
  let m' := if e % 2 = 0 then m else 2 * m
  let e' := if e % 2 = 0 then e else e - 1
  let n := 2 ^ 160 / m'
  let r := isqrt n
  (sticky r (r * r * m' == 2 ^ 160), -80 - e' / 2 - 1)

/-- Fraction bits of the fixed-point evaluations of revision 3. PRESUMED (log 6): enough for every FP32 operand. -/
def fixBits : Nat := 256
/-- ln 2 × 2^256. -/
def ln2Fix : Nat := 0xb17217f7d1cf79abc9e3b39803f2f6af40f343267298b62d8a0d175b8baafa2b
/-- π/2 × 2^512. -/
def pio2Fix : Nat := 0x1921fb54442d18469898cc51701b839a252049c1114cf98e804177d4c76273644a29410f31c6809bbdf2a33679a748636605614dbe4be286e9fc26adadaa3848b

/-- Taylor sum of exp(z) at 2^-256 for 0 ≤ z < 1. -/
def expTaylor (z : Nat) : Nat → Nat → Nat → Nat → Nat
  | 0, _, _, acc => acc
  | fuel + 1, k, t, acc => let t' := t * z / 2 ^ fixBits / k; expTaylor z fuel (k + 1) t' (acc + t')

/-- 2^f for a fraction f × 2^256 below 2^256, as a fixed-point number. -/
def exp2Frac (f : Nat) : Nat := expTaylor (f * ln2Fix / 2 ^ fixBits) 70 1 (2 ^ fixBits) (2 ^ fixBits)

/-- Sum of t^(2k+1)/(2k+1), for atanh. -/
def atanhSum (t2 : Nat) : Nat → Nat → Nat → Nat → Nat
  | 0, _, _, acc => acc
  | fuel + 1, k, t, acc => atanhSum t2 fuel (k + 2) (t * t2 / 2 ^ fixBits) (acc + t / k)

/-- log2(num/den) × 2^256 for 1 ≤ num/den < 2. -/
def log2Frac (num den : Nat) : Nat :=
  let t := (num - den) * 2 ^ fixBits / (num + den)
  2 * atanhSum (t * t / 2 ^ fixBits) 90 1 t 0 * 2 ^ fixBits / ln2Fix

/-- Alternating Taylor sum: term k to k+2 divides by (k+1)(k+2). -/
def trigTaylor (z2 : Nat) : Nat → Nat → Int → Int → Int
  | 0, _, _, acc => acc
  | fuel + 1, k, t, acc =>
    let t' : Int := -(t * z2 / 2 ^ fixBits / ((k + 1) * (k + 2) : Nat))
    trigTaylor z2 fuel (k + 2) t' (acc + t')

/-- floor(x × 2^p) of a finite value. -/
def floorFix (s : Bool) (m : Nat) (e : Int) (p : Nat) : Int :=
  let x : Int := m
  let x := if s then -x else x
  if 0 ≤ e + p then x * 2 ^ (e + p).toNat else x / 2 ^ (-(e + p)).toNat

/-- A signed fixed-point number over 2^p as an exact value. -/
def ofFix (x : Int) (p : Nat) : Val := if x = 0 then .zero false else .fin (decide (x < 0)) x.natAbs (-(p : Int))

/-- q = floor(x·2/π + 1/2) and the reduced z = x − q·π/2 at 2^-256. -/
def trigReduce (s : Bool) (m : Nat) (e : Int) : Nat × Int :=
  let x := floorFix s m e 512
  let q := (2 * x + pio2Fix) / (2 * pio2Fix)
  ((q % 4).toNat, (x - q * pio2Fix) / 2 ^ 256)

def sinFix (z : Int) : Int := trigTaylor ((z * z).toNat / 2 ^ fixBits) 60 1 z z
def cosFix (z : Int) : Int := trigTaylor ((z * z).toNat / 2 ^ fixBits) 60 0 (2 ^ fixBits) (2 ^ fixBits)

/-- |x| below 2^-12. -/
def tiny (m : Nat) (e : Int) : Bool := decide ((Nat.log2 m : Int) + e < -12)

/-- Revision 3: f(x) as an exact value whose rounding to FP32 is that of the real f(x) (R91); the second
part is a common denominator. -/
def funcReal (f : Func) (s : Bool) (m : Nat) (e : Int) : Val × Nat :=
  match f with
  | .rcp => (.fin s 1 (-e), m)
  | .sqrt => let r := sqrtReal m e; (.fin false r.1 r.2, 1)
  | .rsq => let r := rsqrtReal m e; (.fin false r.1 r.2, 1)
  | .exp2 =>
    let big := (Nat.log2 m : Int) + e ≥ 9
    if big then (if s then (.fin false 1 (-400), 1) else (.fin false 1 400, 1))
    else
      let x := floorFix s m e fixBits
      let n := x / 2 ^ fixBits
      (.fin false (exp2Frac (x % 2 ^ fixBits).toNat) (n - fixBits), 1)
  | .log2 =>
    let l := Nat.log2 m
    let n : Int := (l : Int) + e
    (ofFix (n * 2 ^ fixBits + (log2Frac m (2 ^ l) : Int)) fixBits, 1)
  | .sin =>
    if tiny m e then (.fin s m e, 1)
    else
      let r := trigReduce s m e
      let y := match r.1 with | 0 => sinFix r.2 | 1 => cosFix r.2 | 2 => -sinFix r.2 | _ => -cosFix r.2
      (ofFix y fixBits, 1)
  | .cos =>
    let r := trigReduce s m e
    let y := match r.1 with | 0 => cosFix r.2 | 1 => -sinFix r.2 | 2 => -cosFix r.2 | _ => sinFix r.2
    (ofFix y fixBits, 1)
  | .tanh =>
    if tiny m e then (.fin s m e, 1)
    else if (Nat.log2 m : Int) + e ≥ 4 then (.fin s 1 0, 1)
    else
      let u := (floorFix false m e fixBits).toNat * 2 * 2 ^ fixBits / ln2Fix
      let y := exp2Frac ((2 ^ fixBits - u % 2 ^ fixBits) % 2 ^ fixBits)
      let n := (u + 2 ^ fixBits - 1) / 2 ^ fixBits
      let one := 2 ^ (fixBits + n)
      (.fin s (one - y) 0, one + y)

/-- Rounds v / den to FP32 under the contract. -/
def roundQuot (c : Contract) (v : Val) (den : Nat) : FRes :=
  match v with
  | .fin s m e => if m = 0 then ⟨.zero s, false, false⟩ else roundC c.flush c.saturate .fp32 .ne s m den e
  | v => ⟨v, false, false⟩

/-- Round(x, FP32, NE) of an intermediate: never flushed, never saturated below infinity (R94). -/
def rn (v : Val) : Val :=
  match v with
  | .fin s m e =>
    if m = 0 then .zero s
    else let r := roundMag .fp32 .ne s m 1 e; if r.beyond then .inf s else .fin s r.m r.e
  | v => v
def addV (a b : Val) : Val := (addExact a b).getD .nan
def mulV (a b : Val) : Val := (mulExact a b).getD .nan
/-- F(a, b, c) of R94: one rounding of a·b + c. -/
def fF (a b c : Val) : Val := rn (addV (mulV a b) c)
def rnQ (v : Val) (den : Nat) : Val :=
  match v with
  | .fin s m e => if m = 0 then .zero s else let r := roundMag .fp32 .ne s m den e; .fin s r.m r.e
  | v => v

/-- Round(x, FP32, NE) of an intermediate that may overflow: R85 gives what overflow leaves (R94). -/
def rnSat (sat : Bool) (v : Val) : Val := match rn v with | .inf s => if sat && !v.isInf then overflowVal .fp32 .ne true s else .inf s | r => r
def fSat (sat : Bool) (a b c : Val) : Val := rnSat sat (addV (mulV a b) c)

/-- The tables T, L, Q and S of R93. -/
def tabT (i : Nat) : Val := rn (.fin false (exp2Frac (i * 2 ^ 250)) (-256))
def tabL (i : Nat) : Val := rn (ofFix (log2Frac (64 + i) 64) fixBits)
def tabQ (i : Nat) : Val := rnQ (.fin false 64 0) (64 + i)
def tabS (i : Nat) : Val := let r := rsqrtReal (32 + i) (-5); rn (.fin false r.1 r.2)

def k32 (x : Nat) : Val := decode .fp32 x

/-- A finite value as m' × 2^e' with 1 ≤ m' < 2, m' kept exact: the fraction and the exponent. -/
def unit (m : Nat) (e : Int) : Val × Int :=
  let l := Nat.log2 m
  (.fin false m (-(l : Int)), (l : Int) + e)

/-- floor((v − 1) × n) for a value of at least 1. -/
def tabIndex (v : Val) (n : Int) : Nat :=
  match addExact v (.fin true 1 0) with
  | some (.fin s m e) => (floorFix s m e 64 * n / 2 ^ 64).toNat
  | _ => 0

/-- EXP2 of revisions 1 and 2 (R94). -/
def exp2Tab (rev : Nat) (v : Val) : Val :=
  match v with
  | .fin s m e =>
    if (Nat.log2 m : Int) + e ≥ 9 && m ≠ 0 then (if s then .zero false else .fin false 1 400)
    else
      let n := floorFix s m (e + 6) 0
      let i := (n % 64).toNat
      let ex := (n - n % 64) / 64
      let f := addV (.fin s m e) (ofFix (-n) 6)
      let h := if rev = 1 then k32 0x3E75FDF0 else fF f (k32 0x3D635847) (k32 0x3E75FDF0)
      let h := fF f h (k32 0x3F317218)
      let p := rn (mulV f h)
      (fF (tabT i) p (tabT i)).scale ex
  | v => v

/-- RSQ of revisions 1 and 2, before its final scaling's rounding (R94). -/
def rsqTab (rev : Nat) (m : Nat) (e : Int) : Val :=
  let l := (Nat.log2 m : Int)
  let ex := if (l + e) % 2 = 0 then l + e else l + e - 1
  let mm : Val := .fin false m (e - ex)
  let i := tabIndex mm 32
  let sI := tabS i
  let a := rn (mulV mm sI)
  let t := fF a.neg sI .one
  let h := if rev = 1 then k32 0x3F000000 else fF t (k32 0x3EC00000) (k32 0x3F000000)
  let h := rn (mulV t h)
  (fF sI h sI).scale (-(ex / 2))

/-- Revisions 1 and 2 of every function: the value before its last Round (R94); `sat` says what an overflow leaves. -/
def funcTab (sat : Bool) (rev : Nat) (f : Func) (s : Bool) (m : Nat) (e : Int) : Val :=
  match f with
  | .exp2 => if s && decide (floorFix s m e 0 < -150) then .zero false else exp2Tab rev (.fin s m e)
  | .log2 =>
    let u := unit m e
    let i := tabIndex u.1 64
    let v := rn (mulV (addV u.1 (.fin true (64 + i) (-6))) (tabQ i))
    let h := if rev = 1 then k32 0xBF38AA3B else fF v (k32 0x3EF6384F) (k32 0xBF38AA3B)
    let h := fF v h (k32 0x3FB8AA3B)
    let p := rn (mulV v h)
    addV (ofFix u.2 0) (rn (addV (tabL i) p))
  | .rcp =>
    let u := unit m e
    let i := tabIndex u.1 64
    let y0 := tabQ i
    let t := fF u.1.neg y0 .one
    let h := if rev = 1 then t else fF t t t
    let y := (fF y0 h y0).scale (-u.2)
    if s then y.neg else y
  | .rsq => rsqTab rev m e
  | .sqrt => mulV (.fin s m e) (rn (rsqTab rev m e))
  | .sin | .cos =>
    let x : Val := .fin s m e
    let p := match mulExact x (k32 0x3F22F983) with | some v => addV v (.fin false 1 (-1)) | none => .nan
    let q := match p with | .fin t n g => floorFix t n g 0 | _ => 0
    let z := rn (addV x (mulV (ofFix (-q) 0) (.fin false 0x1921FB54442D18469898CC517 (-96))))
    let j := (q % 4).toNat
    let z2 := rnSat sat (mulV z z)
    let h := if rev = 1 then k32 0x3C088889 else fSat sat z2 (k32 0xB9500D01) (k32 0x3C088889)
    let h := fSat sat z2 h (k32 0xBE2AAAAB)
    let h := rnSat sat (mulV z2 h)
    let sz := addV (mulV z h) z
    let g := if rev = 1 then k32 0x3D2AAAAB else fSat sat z2 (k32 0xBAB60B61) (k32 0x3D2AAAAB)
    let g := fSat sat z2 g (k32 0xBF000000)
    let cz := addV (mulV z2 g) .one
    if f = .sin then (match j with | 0 => sz | 1 => cz | 2 => sz.neg | _ => cz.neg)
    else (match j with | 0 => cz | 1 => sz.neg | 2 => cz.neg | _ => sz)
  | .tanh =>
    if tiny m e then .fin s m e
    else if decide (9 * 2 ^ 160 ≤ floorFix false m e 160) then .fin s 1 0
    else
      let y := rn (exp2Tab rev (rn (mulV (.fin false m e) (k32 0xC038AA3B))))
      let a := rn (addV .one y.neg)
      let b := rn (addV .one y)
      match a, b with
      | .fin _ ma ea, .fin _ mb eb => rnQ (.fin s ma (ea - eb)) mb
      | _, _ => .nan

/-- The result of a function instruction under a contract (R91-R94, R118). -/
def funcVal (c : Contract) (f : Func) (x : Val) : FRes :=
  let x := flushIn c .fp32 x
  match funcSpecial f x with
  | some r => r
  | none =>
    match x with
    | .fin s m e =>
      if c.rev = 3 then
        let r := funcReal f s m e
        roundQuot c r.1 r.2
      else roundVal c .fp32 .ne (funcTab c.saturate c.rev f s m e)
    | v => ⟨v, false, false⟩

end Sys2Proof.Machine
end

