-- ==== Sys2Proof/Machine/Float.lean ====
section
/-! DEFINITION. FP32 arithmetic, packed 16-bit arithmetic, functions and conversions
(04_thread_instructions.md R114-R125). -/
namespace Sys2Proof.Machine
open Sys2Proof

/-- The FP32 result of an operation, with the causes it raises. -/
def outF (r : FRes) : Out := ⟨[w32 r.v], r.inv, r.ovf, false⟩

/-- A lane of a packed register: its bits, by position. -/
def halfBits (x : Word) (hi : Bool) : Nat := if hi then x.toNat / 65536 else x.toNat % 65536
/-- The lane format of M (R117). -/
def laneFmt (bf : Bool) : Fmt := if bf then .bf16 else .fp16
/-- A packed operation on both lanes; the causes of the lanes are gathered (R117). -/
def packed (bf : Bool) (f : Bool → FRes) : Out :=
  let lo := f false
  let hi := f true
  let g := laneFmt bf
  ⟨[BitVec.ofNat 32 (encode g lo.v + 65536 * encode g hi.v)], lo.inv || hi.inv, lo.ovf || hi.ovf, false⟩
/-- A lane's value. -/
def laneVal (bf : Bool) (x : Word) (hi : Bool) : Val := decode (laneFmt bf) (halfBits x hi)

/-- FRND (R116): an integral value that keeps the operand's sign. -/
def roundIntegral (c : Contract) (mode : RMode) (v : Val) : Val :=
  match flushIn c .fp32 v with
  | .fin s m e =>
    if m = 0 || decide (0 ≤ e) then .fin s m e
    else .fin s (roundInt mode s m 1 e 0) 0
  | v => v

/-- A conversion to an integer (R120), signed or unsigned: the word, and whether it was invalid. -/
def toIntWord (c : Contract) (sgn : Bool) (mode : RMode) (v : Val) : Out :=
  let lo : Int := if sgn then -(2 ^ 31) else 0
  let hi : Int := if sgn then 2 ^ 31 - 1 else 2 ^ 32 - 1
  match flushIn c .fp32 v with
  | .nan => ⟨[0], true, false, false⟩
  | .inf neg => ⟨[BitVec.ofInt 32 (if neg then lo else hi)], true, false, false⟩
  | .fin s m e =>
    let x := if m = 0 then 0 else toInteger mode s m e
    if x < lo then ⟨[BitVec.ofInt 32 lo], true, false, false⟩
    else if hi < x then ⟨[BitVec.ofInt 32 hi], true, false, false⟩
    else ⟨[BitVec.ofInt 32 x], false, false, false⟩

/-- A conversion between floating-point formats under the contract (R84, R85, R119). -/
def toFmt (c : Contract) (src dst : Fmt) (mode : RMode) (x : Nat) : Out :=
  let v := decode src x
  let v := if src = .f64 then v else flushIn c src v
  let r := roundVal c dst mode v
  ⟨[BitVec.ofNat 32 (encode dst r.v)], r.inv, r.ovf, false⟩
/-- A conversion to E4M3, E5M2 or E2M1 (R87). -/
def toNarrow (c : Contract) (dst : Fmt) (sat : Bool) (x : Nat) : Out :=
  let r := narrow dst sat .ne (flushIn c .fp32 (decode .fp32 x))
  ⟨[BitVec.ofNat 32 (encode dst r.v)], r.inv, false, false⟩
/-- An exact conversion to FP32. -/
def widen (src : Fmt) (x : Nat) : Out := ⟨[w32 (decode src x)], false, false, false⟩
/-- An integer rounded to FP32. -/
def fromInt (c : Contract) (x : Int) : Out :=
  outF (roundVal c .fp32 .ne (.fin (decide (x < 0)) x.natAbs 0))

/-- CVT by its code (R119). Codes 8 and 9 read a pair. -/
def convert (cn code : Nat) (a hi : Word) : Out :=
  let c := contractOf cn
  let x := a.toNat
  let bad : Out := ⟨[0], false, false, true⟩
  match code with
  | 0 => fromInt c a.toInt
  | 1 => fromInt c x
  | 2 => toIntWord c true .ne (f32 a)
  | 3 => toIntWord c true .rz (f32 a)
  | 4 => toIntWord c false .ne (f32 a)
  | 5 => toIntWord c false .rz (f32 a)
  | 6 => toIntWord c true .rd (f32 a)
  | 7 => toIntWord c true .ru (f32 a)
  | 8 => toFmt c .f64 .fp32 .ne (dword a hi).toNat
  | 9 => toFmt c .f64 .fp32 .rz (dword a hi).toNat
  | 10 => toFmt c .fp32 .fp16 .ne x
  | 11 => toFmt c .fp32 .bf16 .ne x
  | 12 => toFmt c .fp16 .fp32 .ne (x % 65536)
  | 13 => toFmt c .bf16 .fp32 .ne (x % 65536)
  | 14 => toFmt c .fp16 .bf16 .ne (x % 65536)
  | 15 => toFmt c .bf16 .fp16 .ne (x % 65536)
  | 16 => if admitsNarrow cn then toNarrow c .e4m3 true x else bad
  | 17 => if admitsNarrow cn then toNarrow c .e4m3 false x else bad
  | 18 => if admitsNarrow cn then toNarrow c .e5m2 true x else bad
  | 19 => if admitsNarrow cn then toNarrow c .e5m2 false x else bad
  | 20 => if admitsNarrow cn then widen .e4m3 (x % 256) else bad
  | 21 => if admitsNarrow cn then widen .e5m2 (x % 256) else bad
  | 22 => if admitsFour cn then toNarrow c .e2m1 true x else bad
  | _ => if admitsFour cn then widen .e2m1 (x % 16) else bad

/-- The causes that a CVT code can raise (R119, R120): FPINV of an integer or E2M1, FPOVF of FP32, FP16 or BF16. -/
def convertRoute (code : Nat) : Route :=
  .f ((2 ≤ code && code ≤ 7) || code = 22) ((8 ≤ code && code ≤ 11) || code = 15)

/-- FUNPK by its minor (R123). -/
def unpack (cn code : Nat) (a : Word) : Out :=
  let c := contractOf cn
  let x := a.toNat
  let bad : Out := ⟨[0], false, false, true⟩
  if code < 4 then (if admitsNarrow cn then widen .e4m3 (x / 256 ^ code % 256) else bad)
  else if code < 8 then (if admitsNarrow cn then widen .e5m2 (x / 256 ^ (code - 4) % 256) else bad)
  else if code < 16 then (if admitsFour cn then widen .e2m1 (x / 16 ^ (code - 8) % 16) else bad)
  else toFmt c (if code < 18 then .bf16 else .fp16) .fp32 .ne (if code % 2 = 0 then x % 65536 else x / 65536)

/-- The element of a QEXP or QCVT format code (R124). -/
def quantElem (code : Nat) : Option Elem :=
  match code with
  | 0 => some .e4m3 | 1 => some .e5m2 | 2 => some .e2m1 | 3 => some .int8 | 4 => some .int4 | _ => none

/-- QEXP (R124). -/
def squareDelta (cn : Nat) (a b : Word) : Out :=
  match quantElem (bitsOf b.toNat 11 8) with
  | none => ⟨[0], false, false, true⟩
  | some f =>
    if !f.admitted cn then ⟨[0], false, false, true⟩
    else
      let amax := match flushIn (contractOf cn) .fp32 (f32 a) with
        | .fin _ m e => Val.fin false m e
        | _ => .inf false
      let r := chooseDelta f (bitsOf b.toNat 7 0) amax
      ⟨[BitVec.ofNat 32 ((if r.2 then 256 else 0) + r.1)], false, false, false⟩

/-- QCVT (R125). -/
def squareElement (cn : Nat) (a b : Word) : Out :=
  match quantElem (bitsOf b.toNat 11 8) with
  | none => ⟨[0], false, false, true⟩
  | some f =>
    if !f.admitted cn then ⟨[0], false, false, true⟩
    else
      let c := contractOf cn
      let e : Int := bitsOf b.toNat 7 0
      let x := (flushIn c .fp32 (f32 a)).scale (127 - e)
      let z := if f = .int8 then bitsOf b.toNat 23 16 else bitsOf b.toNat 19 16
      let r := elemCode c false f z .ne x
      ⟨[BitVec.ofNat 32 r.code], r.inv, false, false⟩

/-- CVTSR (R121): the value from a random word, and its causes. -/
def convertStochastic (cn k : Nat) (e4m3 : Bool) (a w : Word) : Out :=
  let c := contractOf cn
  let x := flushIn c .fp32 (f32 a)
  if e4m3 then
    let r := narrow .e4m3 true (.sr k w.toNat) x
    ⟨[BitVec.ofNat 32 (encode .e4m3 r.v)], false, false, false⟩
  else
    let r := roundVal c .bf16 (.sr k w.toNat) x
    ⟨[BitVec.ofNat 32 (encode .bf16 r.v)], r.inv, r.ovf, false⟩

/-- FADD (R114). -/
def execFadd (h : Head) (d : Reg) (a b : Src) (s : State) : Outcome :=
  compute s h [one a, one b] d 1 .a fun cn xs => outF (fadd (contractOf cn) .fp32 (f32 (x0 xs)) (f32 (x1 xs)))

/-- FSUB (R114). -/
def execFsub (h : Head) (d : Reg) (a b : Src) (s : State) : Outcome :=
  compute s h [one a, one b] d 1 .a fun cn xs => outF (fsub (contractOf cn) .fp32 (f32 (x0 xs)) (f32 (x1 xs)))

/-- FMUL (R114). -/
def execFmul (h : Head) (d : Reg) (a b : Src) (s : State) : Outcome :=
  compute s h [one a, one b] d 1 .a fun cn xs => outF (fmul (contractOf cn) .fp32 (f32 (x0 xs)) (f32 (x1 xs)))

/-- FFMA (R114). -/
def execFfma (h : Head) (d : Reg) (a b : Src) (c : Reg) (s : State) : Outcome :=
  compute s h [one a, one b, plain c] d 1 .a fun cn xs =>
    outF (ffma (contractOf cn) .fp32 (f32 (x0 xs)) (f32 (x1 xs)) (f32 (x2 xs)))

/-- FMIN (R115). -/
def execFmin (h : Head) (d : Reg) (a b : Src) (s : State) : Outcome :=
  compute s h [one a, one b] d 1 .a fun cn xs =>
    ⟨[w32 (fmin (contractOf cn) .fp32 (f32 (x0 xs)) (f32 (x1 xs)))], false, false, false⟩

/-- FMAX (R115). -/
def execFmax (h : Head) (d : Reg) (a b : Src) (s : State) : Outcome :=
  compute s h [one a, one b] d 1 .a fun cn xs =>
    ⟨[w32 (fmax (contractOf cn) .fp32 (f32 (x0 xs)) (f32 (x1 xs)))], false, false, false⟩

/-- FRND.NE (R116). -/
def execFrndNe (h : Head) (d : Reg) (a : Src) (s : State) : Outcome :=
  compute s h [one a] d 1 (.f false false) fun cn xs => ⟨[w32 (roundIntegral (contractOf cn) .ne (f32 (x0 xs)))], false, false, false⟩

/-- FRND.FL (R116). -/
def execFrndFl (h : Head) (d : Reg) (a : Src) (s : State) : Outcome :=
  compute s h [one a] d 1 (.f false false) fun cn xs => ⟨[w32 (roundIntegral (contractOf cn) .rd (f32 (x0 xs)))], false, false, false⟩

/-- FRND.CE (R116). -/
def execFrndCe (h : Head) (d : Reg) (a : Src) (s : State) : Outcome :=
  compute s h [one a] d 1 (.f false false) fun cn xs => ⟨[w32 (roundIntegral (contractOf cn) .ru (f32 (x0 xs)))], false, false, false⟩

/-- FRND.TR (R116). -/
def execFrndTr (h : Head) (d : Reg) (a : Src) (s : State) : Outcome :=
  compute s h [one a] d 1 (.f false false) fun cn xs => ⟨[w32 (roundIntegral (contractOf cn) .rz (f32 (x0 xs)))], false, false, false⟩

/-- HADD2 and HADD2.BF (R117). -/
def execHadd2 (h : Head) (m : Bool) (d : Reg) (a b : Src) (s : State) : Outcome :=
  compute s h [one a, one b] d 1 .a fun cn xs =>
    packed m fun hi => fadd (contractOf cn) (laneFmt m) (laneVal m (x0 xs) hi) (laneVal m (x1 xs) hi)

/-- HMUL2 and HMUL2.BF (R117). -/
def execHmul2 (h : Head) (m : Bool) (d : Reg) (a b : Src) (s : State) : Outcome :=
  compute s h [one a, one b] d 1 .a fun cn xs =>
    packed m fun hi => fmul (contractOf cn) (laneFmt m) (laneVal m (x0 xs) hi) (laneVal m (x1 xs) hi)

/-- HFMA2 and HFMA2.BF (R117). -/
def execHfma2 (h : Head) (m : Bool) (d : Reg) (a b : Src) (c : Reg) (s : State) : Outcome :=
  compute s h [one a, one b, plain c] d 1 .a fun cn xs =>
    packed m fun hi => ffma (contractOf cn) (laneFmt m) (laneVal m (x0 xs) hi) (laneVal m (x1 xs) hi) (laneVal m (x2 xs) hi)

/-- HMIN2 and HMIN2.BF (R117). -/
def execHmin2 (h : Head) (m : Bool) (d : Reg) (a b : Src) (s : State) : Outcome :=
  compute s h [one a, one b] d 1 .a fun cn xs =>
    packed m fun hi => ⟨fmin (contractOf cn) (laneFmt m) (laneVal m (x0 xs) hi) (laneVal m (x1 xs) hi), false, false⟩

/-- HMAX2 and HMAX2.BF (R117). -/
def execHmax2 (h : Head) (m : Bool) (d : Reg) (a b : Src) (s : State) : Outcome :=
  compute s h [one a, one b] d 1 .a fun cn xs =>
    packed m fun hi => ⟨fmax (contractOf cn) (laneFmt m) (laneVal m (x0 xs) hi) (laneVal m (x1 xs) hi), false, false⟩

/-- RCP (R118). -/
def execRcp (h : Head) (d : Reg) (a : Src) (s : State) : Outcome :=
  compute s h [one a] d 1 (.f false true) fun cn xs => outF (funcVal (contractOf cn) .rcp (f32 (x0 xs)))

/-- RSQ (R118). -/
def execRsq (h : Head) (d : Reg) (a : Src) (s : State) : Outcome :=
  compute s h [one a] d 1 (.f true false) fun cn xs => outF (funcVal (contractOf cn) .rsq (f32 (x0 xs)))

/-- SQRT (R118). -/
def execSqrt (h : Head) (d : Reg) (a : Src) (s : State) : Outcome :=
  compute s h [one a] d 1 (.f true false) fun cn xs => outF (funcVal (contractOf cn) .sqrt (f32 (x0 xs)))

/-- EXP2 (R118). -/
def execExp2 (h : Head) (d : Reg) (a : Src) (s : State) : Outcome :=
  compute s h [one a] d 1 (.f false true) fun cn xs => outF (funcVal (contractOf cn) .exp2 (f32 (x0 xs)))

/-- LOG2 (R118). -/
def execLog2 (h : Head) (d : Reg) (a : Src) (s : State) : Outcome :=
  compute s h [one a] d 1 (.f true false) fun cn xs => outF (funcVal (contractOf cn) .log2 (f32 (x0 xs)))

/-- How SIN and COS come to their register: revisions 1 and 2 can overflow on huge operands, revision 3 cannot (R94, R102, log 7). -/
def State.trigRoute (s : State) : Route :=
  .f true (match s.issue with | some c => (contractOf (s.contractNo c.f)).rev != 3 | none => false)

/-- SIN (R118). -/
def execSin (h : Head) (d : Reg) (a : Src) (s : State) : Outcome :=
  compute s h [one a] d 1 s.trigRoute fun cn xs => outF (funcVal (contractOf cn) .sin (f32 (x0 xs)))

/-- COS (R118). -/
def execCos (h : Head) (d : Reg) (a : Src) (s : State) : Outcome :=
  compute s h [one a] d 1 s.trigRoute fun cn xs => outF (funcVal (contractOf cn) .cos (f32 (x0 xs)))

/-- TANH (R118). -/
def execTanh (h : Head) (d : Reg) (a : Src) (s : State) : Outcome :=
  compute s h [one a] d 1 (.f false false) fun cn xs => outF (funcVal (contractOf cn) .tanh (f32 (x0 xs)))

/-- CVT (R119, R120): codes 8 and 9 read a pair. -/
def execCvt (h : Head) (code : Nat) (d : Reg) (a : Src) (s : State) : Outcome :=
  compute s h [if code = 8 || code = 9 then pair a else one a] d 1 (convertRoute code) fun cn xs => convert cn code (x0 xs) (x1 xs)

/-- CVTSR (R121): converted when its random word arrives, or at once where it can raise an enabled FPOVF (R102), so that a trap
takes no word. -/
def execCvtsr (chain : Bool) (k : Nat) (m : Bool) (d : Reg) (a : Src) (s : State) : Outcome :=
  onIssue s fun c s =>
    let cn := s.contractNo c.f
    beginAll s c (bareHead chain) [one a] [d] fun all lanes s =>
      if m && !admitsNarrow cn then s.trapLanes lanes causeFmtbad 0
      else
        let groups := if d.isW then [(lowest all, lanes)] else lanes.map fun l => (l, [l])
        groups.foldl (fun s q =>
          let l := q.1
          let ls := q.2
          let t := s.live c l
          let x := c.snap.get l a.reg
          if !m && (if d.isW then all else ls).any (fun l => (c.snap.thread l).ovfEn) then
            let w := s.randomFor c.f c.m c.u l t.seq t.srseed
            let o := convertStochastic cn k m x w
            match floatCause (ls.map c.snap.thread) o.fmtbad o.inv o.ovf with
            | some cause => s.trapLanes ls cause 0
            | none => (s.advanceSeq c l 1).deliver c ls d 1 .a o
          else
            let s := (s.emptyRegs c.f c.m c.u l [d]).advanceSeq c l 1
            { s with randoms := s.randoms ++
                [{ f := c.f, m := c.m, u := c.u, lanes := ls, lane := l, seq := t.seq, srseed := t.srseed, dest := d
                   convert := some (x, k, m), drop := false }] }) s

/-- FPACK (R122). -/
def execFpack (h : Head) (d : Reg) (a b : Src) (s : State) : Outcome :=
  compute s h [one a, one b] d 1 (.f false true) fun cn xs =>
    let lo := toFmt (contractOf cn) .fp32 .bf16 .ne (x0 xs).toNat
    let hi := toFmt (contractOf cn) .fp32 .bf16 .ne (x1 xs).toNat
    ⟨[x0 lo.vals ||| (x0 hi.vals <<< 16)], false, lo.ovf || hi.ovf, false⟩

/-- FUNPK (R123). -/
def execFunpk (h : Head) (code : Nat) (d : Reg) (a : Src) (s : State) : Outcome :=
  compute s h [one a] d 1 (.f false false) fun cn xs => unpack cn code (x0 xs)

/-- QEXP (R124). -/
def execQexp (h : Head) (d : Reg) (a b : Src) (s : State) : Outcome :=
  compute s h [one a, one b] d 1 (.f false false) fun cn xs => squareDelta cn (x0 xs) (x1 xs)

/-- QCVT (R125). -/
def execQcvt (h : Head) (d : Reg) (a b : Src) (s : State) : Outcome :=
  compute s h [one a, one b] d 1 (.f true false) fun cn xs => squareElement cn (x0 xs) (x1 xs)

end Sys2Proof.Machine
end

