-- ==== Sys2Proof/Machine/Atomic.lean ====
section
/-! DEFINITION. Atomics, compare-and-swap, and the accesses for other observers (10_memory_instructions.md R244-R252). -/
namespace Sys2Proof.Machine
open Sys2Proof

/-- What an atomic step makes of the word it finds: the new word, whether it would raise FPINV or FPOVF, whether it writes. -/
structure Step4 where
  new : Word
  inv : Bool := false
  ovf : Bool := false
  write : Bool := true
  deriving DecidableEq, Repr

/-- Whether a place is host memory (R215). -/
def State.isHost (s : State) (at_ : Place) (va : DWord) : Bool :=
  match at_ with
  | .page l => (s.hostAt l va.toNat).isSome
  | .scratch _ _ => false

/-- Whether an aligned word stands in a page of host memory that a thread may access by an atomic. -/
def State.atHost (s : State) (f : Nat) (va : DWord) : Bool :=
  decide (va.toNat % 4 = 0) && match s.flock? f with
    | some fl => (match s.translateOnce fl.p va.toNat .atomic with | .leaf l => s.isHost (.page l) va | _ => false)
    | none => false
/-- One atomic step (R244, R248): the old word lands in D with the sticky bits of R246. Host memory admits FetchAdd, Swap
and CAS only, while the enable is set; any other raises PROTFAULT, before a stamp is looked at (R33). -/
def State.atomicStep (s : State) (c : Issue) (lanes : List Nat) (d : Reg) (va : DWord) (op : Option HostOp) (f : Nat → Word → Step4) : State :=
  let s := s.lookAt c.f va
  if (op.isNone || !s.device.atomicEnable) && s.atHost c.f va then s.trapLanes lanes causeProtfault va
  else s.access c lanes va 4 0 .atomic fun at_ s =>
    let s := match at_ with | .page l => s.enterAt (s.ownerOf c.f) (s.coreOf c.f c.m) l va.toNat 4 (op.getD .swap) | .scratch _ _ => s
    let m := BitVec.ofNat 32 (ofBytes (s.readAt c.f at_ va 4))
    let r := f (s.contractNo c.f) m
    let s := if r.write then s.writeStep c.f c.m at_ va (leBytes 4 r.new.toNat)
      else match at_ with | .page l => s.stepTime (s.ownerOf c.f) (s.coreOf c.f c.m) l va.toNat 4 | .scratch _ _ => s
    let s := s.emptyRegs c.f c.m c.u (lowest lanes) [d]
    { s with landings := s.landings ++
        [{ f := c.f, m := c.m, u := c.u, lanes := lanes, dests := [d], vals := [m], pipeF := false, inv := r.inv, ovf := r.ovf
           host := s.isHost at_ va
           peer := match at_ with | .page l => (s.peerAt l va.toNat).map (· / 2 ^ 39) | .scratch _ _ => none
           pc := c.pc, addr := va, since := s.cycle }] }

/-- ATOMI and ATOMF (R245, R246). -/
def atomic (s : State) (h : Head) (d a b : Reg) (op : Option HostOp) (f : Nat → Word → Word → Step4) : Outcome :=
  memoryWord s h [plain a 2, plain b] [d] d.isW fun c lanes xs s =>
    s.atomicStep c lanes d (dword (x0 xs) (x1 xs)) op fun cn m => f cn m (x2 xs)
/-- An ATOMI operation. -/
def atomicInt (f : Word → Word → Word) : Nat → Word → Word → Step4 := fun _ m b => { new := f m b }
/-- An ATOMF operation, from what a thread word computes. -/
def ofOut (o : Out) : Step4 := { new := x0 o.vals, inv := o.inv, ovf := o.ovf }
/-- The steps of ATOMF (R246), of the word found and the operand, under a contract. -/
def stepFadd (cn : Nat) (m b : Word) : Step4 := ofOut (outF (fadd (contractOf cn) .fp32 (f32 m) (f32 b)))
def stepFmin (cn : Nat) (m b : Word) : Step4 := { new := w32 (fmin (contractOf cn) .fp32 (f32 m) (f32 b)) }
def stepFmax (cn : Nat) (m b : Word) : Step4 := { new := w32 (fmax (contractOf cn) .fp32 (f32 m) (f32 b)) }
def stepAdd2 (bf : Bool) (cn : Nat) (m b : Word) : Step4 :=
  ofOut (packed bf fun hi => fadd (contractOf cn) (laneFmt bf) (laneVal bf m hi) (laneVal bf b hi))

/-- ATOMI.ADD (R245). -/
def execAtomiAdd (h : Head) (d a b : Reg) (s : State) : Outcome :=
  atomic s h d a b (some .fetchAdd) (atomicInt (· + ·))

/-- ATOMI.MIN (R245). -/
def execAtomiMin (h : Head) (d a b : Reg) (s : State) : Outcome :=
  atomic s h d a b none (atomicInt (minWord false))

/-- ATOMI.MAX (R245). -/
def execAtomiMax (h : Head) (d a b : Reg) (s : State) : Outcome :=
  atomic s h d a b none (atomicInt (maxWord false))

/-- ATOMI.MINU (R245). -/
def execAtomiMinu (h : Head) (d a b : Reg) (s : State) : Outcome :=
  atomic s h d a b none (atomicInt (minWord true))

/-- ATOMI.MAXU (R245). -/
def execAtomiMaxu (h : Head) (d a b : Reg) (s : State) : Outcome :=
  atomic s h d a b none (atomicInt (maxWord true))

/-- ATOMI.AND (R245). -/
def execAtomiAnd (h : Head) (d a b : Reg) (s : State) : Outcome :=
  atomic s h d a b none (atomicInt (· &&& ·))

/-- ATOMI.OR (R245). -/
def execAtomiOr (h : Head) (d a b : Reg) (s : State) : Outcome :=
  atomic s h d a b none (atomicInt (· ||| ·))

/-- ATOMI.XOR (R245). -/
def execAtomiXor (h : Head) (d a b : Reg) (s : State) : Outcome :=
  atomic s h d a b none (atomicInt (· ^^^ ·))

/-- ATOMF.FADD (R246). -/
def execAtomfFadd (h : Head) (d a b : Reg) (s : State) : Outcome :=
  atomic s h d a b none stepFadd

/-- ATOMF.FMIN (R246). -/
def execAtomfFmin (h : Head) (d a b : Reg) (s : State) : Outcome :=
  atomic s h d a b none stepFmin

/-- ATOMF.FMAX (R246). -/
def execAtomfFmax (h : Head) (d a b : Reg) (s : State) : Outcome :=
  atomic s h d a b none stepFmax

/-- ATOMF.BFADD2 (R246). -/
def execAtomfBfadd2 (h : Head) (d a b : Reg) (s : State) : Outcome :=
  atomic s h d a b none (stepAdd2 true)

/-- ATOMF.HADD2 (R246). -/
def execAtomfHadd2 (h : Head) (d a b : Reg) (s : State) : Outcome :=
  atomic s h d a b none (stepAdd2 false)

/-- ATOMF.XCHG (R246): b, bit for bit. -/
def execAtomfXchg (h : Head) (d a b : Reg) (s : State) : Outcome :=
  atomic s h d a b (some .swap) (atomicInt fun _ b => b)

/-- CAS (R247): the words are compared bit for bit. -/
def execCas (h : Head) (d : Reg) (a b : Src) (c : Reg) (s : State) : Outcome :=
  memoryWord s h [pair a, one b, plain c] [d] d.isW fun i lanes xs s =>
    s.atomicStep i lanes d (dword (x0 xs) (x1 xs)) (some .cas) fun _ m => { new := x3 xs, write := m == x2 xs }

/-- LDX (R250, R268): it acquires the writes of the masked classes and then loads; in a window it is a plain load. -/
def execLdx (h : Head) (mask : Nat) (d : Reg) (a : Src) (s : State) : Outcome :=
  memoryWord s h [pair a] [d] d.isW fun c lanes xs s =>
    let va := dword (x0 xs) (x1 xs)
    s.access c lanes va 4 0 .read fun at_ s =>
      (match at_ with | .page _ => s.enterClasses mask | .scratch _ _ => s).performLoad c lanes va 4 0 false d at_

/-- STX (R251): a plain store, performed towards every class. -/
def execStx (h : Head) (_mask : Nat) (a b : Src) (s : State) : Outcome :=
  memoryWord s h [pair a, one b] [] (a.reg.isW && b.reg.isW) fun c lanes xs s =>
    let va := dword (x0 xs) (x1 xs)
    s.access c lanes va 4 0 .write fun at_ s => s.performStore c lanes va false (leBytes 4 (x2 xs).toNat) at_

/-- FENCE (R252, R268): every access of the thread is performed where it is issued but for a waiting load, which the FENCE follows (R242, R269);
it acquires the writes of the masked classes. -/
def execFence (h : Head) (mask : Nat) (s : State) : Outcome :=
  onIssue s fun c s => begin s c h [] [] fun lanes s =>
    if !c.going && lanes.any (s.waiting c) then s.block else s.enterClasses mask

end Sys2Proof.Machine
end

