-- ==== Sys2Proof/Machine/CollEvents.lean ====
section
/-! DEFINITION. The events of the collective engine: steps, chunks, completions and aborts (19_collectives.md R386-R405). -/
namespace Sys2Proof.Machine
open Sys2Proof

/-! ## Transfers -/

/-- Whether a transfer has completed; one of no bytes has once its length has been compared. -/
def Transfer.complete (t : Transfer) : Bool :=
  !t.unmatched &&
    match t.kind with
    | .send | .poolSend => decide (t.len ≤ t.out)
    | .recv | .copy | .poolRecv => decide (t.len ≤ t.got)
    | .rrs => decide (t.len ≤ t.got) && t.results.isEmpty
/-- Whether a receive still takes chunks. -/
def Transfer.takes (t : Transfer) : Bool := t.unmatched || decide (t.got < t.len)
/-- Completed transfers leave; armed sends whose counter has reached its threshold start in the order they were armed, while
fewer than 16 are started (R394, R397). -/
def CollRun.fire (r : CollRun) : CollRun :=
  let r := { r with started := r.started.filter fun t => !t.complete }
  let r := r.armed.foldl (fun (q : CollRun) t =>
    if decide (t.thr ≤ nth 0 q.counters t.ctr) && decide (q.started.length < 16) then
      let m := match t.dest with | some d => d.1 | none => 0
      let i := assocGet 0 q.sends m
      { q with started := q.started ++ [{ t with dest := some (m, i) }], sends := assocSet 0 m (i + 1) q.sends }
    else { q with armed := q.armed ++ [t] }) { r with armed := [] }
  { r with started := r.started.filter fun t => !t.complete }
/-- The run after a change: what has completed leaves, and armed sends fire. -/
def State.settleRun (s : State) (p k : Nat) : State := s.modRun p k fun r => { r.fire with since := s.cycle }
/-- Replaces the started transfer at an index. -/
def State.modTransfer (s : State) (p k i : Nat) (g : Transfer → Transfer) : State :=
  s.modRun p k fun r => { r with started := modifyNth g i r.started }
/-- Notes n bytes written to a transfer's destination from its progress on: the chunks of the record, and the counter (R397). -/
def CollRun.wrote (r : CollRun) (i n : Nat) : CollRun :=
  match r.started[i]? with
  | some t =>
    let marks := match t.dst with
      | some d =>
        let a := d.off + t.got
        ((List.range ((a + n - 1) / 4096 - a / 4096 + 1)).map fun j => (d.slot, a / 4096 + j)).filter fun x => !r.written.contains x
      | none => []
    { r with
      started := modifyNth (fun t => { t with got := t.got + n }) i r.started
      counters := if t.cnt then modifyNth (· + 1) t.ctr r.counters else r.counters
      written := r.written ++ marks }
  | none => r

/-- The address of a pool buffer. -/
def Communicator.buffer (c : Communicator) (slot : Nat) : Nat := c.poolbase + 4096 * slot
/-- What has arrived is read from the pool and written to the receives that match it, oldest first (R396, R399). -/
def State.deliverStaged (s : State) (p k : Nat) : Nat → State
  | 0 => s
  | fuel + 1 =>
    match s.run? p k, s.comm? p k with
    | some r, some c =>
      let hit := r.staged.zipIdx.findSome? fun g =>
        (r.started.zipIdx.find? fun t => t.1.source == some (g.1.member, g.1.index) && t.1.takes).map fun t => (g, t)
      (match hit with
        | none => s
        | some ((g, gi), (t, i)) =>
          let n := min 4096 (t.len - t.got)
          match s.collRead p c r (c.buffer g.slot) g.size with
          | (s, .error e) => s.abortRun p k e
          | (s, .ok wire) =>
            let data := match g.comp with
              | some d => (match dtypeFmt d with | some f => expandChunk (contractOf c.contract) f (dtypeBytes d) (n / dtypeBytes d) wire | none => wire)
              | none => wire
            if g.len ≠ t.len || data.length ≠ n then s.abortRun p k 0x03 g.member
            else
              let own : State × Except Nat (List Byte) := match t.kind, t.src with
                | .rrs, some a => s.collRead p c r (a.va + t.got) n
                | _, _ => (s, .ok [])
              match own, t.dst with
              | (s, .error e), _ => s.abortRun p k e
              | (s, .ok b), some d =>
                let result := if t.kind = .rrs then reduceBytes (contractOf c.contract) .seqD t.red [data, b] else data
                (match s.collWrite p c r (d.va + t.got) result with
                  | (s, .error e) => s.abortRun p k e
                  | (s, .ok _) =>
                    let s := s.modRun p k fun r =>
                      let r := { r with staged := removeNth gi r.staged }
                      let r := if t.unmatched then { r with started := modifyNth (fun t => { t with unmatched := false }) i r.started } else r.wrote i n
                      if t.kind = .rrs && t.dest.isSome then { r with started := modifyNth (fun t => { t with results := t.results ++ [result] }) i r.started } else r
                    (s.settleRun p k).deliverStaged p k fuel)
              | (s, .ok _), none => s)
    | _, _ => s
/-- Delivers all that is staged. -/
def State.deliverAll (s : State) (p k : Nat) : State :=
  s.deliverStaged p k (match s.run? p k with | some r => r.staged.length | none => 0)
/-- Whether a communicator stages a chunk that the member sends to itself: the last free buffer is kept for a receive that has started (R396,
log 66). -/
def CollRun.room (r : CollRun) (c : Communicator) (member index : Nat) : Bool :=
  decide (r.staged.length + 1 < c.pooln) ||
    (decide (r.staged.length < c.pooln) && r.started.any fun t => t.source == some (member, index) && t.takes)
/-- Stages a chunk whole in the lowest free buffer of the pool, and delivers it if its receive has started (R392, R396). -/
def State.stage (s : State) (p k : Nat) (g : Arrival) : State :=
  match s.run? p k, s.comm? p k with
  | some r, some c =>
    let slot := firstNot (r.staged.map StagedChunk.slot) c.pooln 0
    (match s.collWrite p c r (c.buffer slot) g.data with
      | (s, .error e) => s.abortRun p k e
      | (s, .ok _) =>
        (s.modRun p k fun r =>
          { r with staged := r.staged ++ [⟨g.member, g.index, g.len, g.comp, slot, g.data.length⟩], since := s.cycle }).deliverAll p k)
  | _, _ => s

/-! ## Pooled reductions (R400) -/

/-- Whether the members' pooled SENDs, and the own RECV, of one number disagree in LEN or RED. -/
def CollRun.disagrees (r : CollRun) : Bool :=
  r.contributions.any fun x =>
    (r.contributions.any fun y => y.index == x.index && (y.len != x.len || y.red != x.red)) ||
    r.started.any fun t => t.kind == .poolRecv && t.index == x.index && t.len != x.len
/-- The contributions of every member to a chunk, in member order; none while one is missing. -/
def CollRun.terms (r : CollRun) (size index chunk : Nat) : Option (List Contribution) :=
  (List.range size).mapM fun m => r.contributions.find? fun x => x.member == m && x.index == index && x.chunk == chunk
/-- Whether every pooled SEND among some transfers has read its source (R406). -/
def haveRead (ts : List Transfer) : Bool := ts.all fun t => t.kind != .poolSend || decide (t.len ≤ t.out)
/-- Pooled results whose contributions are all there are reduced and written, chunk by chunk, once every pooled SEND before their RECV has read its
source (R400, R406). -/
def State.poolResults (s : State) (p k : Nat) : Nat → State
  | 0 => s
  | fuel + 1 =>
    match s.run? p k, s.comm? p k with
    | some r, some c =>
      if r.disagrees then s.abortRun p k 0x03 everyMember
      else
        (match r.started.zipIdx.findSome? fun t =>
            if t.1.kind == .poolRecv && t.1.takes && haveRead (r.started.take t.2) then (r.terms c.size t.1.index (t.1.got / 4096)).map fun ts => (t, ts) else none with
          | none => s
          | some ((t, i), ts) =>
            let n := min 4096 (t.len - t.got)
            let red := match ts with | x :: _ => x.red | [] => 0
            let loose := isLoose c.contract red c.size
            let result := reduceBytes (contractOf c.contract) (contractOf c.contract).grouping red (ts.map Contribution.data) (if loose then some s.fresh else none)
            let s := if loose then { s with fresh := s.fresh + n } else s
            match t.dst with
            | some d =>
              (match s.collWrite p c r (d.va + t.got) result with
                | (s, .error e) => s.abortRun p k e
                | (s, .ok _) =>
                  ((s.modRun p k fun r =>
                    if t.unmatched then { r with started := modifyNth (fun t => { t with unmatched := false }) i r.started } else r.wrote i n).settleRun p k).poolResults
                      p k fuel)
            | none => s)
    | _, _ => s
/-- Every pooled result that can be made. -/
def State.poolAll (s : State) (p k : Nat) : State :=
  s.poolResults p k (match s.run? p k with | some r => r.contributions.length + 1 | none => 0)

/-! ## Moving a chunk (R396, R398, R400, R402, R403) -/

/-- The first started transfer with a ready chunk, and whether that chunk leaves: what leaves the device needs a credit, and what goes to the
member itself room in its pool (R393, R396, R398). -/
def CollRun.movable (r : CollRun) (c : Communicator) (credit : Bool) : Option (Nat × Bool) :=
  let goes (t : Transfer) : Bool := match t.dest with | some d => if d.1 = c.own then r.room c d.1 d.2 else credit | none => false
  r.started.zipIdx.findSome? fun t =>
    match t.1.kind with
    | .send => if goes t.1 then some (t.2, true) else none
    | .poolSend => if credit || c.size ≤ 1 then some (t.2, true) else none
    | .copy => some (t.2, false)
    | .rrs =>
      if !t.1.results.isEmpty && goes t.1 then some (t.2, true)
      else if t.1.source.isNone && decide (t.1.got < t.1.len) then some (t.2, false)
      else none
    | .recv | .poolRecv => none

/-- The bytes of a chunk made ready to travel: compressed with its residuals where COMP asks (R402), else as they are; what the
receiver reads; or an abort code. -/
def State.dress (s : State) (p : Nat) (c : Communicator) (r : CollRun) (t : Transfer) (off : Nat) (bs : List Byte) :
    State × Except Nat (List Byte × List Byte) :=
  match t.comp, dtypeFmt (t.red % 16) with
  | true, some f =>
    let n := dtypeBytes (t.red % 16)
    let m := bs.length / n
    if c.eflen / 4 < off / n + m then (s, .error 0x06)
    else
      let a := c.efbase + 4 * (off / n)
      match s.collRead p c r a (4 * m) with
      | (s, .ok es) =>
        let z := compressChunk (contractOf c.contract) f n (elemsOf n bs) (elemsOf 4 es)
        (match s.collWrite p c r a z.residuals with
          | (s, .ok _) => (s, .ok (z.wire, z.values))
          | (s, .error e) => (s, .error e))
      | (s, .error e) => (s, .error e)
  | _, _ => (s, .ok (bs, bs))
/-- Puts a chunk for another member on the virtual channel, sealed if it must be. -/
def State.depart (s : State) (p k : Nat) (c : Communicator) (member index : Nat) (bs : List Byte) : State :=
  match s.run? p k with
  | some r =>
    let n := assocGet 0 r.chunksOut member
    let wire := if c.isSealed then gcmSeal (pairKey c.agreed member) (chunkNonce c.tag r.ordinal n) bs else bs
    (s.modRun p k fun r => { r with chunksOut := assocSet 0 member (n + 1) r.chunksOut }).modPart p fun q =>
      { q with sent := q.sent ++ [⟨k, r.ordinal, some member, index, false, wire⟩] }
  | none => s
/-- A chunk leaves for a member: into the pool for the member itself, else onto the virtual channel. -/
def State.post (s : State) (p k : Nat) (c : Communicator) (t : Transfer) (member index : Nat) (bs : List Byte) : State :=
  if member = c.own then s.stage p k ⟨member, index, t.len, if t.comp then some (t.red % 16) else none, bs⟩
  else s.depart p k c member index bs
/-- A contribution leaves: for every member at once, or sealed for each one (R400, R403). -/
def State.contribute (s : State) (p k : Nat) (c : Communicator) (r : CollRun) (t : Transfer) (wire values : List Byte) : State :=
  let s := s.modRun p k fun r => { r with contributions := r.contributions ++ [⟨c.own, t.index, t.out / 4096, t.len, t.red, values⟩] }
  let s :=
    if c.isSealed then ((List.range c.size).filter (· != c.own)).foldl (fun s m => s.depart p k c m t.index wire) s
    else s.modPart p fun q => { q with sent := q.sent ++ [⟨k, r.ordinal, none, t.index, false, wire⟩] }
  (s.settleRun p k).poolAll p k
/-- The engine moves the next chunk of a copy, or of an RRS without a peer to receive from. -/
def State.moveOwn (s : State) (p k i : Nat) (c : Communicator) (r : CollRun) (t : Transfer) (a : LocalRange) : State :=
  let n := min 4096 (t.len - t.got)
  match s.collRead p c r (a.va + t.got) n, t.dst with
  | (s, .error e), _ => s.abortRun p k e
  | (s, .ok b), some d =>
    (match s.collWrite p c r (d.va + t.got) b with
      | (s, .error e) => s.abortRun p k e
      | (s, .ok _) =>
        let s := s.modRun p k fun r =>
          let r := r.wrote i n
          if t.kind = .rrs && t.dest.isSome then { r with started := modifyNth (fun t => { t with results := t.results ++ [b] }) i r.started } else r
        (s.settleRun p k).deliverAll p k)
  | (s, .ok _), none => s
/-- The engine moves the next chunk of a started transfer; out: one that leaves. -/
def State.moveChunk (s : State) (p k i : Nat) (out : Bool) : State :=
  match s.run? p k, s.comm? p k with
  | some r, some c =>
    (match r.started[i]? with
      | none => s
      | some t =>
        match t.kind, t.results, t.src with
        | .rrs, results, some a =>
          if out then
            (match results, t.dest with
              | b :: rest, some (m, idx) =>
                (match s.dress p c r t (match t.dst with | some d => d.off + t.out | none => t.out) b with
                  | (s, .error e) => s.abortRun p k e
                  | (s, .ok (wire, _)) =>
                    let s := s.modTransfer p k i fun t => { t with results := rest, out := t.out + b.length }
                    (s.settleRun p k).post p k c t m idx wire)
              | _, _ => s)
          else s.moveOwn p k i c r t a
        | .copy, _, some a => s.moveOwn p k i c r t a
        | .send, _, some a | .poolSend, _, some a =>
          let n := min 4096 (t.len - t.out)
          (match s.collRead p c r (a.va + t.out) n with
            | (s, .error e) => s.abortRun p k e
            | (s, .ok b) =>
              match s.dress p c r t (a.off + t.out) b with
              | (s, .error e) => s.abortRun p k e
              | (s, .ok (wire, values)) =>
                let s := s.modTransfer p k i fun t => { t with out := t.out + n, unmatched := false }
                (match t.dest with
                  | some (m, idx) => (s.settleRun p k).post p k c t m idx wire
                  | none => s.contribute p k c r t wire values))
        | _, _, _ => s)
  | _, _ => s

/-- Among the ready communicators, in ascending order: the one whose chunk has waited longest, if 4,096 cycles, else the highest PRIO, in turn
after the one of that PRIO served last (R398). -/
def pickComm (now : Nat) (last : List Nat) (ready : List (Communicator × CollRun × Nat × Bool)) : Option (Communicator × CollRun × Nat × Bool) :=
  let waits (x : Communicator × CollRun × Nat × Bool) : Nat := match x.2.1.ready with | some t => now - t | none => 0
  match (ready.filter fun x => decide (4096 ≤ waits x)).foldl (fun a x => match a with
      | some y => if waits y < waits x then some x else a
      | none => some x) none with
  | some x => some x
  | none =>
    let top := ready.foldl (fun a x => max a x.1.prio) 0
    let l := nth 63 last top
    let same := ready.filter fun x => x.1.prio == top
    (same.filter (fun x => decide (l < x.1.id)) ++ same).head?
/-- A chunk boundary of a partition: the communicators listed hold a credit or a receiver's buffer. -/
def State.chunkTurn (s : State) (p : Nat) (credits : List Nat) : State :=
  let q := s.part p
  let ready := (List.range 64).filterMap fun k =>
    (s.comm? p k).bind fun c => (s.run? p k).bind fun r => (r.movable c (credits.contains k)).map fun i => (c, r, i.1, i.2)
  match pickComm s.cycle q.collLast ready with
  | some (c, _, i, out) =>
    let s := s.modPart p fun q =>
      { q with
        collLast := modifyNth (fun _ => c.id) c.prio q.collLast
        colls := q.colls.map fun r =>
          if r.comm = c.id then { r with ready := none }
          else if ready.any fun x => x.1.id == r.comm then { r with ready := some (r.ready.getD s.cycle) } else r }
    s.moveChunk p c.id i out
  | none => s

/-- A chunk of an ordinal as its seal leaves it, with the number of chunks that have come from its member before it; none if it is not authentic
(R403). -/
def Communicator.unseal (c : Communicator) (ordinal n member : Nat) (data : List Byte) : Option (List Byte) :=
  if c.isSealed then gcmOpen (pairKey c.agreed member) (chunkNonce c.tag ordinal n) data else some data
/-- Another member's contribution among those held, from its bytes; none if they are not as many as the chunk has (R400, R402). -/
def Communicator.contribution (c : Communicator) (held : List Contribution) (g : Arrival) (red : Nat) (b : List Byte) : Option Contribution :=
  let chunk := (held.filter fun x => x.member == g.member && x.index == g.index).length
  let n := min 4096 (g.len - 4096 * chunk)
  let data := match g.comp with
    | some d => (match dtypeFmt d with | some f => expandChunk (contractOf c.contract) f (dtypeBytes d) (n / dtypeBytes d) b | none => b)
    | none => b
  if data.length = n then some ⟨g.member, g.index, chunk, g.len, red, data⟩ else none
/-- One more chunk from a member. -/
def countIn (l : List (Nat × Nat)) (member : Nat) : List (Nat × Nat) := assocSet 0 member (assocGet 0 l member + 1) l
def State.modEarly (s : State) (p k : Nat) (g : Early → Early) : State := s.modComm p k fun c => { c with early := g c.early }
/-- A contribution arrives for the next RUN before it issues here (R400, log 66). -/
def State.earlyContribution (s : State) (p k : Nat) (c : Communicator) (g : Arrival) (red : Nat) : State :=
  if c.early.fail.isSome then s
  else match c.unseal (c.ordinal + 1) (assocGet 0 c.early.chunksIn g.member) g.member g.data with
    | none => s.modEarly p k fun y => { y with fail := some (0x05, g.member) }
    | some b =>
      match c.contribution c.early.contributions g red b with
      | none => s.modEarly p k fun y => { y with fail := some (0x03, everyMember) }
      | some x => s.modEarly p k fun y => { y with contributions := y.contributions ++ [x], chunksIn := countIn y.chunksIn g.member }
/-- A chunk arrives for the next RUN before it issues here, and is staged in the pool if a buffer is free (R396, log 66). -/
def State.earlyChunk (s : State) (p k : Nat) (c : Communicator) (g : Arrival) : State :=
  if c.early.fail.isSome || c.pooln ≤ c.early.staged.length then s
  else match c.unseal (c.ordinal + 1) (assocGet 0 c.early.chunksIn g.member) g.member g.data with
    | none => s.modEarly p k fun y => { y with fail := some (0x05, g.member) }
    | some b =>
      let slot := firstNot (c.early.staged.map StagedChunk.slot) c.pooln 0
      match s.writeVa p none (c.buffer slot) b with
      | (t, .ok _) => t.modEarly p k fun y =>
          { y with staged := y.staged ++ [⟨g.member, g.index, g.len, g.comp, slot, b.length⟩], chunksIn := countIn y.chunksIn g.member }
      | _ => s
/-- Another member's contribution to the next chunk of its pooled SEND of a number arrives, with its LEN and RED (R400, R403). -/
def State.pooledChunk (s : State) (p k : Nat) (g : Arrival) (red : Nat) : State :=
  match s.run? p k, s.comm? p k with
  | some r, some c =>
    (match c.unseal r.ordinal (assocGet 0 r.chunksIn g.member) g.member g.data with
      | none => s.abortRun p k 0x05 g.member
      | some b =>
        match c.contribution r.contributions g red b with
        | none => s.abortRun p k 0x03 everyMember
        | some x =>
          (s.modRun p k fun r => { r with
            contributions := r.contributions ++ [x], chunksIn := countIn r.chunksIn g.member, since := s.cycle }).poolAll p k)
  | none, some c => s.earlyContribution p k c g red
  | _, none => s
/-- A chunk arrives from a member, for the run in progress or, before that has issued, for the next one: authenticated, staged whole in the pool,
and delivered (R396, R403); without a buffer for it, it waits. -/
def State.arriveChunk (s : State) (p k : Nat) (g : Arrival) : State :=
  match s.run? p k, s.comm? p k with
  | some r, some c =>
    if c.pooln ≤ r.staged.length then s
    else
      (match c.unseal r.ordinal (assocGet 0 r.chunksIn g.member) g.member g.data with
        | none => s.abortRun p k 0x05 g.member
        | some b => (s.modRun p k fun r => { r with chunksIn := countIn r.chunksIn g.member }).stage p k { g with data := b })
  | none, some c => s.earlyChunk p k c g
  | _, none => s

/-! ## Steps (R391-R397) -/

/-- A transfer of a step, before anything has moved. -/
def Step.transfer (t : Step) (kind : TransferKind) (src dst : Option LocalRange) (dest source : Option (Nat × Nat)) (index : Nat) : Transfer :=
  { kind := kind, src := src, dst := dst, len := t.len, red := t.red, ctr := t.ctr, thr := t.thr, cnt := t.cnt, comp := t.comp, dest := dest
    source := source, index := index, got := 0, out := 0
    results := if t.len = 0 && kind == .rrs && source.isNone && dest.isSome then [[]] else []
    unmatched := t.len == 0 && match kind with | .send | .poolSend | .recv | .poolRecv => true | .rrs => source.isSome | .copy => false }
/-- A transfer starts, and the program goes on. -/
def State.startTransfer (s : State) (p k : Nat) (t : Transfer) : State :=
  (((s.modRun p k fun r =>
    let up (x : Option (Nat × Nat)) (l : List (Nat × Nat)) : List (Nat × Nat) := match x with | some (m, i) => assocSet 0 m (i + 1) l | none => l
    { r with
      started := r.started ++ [t], pos := r.pos + 1, sends := up t.dest r.sends, recvs := up t.source r.recvs
      poolSends := if t.kind = .poolSend then r.poolSends + 1 else r.poolSends
      poolRecvs := if t.kind = .poolRecv then r.poolRecvs + 1 else r.poolRecvs }).settleRun p k).deliverAll p k).poolAll p k
/-- A step is skipped (R393). -/
def State.skipStep (s : State) (p k : Nat) : State := (s.modRun p k fun r => { r with pos := r.pos + 1 }).progress p k

/-- The step that a run reaches, if its OP is wanted: an illegal one aborts (R391, R402). -/
def State.onStep (s : State) (p k op : Nat) (g : CollRun → Communicator → Step → State) : State :=
  match s.run? p k, s.comm? p k with
  | some r, some c =>
    (match r.steps[r.pos]? with
      | none => s
      | some b =>
        let t := parseStep b
        if t.op ≠ op then s
        else if !t.legal || (t.comp && !((dtypeFmt (t.red % 16)).isSome && admitsFour c.contract && c.efbase ≠ 0)) then s.abortRun p k 0x01
        else g r c t)
  | _, _ => s
/-- A step that starts a transfer: it waits while 16 are started; its local ranges must be legal. -/
def State.beginStep (s : State) (p k : Nat) (r : CollRun) (t : Step) (src dst : Bool) (g : Option LocalRange → Option LocalRange → Transfer) : State :=
  if 16 ≤ r.started.length then s
  else
    let a := if src then s.localRange p r t t.src false else none
    let b := if dst then s.localRange p r t t.dst true else none
    if (src && a.isNone) || (dst && b.isNone) then s.abortRun p k 0x07 else s.startTransfer p k (g a b)
/-- LOOP, ENDL and PEER. -/
def State.controlStep (s : State) (p k op : Nat) : State :=
  s.onStep p k op fun r c t =>
    match r.walker.control r.steps c.size (r.vr c) t with
    | some w => (s.modRun p k fun r => r.at_ w).progress p k
    | none => s.abortRun p k 0x02
/-- A member at a CBAR goes on: its started steps have completed, and every other member has reached it. -/
def State.leaveBar (s : State) (p k : Nat) : State :=
  match s.run? p k with
  | some r =>
    if r.atBar && r.started.isEmpty then (s.modRun p k fun r => { r with atBar := false, pos := r.pos + 1 }).progress p k else s
  | none => s

/-- COLL_SEND (R394, R396, R400): the step that the run of communicator k reaches, if it is a SEND. -/
def execCollSend (s : State) : Outcome :=
event s fun e s => s.onStep e.p e.k 0x01 fun r c t =>
    if t.pool then s.beginStep e.p e.k r t true false fun a _ => t.transfer .poolSend a none none none r.poolSends
    else match r.member c t.peer with
      | none => s.skipStep e.p e.k
      | some m => s.beginStep e.p e.k r t true false fun a _ => t.transfer .send a none (some (m, assocGet 0 r.sends m)) none 0

/-- COLL_RECV (R394, R396, R400). -/
def execCollRecv (s : State) : Outcome :=
event s fun e s => s.onStep e.p e.k 0x02 fun r c t =>
    if t.pool then s.beginStep e.p e.k r t false true fun _ b => t.transfer .poolRecv none b none none r.poolRecvs
    else match r.member c t.peer with
      | none => s.skipStep e.p e.k
      | some m => s.beginStep e.p e.k r t false true fun _ b => t.transfer .recv none b none (some (m, assocGet 0 r.recvs m)) 0

/-- COLL_RRS (R394, R399). -/
def execCollRrs (s : State) : Outcome :=
event s fun e s => s.onStep e.p e.k 0x03 fun r c t =>
    s.beginStep e.p e.k r t true true fun a b =>
      t.transfer .rrs a b ((r.member c t.peer2).map fun m => (m, assocGet 0 r.sends m)) ((r.member c t.peer).map fun m => (m, assocGet 0 r.recvs m)) 0

/-- COLL_LCOPY (R394). -/
def execCollLcopy (s : State) : Outcome :=
event s fun e s => s.onStep e.p e.k 0x04 fun r _ t => s.beginStep e.p e.k r t true true fun a b => t.transfer .copy a b none none 0

/-- COLL_CWAIT (R394, R397): it passes once its counter has reached THR. -/
def execCollCwait (s : State) : Outcome :=
event s fun e s => s.onStep e.p e.k 0x05 fun r _ t => if t.thr ≤ nth 0 r.counters t.ctr then s.skipStep e.p e.k else s

/-- COLL_ARM (R394, R397): fires at once if its counter has reached THR, else waits armed, one of at most 32. -/
def execCollArm (s : State) : Outcome :=
event s fun e s => s.onStep e.p e.k 0x06 fun r c t =>
    match r.member c t.peer with
    | none => s.skipStep e.p e.k
    | some m =>
      if t.thr ≤ nth 0 r.counters t.ctr then
        s.beginStep e.p e.k r t true false fun a _ => t.transfer .send a none (some (m, assocGet 0 r.sends m)) none 0
      else if 32 ≤ r.armed.length then s
      else match s.localRange e.p r t t.src false with
        | none => s.abortRun e.p e.k 0x07
        | some a => (s.modRun e.p e.k fun r =>
            { r with armed := r.armed ++ [t.transfer .send (some a) none (some (m, 0)) none 0], pos := r.pos + 1 }).progress e.p e.k

/-- COLL_LOOP (R394, R395). -/
def execCollLoop (s : State) : Outcome :=
event s fun e s => s.controlStep e.p e.k 0x07

/-- COLL_ENDL (R394, R395). -/
def execCollEndl (s : State) : Outcome :=
event s fun e s => s.controlStep e.p e.k 0x08

/-- COLL_PEER (R393, R394). -/
def execCollPeer (s : State) : Outcome :=
event s fun e s => s.controlStep e.p e.k 0x09

/-- COLL_CBAR (R394): the program has reached the CBAR; a lone member waits for its own steps only. -/
def execCollCbar (s : State) : Outcome :=
event s fun e s => s.onStep e.p e.k 0x0A fun r c _ =>
    let s := if r.atBar then s else (s.modRun e.p e.k fun r => { r with atBar := true }).progress e.p e.k
    if c.size ≤ 1 then s.leaveBar e.p e.k else s

/-- COLL_CBAR_RELEASE (R394): every other member's program has reached the CBAR at which the run of communicator k stands. -/
def execCollCbarRelease (s : State) : Outcome :=
event s fun e s => s.leaveBar e.p e.k

/-- COLL_CHUNK_SEND (R396, R398): a chunk boundary; bytes lists the communicators that hold a credit. -/
def execCollChunkSend (s : State) : Outcome :=
event s fun e s => s.chunkTurn e.p (e.bytes.map BitVec.toNat)

/-- COLL_CHUNK_RECEIVE (R396, R400, R403): a chunk for communicator k from member m, of its send u of x bytes, compressed with DTYPE lane − 1 unless
lane is 0; or, if on, its contribution to the next chunk of its pooled SEND u, with LEN x and RED lane, compressed if bit 6 of lane is 1. -/
def execCollChunkReceive (s : State) : Outcome :=
event s fun e s =>
    if e.on then
      s.pooledChunk e.p e.k ⟨e.m, e.u, e.x.toNat, if bitAt e.lane 6 then some (e.lane % 16) else none, e.bytes⟩ (e.lane % 64)
    else s.arriveChunk e.p e.k ⟨e.m, e.u, e.x.toNat, if e.lane = 0 then none else some (e.lane - 1), e.bytes⟩

/-- COLL_CREATE_COMPLETE (R388): every member has issued its CREATE; bytes holds their capability bitmaps in member order, and on says that their fields agree. -/
def execCollCreateComplete (s : State) : Outcome :=
event s fun e s =>
    match (s.part e.p).creates.find? fun x => x.comm.id == e.k with
    | none => s
    | some x =>
      if e.bytes.length < 2 * x.comm.size then s
      else
        let maps := (elemsOf 2 e.bytes).zipIdx.map fun m => if m.2 = x.comm.own then 0x01FE else m.1
        let common := (maps.take x.comm.size).foldl (· &&& ·) 0xFFFE
        let best := (List.range 16).foldl (fun a c => if bitAt common c then c else a) 0
        let contract := if x.req = 0 then best else if x.req = 16 then 0 else x.req
        if !e.on then s.abortCreate e.p x.seq x.desc 0x0C common
        else if x.req ≠ 16 && (contract = 0 || !bitAt common contract) then s.abortCreate e.p x.seq x.desc 0x0D common
        else match s.writeResult e.p x.seq x.desc (collResult contract 0 common) with
          | (s, .ok _) =>
            (s.modPart e.p fun q =>
              { q with
                creates := q.creates.filter fun y => y.seq ≠ x.seq
                comms := q.comms ++ [{ x.comm with contract := contract, agreed := s.fresh }] }).nextFresh.completeTask e.p x.seq
          | _ => s.abortCreate e.p x.seq x.desc 0x08 common

/-- COLL_RUN_COMPLETE (R394, R395): the program has ended and every transfer and armed send has completed. -/
def execCollRunComplete (s : State) : Outcome :=
event s fun e s =>
    match s.run? e.p e.k with
    | some r =>
      if r.pos < r.steps.length then s
      else if !r.loops.isEmpty then s.abortRun e.p e.k 0x02
      else if r.started.isEmpty && r.armed.isEmpty then
        (s.modPart e.p fun q => { q with colls := q.colls.filter fun x => x.comm ≠ e.k }).completeTask e.p r.seq
      else s
    | none => s

/-- The code with which a member aborts that a notice reaches: the notice's own if it names the member, else PEERABORT (R396, R400, R403, R404). -/
def noticeCode (own : Nat) (notice : List Byte) : Nat :=
  let code := field notice 0 1
  let who := field notice 1 2
  if notice.length = 3 && (code = 0x03 || code = 0x05) && (who = own || who = everyMember) then code else 0x0B
/-- COLL_PEER_ABORT (R404): another member of communicator k aborted its RUN of ordinal x, with the notice in bytes. -/
def execCollPeerAbort (s : State) : Outcome :=
event s fun e s =>
    match s.run? e.p e.k with
    | some r =>
      if r.ordinal = e.x.toNat then
        s.abortRun e.p e.k (noticeCode (match s.comm? e.p e.k with | some c => c.own | none => 0) e.bytes)
      else if r.ordinal < e.x.toNat then s.modComm e.p e.k fun c => { c with aborts := c.aborts ++ [e.x.toNat] } else s
    | none => s.modComm e.p e.k fun c => if c.ordinal < e.x.toNat then { c with aborts := c.aborts ++ [e.x.toNat] } else c

/-- COLL_PEERDOWN (R388, R404): 2^26 cycles without progress. -/
def execCollPeerdown (s : State) : Outcome :=
event s fun e s =>
    match (s.part e.p).creates.find? fun x => x.comm.id == e.k, s.run? e.p e.k with
    | some x, _ => if x.since + 2 ^ 26 ≤ s.cycle then s.abortCreate e.p x.seq x.desc 0x04 0 else s
    | none, some r => if r.since + 2 ^ 26 ≤ s.cycle then s.abortRun e.p e.k 0x04 else s
    | none, none => s

/-- ILLEGAL_STEP (R394): a step whose OP is not listed aborts the program with BADSTEP. -/
def execIllegalStep (s : State) : Outcome :=
event s fun e s =>
    match s.run? e.p e.k with
    | some r =>
      (match r.steps[r.pos]? with
        | some b => if (parseStep b).uses.isNone then s.abortRun e.p e.k 0x01 else s
        | none => s)
    | none => s

end Sys2Proof.Machine
end

