-- ==== Sys2Proof/Machine/Fold.lean ====
section
/-! DEFINITION. The fold area of a pre-empted flock (15_traps_faults_preemption.md R344-R347). -/
namespace Sys2Proof.Machine
open Sys2Proof

/-- Bytes padded with zeros, or cut, to a length. -/
def padTo (n : Nat) (bs : List Byte) : List Byte := (bs ++ List.replicate (n - bs.length) 0).take n
/-- The words of a vector as bytes. -/
def vecBytes {n : Nat} (v : Vector Word n) : List Byte := wordsToBytes v.toList
/-- The 5-bit field of a register (R49). -/
def regField : Reg → Nat
  | .v n => n.val
  | .w n => 24 + n.val

/-- A thread record (R346): a thread that has ended has its record all 0, if its last results have still to land too. -/
def foldThread (t : Thread) : List Byte :=
  if t.life = .ended || t.life = .ending || t.life = .absent then List.replicate 160 0
  else
    let hurdle := match t.hold with | .hurdle fl h _ _ => 16 + 32 * h + (if fl then 512 else 0) | _ => 0
    let flags := (if t.live then 1 else 0) + (if t.trapMode then 2 else 0) +
      (match t.life with | .held _ => 4 | .stray _ _ => 8 | _ => 0) + hurdle
    padTo 160 (vecBytes t.v ++ leBytes 4 t.full.toNat ++ leBytes 2 t.g.toNat ++ leBytes 2 flags ++ leBytes 4 t.pc.toNat ++
      leBytes 4 t.trapvec.toNat ++ leBytes 4 t.trapen.toNat ++ leBytes 4 t.srseed.toNat ++ leBytes 4 t.seq.toNat ++
      leBytes 4 t.clockhi.toNat ++ leBytes 4 t.trapcause.toNat ++ leBytes 4 t.trappc.toNat ++ leBytes 8 t.trapaddr.toNat ++
      leBytes 4 t.arrived.toNat)
/-- A warp header (R346). -/
def foldHeader (w : Warp) : List Byte :=
  vecBytes w.w ++ leBytes 1 w.wfull.toNat ++ leBytes 1 (if w.progress then 1 else 0) ++ leBytes 2 w.fairness.toNat ++
    leBytes 2 w.joinlim.toNat ++ leBytes 2 0 ++ leBytes 4 w.gang.toNat ++ leBytes 4 w.cursor ++ padTo 12 (wordsToBytes w.q0) ++
    leBytes 1 w.q0.length ++ leBytes 3 0
def foldWarp (w : Warp) : List Byte := foldHeader w ++ w.threads.flatMap foldThread

/-- The strays of a unit: fault identifier, lanes, PC, trap mode. -/
def Warp.strays (w : Warp) : List (Word × Nat × Nat × Bool) :=
  let fids := (w.threads.filterMap fun t => match t.life with | .stray x _ => some x | _ => none).eraseDups
  fids.map fun x =>
    let lanes := w.lanesWith fun t => match t.life with | .stray y _ => y == x | _ => false
    (x, laneMask lanes, (w.thread (lowest lanes)).pc.toNat, (w.thread (lowest lanes)).trapMode)
/-- The stray records of a workgroup (R345). -/
def foldStrays (fl : Flock) (wg : Workgroup) : List (List Byte) :=
  wg.units.flatMap fun u =>
    match wg.unit? u with
    | some w => w.strays.map fun q =>
        let marked (c : Bool) : Bool := fl.marks.any fun k => k.fid == q.1 && k.cancel == c
        leBytes 4 q.1.toNat ++ leBytes 4 q.2.1 ++ leBytes 3 q.2.2.1 ++ leBytes 1 u ++
          leBytes 4 ((if q.2.2.2 then 1 else 0) + (if marked false then 2 else 0) + (if marked true then 4 else 0))
    | none => []
/-- The pending records of a workgroup: waiting loads, then waiting pops (R344, R345). -/
def foldPending (fl : Flock) (m : Nat) (wg : Workgroup) : List (List Byte) :=
  let loads := fl.wgs.zipIdx.flatMap fun t => (t.1.waits.filter fun q => q.m == m).map fun q =>
    leBytes 8 (windowBase + t.2 * 2 ^ 19 + q.addr.toNat) ++ leBytes 1 (regField q.dest) ++ leBytes 1 (if q.clear then 2 else 1) ++
      leBytes 1 q.size ++ leBytes 1 q.u ++ leBytes 4 (laneMask q.lanes)
  let pops := wg.pops.map fun q =>
    leBytes 8 (if q.queue = 0 then q.entry else 0) ++ leBytes 1 (regField q.dest) ++
      leBytes 1 (if q.queue = 0 then 3 else if q.queue = 1 then 4 else 5) ++ leBytes 1 0 ++ leBytes 1 q.u ++ leBytes 4 (laneMask q.lanes)
  loads ++ pops
/-- The elements of a tile in order. -/
def foldTile (t : List (Nat × Word)) : List Byte := (List.range 4096).flatMap fun k => leBytes 4 (assocGet 0 t k).toNat

/-- A workgroup section (R345). -/
def foldWorkgroup (fl : Flock) (m : Nat) (wg : Workgroup) : List Byte :=
  let l := fl.launch
  let notices := wg.notices.filterMap fun n => match n with | .xfthresh a => some a | _ => none
  let strays := foldStrays fl wg
  let pend := foldPending fl m wg
  padTo 1024 (leBytes 4 wg.wgid ++ leBytes 1 wg.member ++ leBytes 1 wg.stage ++ leBytes 1 l.wg ++ leBytes 1 l.acc ++ leBytes 2 l.tags ++
      leBytes 2 0 ++ leBytes 4 l.scratch ++ wordsToBytes wg.hurdles ++ leBytes 2 wg.opnum.toNat ++ leBytes 2 wg.dq.length ++
      leBytes 4 wg.dqBase ++ leBytes 4 wg.tagUse.toNat ++ leBytes 2 wg.q1.length ++ leBytes 2 wg.q3.length ++ leBytes 4 pend.length ++
      leBytes 4 strays.length ++ leBytes 4 notices.length ++ leBytes 4 0 ++ notices.flatMap fun a => leBytes 8 a.toNat) ++
    padTo 256 (wordsToBytes wg.dq) ++ padTo 256 (wordsToBytes wg.q3) ++ padTo 128 (wordsToBytes wg.q1) ++
    padTo 224 (match wg.herder with | some h => foldWarp h | none => []) ++
    wg.warps.flatMap foldWarp ++ padTo (8 * l.tags) (wg.tags.flatMap fun t => leBytes 8 t.toNat) ++
    padTo (16384 * l.acc) (wg.tiles.flatMap foldTile) ++
    cellsRead wg.scratch 0 l.scratch ++ padTo (roundUp ((l.scratch + 127) / 128) 8) (leBytes ((l.scratch + 127) / 128) (wg.granules.toNat % 2 ^ (l.scratch / 16))) ++
    strays.flatten ++ pend.flatten

/-- The fold area of a flock (R345). -/
def foldBytes (fl : Flock) (halt : Option (Nat × Word)) : List Byte :=
  let sections := fl.wgs.zipIdx.flatMap fun wg => foldWorkgroup fl wg.2 wg.1
  padTo 256 (leBytes 8 fl.seq ++ leBytes 4 (fl.launch.m * fl.launch.s) ++ leBytes 4 0 ++ wordsToBytes fl.hurdles ++
      leBytes 4 (if halt.isSome then 1 else 0) ++ leBytes 4 (match halt with | some h => h.1 | none => 0) ++
      leBytes 8 (256 + sections.length)) ++ sections

/-- Writes a folded flock's image again, after what it holds has changed (R303, R338). -/
def State.refold (s : State) (f : Nat) : State :=
  match s.flock? f with
  | some fl => (match fl.status with
      | .folded base halt => (s.touchFirmware base (foldBytes fl halt).length).hbmWrite s.firmwareKey base (foldBytes fl halt)
      | _ => s)
  | none => s

/-- Whether a flock that stops has nothing in flight (R344): no result, no accepted operation or copy, and no transform that
names its scratchpad. -/
def State.drained (s : State) (f : Nat) (fl : Flock) : Bool :=
  let inside (a : Nat) : Bool := decide (localBase ≤ a) && decide (a < localEnd)
  !(s.landings.any fun l => l.f == f) && !(s.randoms.any fun r => r.f == f) &&
    fl.wgs.all (fun wg => wg.matQ.isEmpty && wg.copies.isEmpty) &&
    !(s.streams.any fun t => (match t.wg with | some (g, _) => g == f | none => false) &&
        (match t.layouts with | some (a, b) => inside a.base || inside b.base | none => true))
/-- The operations that a flock's threads issued. -/
def WriteOp.ofFlock (f : Nat) : WriteOp → Bool
  | .copy g _ _ => g == f
  | .stream g _ => g == some f
  | _ => false
/-- The fold area is written and the cores are released; the writes that the flock issued have entered the single order, and no copy is held for
it any more (R264, R344, R345). -/
def State.fold (s : State) (f base : Nat) : State :=
  match s.flock? f with
  | some fl =>
    (match fl.status with
      | .folding halt =>
        if s.drained f fl then
          (({ s.enterOps fl.p (WriteOp.ofFlock f) with copies := s.copies.filter fun c => fl.wgs.all fun wg => wg.core ≠ c.core } : State).modFlock f fun fl =>
            { fl with status := .folded base halt, preempted := fl.preempted + 1 }).refold f
        else s
      | _ => s)
  | none => s

end Sys2Proof.Machine
end

