-- ==== Sys2Proof/Machine/Threads.lean ====
section
/-! DEFINITION. What happens to threads, workgroups and flocks between chains: results land, random words arrive, JOINs
expire, threads and workgroups end, herders take notices, flocks abort (01 R24; 03 R96; 04 R129; 05 R144, R149, R159;
10 R248; 15 R333-R335, R339, R362; 18 R380). -/
namespace Sys2Proof.Machine
open Sys2Proof

/-- A landing writes its registers full and sets its sticky bits (R24, R34); check bits of the registers that failed are good again (log 78). -/
def State.landWords (s : State) (l : Landing) : State :=
  (s.modUnit l.f l.m l.u fun w =>
    l.lanes.foldl (fun w k =>
      ((l.dests.zip l.vals).foldl (fun (w : Warp) q => w.put k q.1 q.2) w).modThread k fun t => t.stick l.inv l.ovf false) w).mend fun b => l.lanes.all fun k => b.outside l.f l.m l.u k (l.dests.zip l.vals)
/-- Takes landing k out of flight. -/
def State.dropLanding (s : State) (k : Nat) : State := { s with landings := removeNth k s.landings }
/-- Lands result k, if nothing keeps it. -/
def State.land (s : State) (k : Nat) : State :=
  match s.landings[k]? with
  | some l => if l.host then s else (s.dropLanding k).landWords l
  | none => s

/-- Delivers random word k (R96): to its QPOP, or converted for its CVTSR, whose result is then in flight. -/
def State.deliverWord (s : State) (k : Nat) : State :=
  match s.randoms[k]? with
  | none => s
  | some r =>
    let x := s.randomFor r.f r.m r.u r.lane r.seq r.srseed
    let s' : State := { s with randoms := removeNth k s.randoms }
    let landing (vals : List Word) (pipeF inv ovf : Bool) : Landing :=
      { f := r.f, m := r.m, u := r.u, lanes := r.lanes, dests := if r.drop then [] else [r.dest], vals := if r.drop then [] else vals
        pipeF := pipeF, inv := inv, ovf := ovf, host := false, peer := none }
    match r.convert with
    | none => s'.landWords (landing [x] false false false)
    | some (a, n, e4m3) =>
      let o := convertStochastic (s.contractNo r.f) n e4m3 a x
      { s' with landings := s'.landings ++ [landing o.vals true o.inv o.ovf] }

/-- The threads of a warp held at a JOIN, with its PC and mode, of which the oldest has waited JOINLIM cycles (R144). -/
def Warp.expired (w : Warp) (now : Nat) : List Nat :=
  let old := w.threads.filter fun t => match t.hold with | .join c => t.running && decide (c + w.joinlim.toNat ≤ now) | _ => false
  w.lanesWith fun t => (match t.hold with | .join _ => t.running | _ => false) && old.any fun o => o.pc == t.pc && o.trapMode == t.trapMode
/-- Those threads are released. -/
def Warp.expireJoin (w : Warp) (now : Nat) : Warp :=
  (w.expired now).foldl (fun w k => w.modThread k fun t => { t with hold := .joinPast }) w

/-- A thread that has ended and whose registers are full ceases to exist (R129). -/
def Thread.cease (t : Thread) : Thread :=
  if t.life = .ending && t.full = BitVec.allOnes 24 then { t with life := .ended } else t

/-- Whether an accepted operation of the flock names a workgroup's allocation (R280). -/
def Flock.namedByMatrix (fl : Flock) (m : Nat) : Bool :=
  fl.wgs.zipIdx.any fun wg => wg.1.matQ.any fun op => op.a.target wg.2 == m || op.b.target wg.2 == m
/-- Whether a workgroup can end (R149, R280): herder and warps have ended, and no accepted operation or tile copy is left. -/
def Flock.wgDone (fl : Flock) (m : Nat) : Bool :=
  match fl.wgs[m]? with
  | some wg =>
    wg.warps.all Warp.gone && (match wg.herder with | some h => h.gone | none => true) && wg.matQ.isEmpty && wg.copies.isEmpty &&
      !fl.namedByMatrix m
  | none => false

/-- A workgroup ends, once its stores to peers are answered (R380); its allocations are released, and a flock of which every workgroup has ended retires (R149, R153). What another member's
thread waits for there is never satisfied, and still holds that thread back (R242). -/
def State.endWorkgroup (s : State) (f m : Nat) : State :=
  match s.flock? f with
  | some fl =>
    if fl.status = .resident && fl.wgDone m && !(s.landings.any fun l => l.f == f && l.m == m && l.dests.isEmpty && l.peer.isSome) then
      let s := s.modWg f m fun wg =>
        { wg with ended := true, scratch := [], granules := 0, tags := [], tiles := [], q1 := [], q3 := [], dq := [], notices := []
                  waits := wg.waits.filter fun q => q.m != m }
      s.modFlock f fun fl => if fl.wgs.all Workgroup.ended then { fl with status := .retired } else fl
    else s
  | none => s

/-- Updates the pool of an issued task. -/
def State.modPool (s : State) (p seq : Nat) (g : Pool → Pool) : State :=
  if (s.task? p seq).any fun t => t.status == .issued then
    s.modPart p fun u => { u with pools := u.pools.map fun q => if q.seq = seq then g q else q }
  else s
/-- Forms a warp of a bin whose oldest record has waited the flush timeout (R159). -/
def State.flushBin (s : State) (p seq target : Nat) : State :=
  match (s.task? p seq).bind Task.launch with
  | some l => s.modPool p seq fun q =>
      match q.bin target with
      | r :: _ => if r.arrived + l.flush ≤ s.cycle then q.form target else q
      | [] => q
  | none => s

/-- Whether no thread is left that could add to a pool (R159): none of the pool, placed or not, and no older launch is running. -/
def State.poolDry (s : State) (p seq : Nat) : Bool :=
  (s.poolSeq p seq).all (fun q => q.warps.isEmpty) && !(s.flocks.any fun fl => fl.p == p && decide (fl.seq ≤ seq) && fl.status != .retired && fl.status != .aborted) &&
    (s.part p).window.all fun t => decide (seq ≤ t.seq) || t.done || t.launch.isNone
/-- RESULT_LAND (R24): result k lands and its registers become full; a host AtomicOp waits for its completion. -/
def execResultLand (s : State) : Outcome :=
  event s fun e s => s.land e.k

/-- RANDOM_WORD_DELIVERY (R96): word k reaches its requester. -/
def execRandomWordDelivery (s : State) : Outcome :=
  event s fun e s => s.deliverWord e.k

/-- JOINLIM_EXPIRY (R144): the threads held at a JOIN for JOINLIM cycles are released. -/
def execJoinlimExpiry (s : State) : Outcome :=
  event s fun e s => s.modUnit e.k e.m e.u fun w => w.expireJoin s.cycle

/-- THREAD_CEASE (R129): an ended thread whose registers are full ceases to exist. -/
def execThreadCease (s : State) : Outcome :=
  event s fun e s => s.modThread e.k e.m e.u e.lane Thread.cease

/-- WORKGROUP_END (R149, R153). -/
def execWorkgroupEnd (s : State) : Outcome :=
  event s fun e s => s.endWorkgroup e.k e.m

/-- NESTED_NOTICE (R333): the herder takes its first notice, if it is one of a nested trap. -/
def execNestedNotice (s : State) : Outcome :=
  event s fun e s => s.takeNotice e.k e.m true

/-- XFTHRESH_NOTICE (R335): the herder takes its first notice, if it is one of a threshold. -/
def execXfthreshNotice (s : State) : Outcome :=
  event s fun e s => s.takeNotice e.k e.m false

/-- FLOCK_ABORT (R339, R340). -/
def execFlockAbort (s : State) : Outcome :=
  event s fun e s => s.abortFlock e.k

/-- TIME_LIMIT_EXPIRY (R362): the task whose sequence number is k, once its limit has passed. -/
def execTimeLimitExpiry (s : State) : Outcome :=
  event s fun e s => s.expire e.p e.k

/-- POOL_FLUSH_TIMEOUT (R159): bin m of the pool of task k. -/
def execPoolFlushTimeout (s : State) : Outcome :=
  event s fun e s => s.flushBin e.p e.k e.m

/-- POOL_DRAIN (R159): the pool of task k. -/
def execPoolDrain (s : State) : Outcome :=
  event s fun e s =>
    if s.poolDry e.p e.k then s.modPool e.p e.k Pool.drain else s

/-- HOST_ATOMIC_COMPLETION (R248): the completion of result k; an error aborts the flock, whose task faults with MEMFAULT. -/
def execHostAtomicCompletion (s : State) : Outcome :=
  event s fun e s =>
    match s.landings[e.k]? with
    | some l =>
      if !l.host then s
      else if e.on then (s.dropLanding e.k).landWords l
      else ((s.dropLanding e.k).startAbort l.f l.m l.u (lowest l.lanes) causePeer l.pc l.addr).abortFlock l.f
    | none => s

/-- PEER_ACCESS_TIMEOUT (R380): the access of result k has had no answer for 2^22 cycles and is refused; its destination never becomes full. -/
def execPeerAccessTimeout (s : State) : Outcome :=
  event s fun e s =>
    match s.landings[e.k]? with
    | some l =>
      if l.peer.isNone || decide (s.cycle < l.since + 2 ^ 22) then s
      else ((s.dropLanding e.k).startAbort l.f l.m l.u (lowest l.lanes) causePeer l.pc l.addr).abortFlock l.f
    | none => s

end Sys2Proof.Machine
end

