-- ==== Sys2Proof/Machine/Blocks.lean ====
section
/-! DEFINITION. The control blocks and fault commands: registers, TLB invalidation, the chunk pool, crook program loads, the
fault ring (07 R182; 09 R217, R222, R234; 13 R309, R313; 15 R336-R338; 16 R359-R361; 18 R376-R380). -/
namespace Sys2Proof.Machine
open Sys2Proof

/-! ## Reading registers (R8, R10) -/

/-- A bit as a number, at a place. -/
def bitVal (b : Bool) (k : Nat) : Nat := if b then 2 ^ k else 0
/-- The stream control block (R182), given whether decode waits for a handle. -/
def Partition.streamReg (q : Partition) (stalled : Bool) (off : Nat) : Nat :=
  match off with
  | 0x00 => q.sq.base.toNat
  | 0x08 => q.sq.log2
  | 0x10 => q.sq.write.toNat
  | 0x18 => q.sq.read.toNat
  | 0x20 => q.freeIndex.toNat
  | 0x28 => bitVal q.idle 4 + bitVal q.sq.overrun 3 + bitVal q.sq.faulted 2 + bitVal stalled 1 + bitVal q.stallsFull 0
  | 0x30 => bitVal q.sq.enable 0
  | 0x38 => q.sq.quota
  | 0x40 => q.sq.detail * 256 + q.sq.cause
  | 0x48 => q.sq.fseq.toNat
  | 0x50 => q.sq.fidx.toNat
  | 0x58 => q.sq.space.toNat
  | 0x60 => q.sq.img.toNat
  | _ => 0
/-- The memory control block (R217). -/
def Partition.memReg (q : Partition) (off : Nat) : Nat :=
  match off with
  | 0x00 => q.mem.ptroot.toNat
  | 0x08 => q.mem.l2ways.toNat
  | 0x18 => bitVal q.mem.tlbLost 1 + bitVal q.mem.tlbWork.isSome 0
  | 0x20 => q.mem.chkbase.toNat
  | 0x28 => q.mem.chklink.toNat
  | 0x30 => q.mem.chksize.toNat
  | 0x38 => q.mem.avail
  | 0x40 => q.mem.chklow.toNat
  | 0x50 => bitVal q.mem.low 1 + bitVal (q.mem.avail == 0) 0
  | _ => 0
/-- The engine control block (R309); PENSTAT counts the pens held. -/
def Partition.engineReg (q : Partition) (pens off : Nat) : Nat :=
  if 0x40 ≤ off && off < 0xC0 && off % 8 = 0 then (nth 0 q.eng.bqdesc ((off - 0x40) / 8)).toNat
  else match off with
    | 0x00 => q.eng.ltbase.toNat
    | 0x08 => q.eng.btidx
    | 0x10 => q.buffer q.eng.btidx
    | 0x18 => q.eng.tlidx
    | 0x20 => (q.counter q.eng.tlidx).toNat
    | 0x28 => pens
    | _ => 0
/-- The scheduler control block (R360). -/
def Partition.schedReg (q : Partition) (off : Nat) : Nat :=
  if 0x20 ≤ off && off < 0x60 && off % 8 = 0 then (nth 0 q.sched.g ((off - 0x20) / 8)).toNat
  else match off with
    | 0x00 => q.sched.crksrc.toNat
    | 0x08 => bitVal q.sched.load 8 + q.sched.len
    | 0x10 => q.sched.erridx * 2 ^ 24 + q.sched.gen.toNat * 256 + bitVal q.sched.err 2 + bitVal q.sched.shadow.isSome 1 + bitVal q.sched.active.isSome 0
    | 0x18 => q.sched.overrun.toNat
    | 0x78 => bitVal q.sched.debug 0
    | 0x80 => q.sched.sdbase.toNat
    | 0x88 => q.sched.sdlog2
    | 0x90 => q.sched.sdwrite.toNat
    | 0x98 => q.sched.sdovf.toNat
    | 0xA0 => q.sched.grant
    | _ => 0
/-- Pens that a partition holds (R309). -/
def State.pens (s : State) (p : Nat) : Nat := (s.streams.filter fun t => t.penned && t.p == p).length
/-- A register of a VF's BAR0, as a read returns it (R376). -/
def State.vfReg (s : State) (p off : Nat) : Nat :=
  let q := s.part p
  match off / 0x1000 with
  | 0 => q.streamReg (off == 0x28 && s.stallsFree p) off
  | 1 => q.memReg (off - 0x1000)
  | 2 => q.engineReg (s.pens p) (off - 0x2000)
  | 3 => q.schedReg (off - 0x3000)
  | 4 => if off = 0x4008 then q.mbarg.toNat else if off = 0x4010 then q.mbstat.toNat else 0
  | 5 => if off = 0x5000 then q.expbase.toNat else 0
  | _ => 0
/-- A register of the PF's device block, as a read returns it (R377). -/
def State.pfReg (s : State) (off : Nat) : Nat :=
  let d := s.device
  if 0x60 ≤ off && off < 0x80 && off % 8 = 0 then (Config.idKey ((off - 0x60) / 8)).toNat
  else if 0x100 ≤ off && off < 0x128 && off % 8 = 0 then (nth 0 d.eccdie ((off - 0x100) / 8)).toNat
  else if 0x140 ≤ off && off < 0x180 && off % 8 = 0 then (nth 0 d.eccstk ((off - 0x140) / 8)).toNat
  else match off with
    | 0x000 => d.devcap
    | 0x008 => contractCap.toNat
    | 0x010 => bitVal d.joined 31 + d.rank
    | 0x018 => d.belladdr.toNat
    | 0x020 => bitVal d.frozen 0
    | 0x028 => d.pwrlim
    | 0x030 => bitVal d.throttle 16 + d.pwrnow
    | 0x038 => d.fwstat.toNat
    | 0x048 => d.mbarg.toNat
    | 0x050 => d.mbstat.toNat
    | _ => 0

/-! ## Writing registers without behaviour of their own (R8, R182, R217, R309, R360, R377) -/

/-- A write to the stream control block; the base registers take it only while the partition is idle (R184). -/
def Partition.writeStream (q : Partition) (off : Nat) (x : DWord) : Partition :=
  let n := x.toNat
  match off with
  | 0x00 => if q.idle then { q with sq := { q.sq with base := x &&& 0x00FFFFFFFFFFF000 } } else q
  | 0x08 => if q.idle then { q with sq := { q.sq with log2 := max 4 (min 20 (n % 32)) } } else q
  | 0x28 => if bitAt n 3 then { q with sq := { q.sq with overrun := false } } else q
  | 0x58 => if q.idle then { q with sq := { q.sq with space := x &&& 0xFFFFFFFFFFFFF000 } } else q
  | 0x60 => if q.idle then { q with sq := { q.sq with img := x &&& 0x00FFFFFFFFC00000 } } else q
  | _ => q
/-- A write to the memory control block in a cycle: the old root of PTROOT may stay in use until a TLBINV (R222). -/
def Partition.writeMem (q : Partition) (now off : Nat) (x : DWord) : Partition :=
  match off with
  | 0x00 =>
    let m := q.mem
    { q with mem := { m with ptroot := x &&& 0x000FFFFFFFFFF7FF, oldRoots := if m.ptroot.getLsbD 0 then m.oldRoots ++ [(m.ptroot.toNat, now)] else m.oldRoots } }
  | 0x18 => if x.getLsbD 1 then { q with mem := { q.mem with tlbLost := false } } else q
  | 0x20 => { q with mem := { q.mem with chkbase := x &&& 0x000FFFFFFFFFF000 } }
  | 0x28 => { q with mem := { q.mem with chklink := x &&& 0x000FFFFFFFFFF000 } }
  | 0x30 => { q with mem := { q.mem with chksize := x.setWidth 32 } }
  | 0x40 => { q with mem := { q.mem with chklow := x.setWidth 32 } }
  | 0x50 => if x.getLsbD 1 then { q with mem := { q.mem with low := false } } else q
  | _ => q
def Partition.writeEngine (q : Partition) (off : Nat) (x : DWord) : Partition :=
  match off with
  | 0x00 => { q with eng := { q.eng with ltbase := x &&& 0x00FFFFFFFFFFF000 } }
  | 0x08 => { q with eng := { q.eng with btidx := x.toNat % 4096 } }
  | 0x18 => { q with eng := { q.eng with tlidx := x.toNat % 1024 } }
  | _ => q
/-- A write to the scheduler control block; FAULTMASK takes a firmware core's write only (R360). -/
def Partition.writeSched (q : Partition) (off : Nat) (x : DWord) (firmware : Bool) : Partition :=
  let w : Word := x.setWidth 32
  if 0x20 ≤ off && off < 0x60 && off % 8 = 0 then
    { q with sched := { q.sched with g := modifyNth (fun _ => w) ((off - 0x20) / 8) q.sched.g } }
  else match off with
    | 0x00 => { q with sched := { q.sched with crksrc := x &&& 0x00FFFFFFFFFFFFC0 } }
    | 0x08 => { q with sched := { q.sched with len := x.toNat % 128 } }
    | 0x10 => if x.getLsbD 2 then { q with sched := { q.sched with err := false } } else q
    | 0x18 => { q with sched := { q.sched with overrun := q.sched.overrun &&& ~~~w } }
    | 0x60 => if firmware then { q with sched := { q.sched with faultmask := w } } else q
    | 0x78 => { q with sched := { q.sched with debug := x.getLsbD 0 } }
    | 0x80 => { q with sched := { q.sched with sdbase := x &&& 0x00FFFFFFFFFFFFE0 } }
    | 0x88 => { q with sched := { q.sched with sdlog2 := x.toNat % 32 } }
    | 0x98 => { q with sched := { q.sched with sdovf := q.sched.sdovf &&& ~~~w } }
    | _ => q
/-- A write to a mailbox's MBCMD (R377, R378), of function fn: ignored while BUSY; a code that is no command ends at once. -/
def mailboxStart (x busy : DWord) (stat : Word) : Option (DWord × Word × Bool) :=
  if stat.getLsbD 0 then none
  else if x.toNat % 256 = 0 || decide (7 < x.toNat % 256) then some (busy, 0x100, true) else some (x, 1, false)
def State.writeMb (s : State) (fn : Nat) (x : DWord) : State :=
  if fn = 0 then
    match mailboxStart x s.device.mbcmd s.device.mbstat with
    | some (c, st, bad) =>
      let s := s.modDevice fun d => { d with mbcmd := c, mbstat := st }
      if bad then s.msix 0 1 else s
    | none => s
  else
    match mailboxStart x (s.part (fn - 1)).mbcmd (s.part (fn - 1)).mbstat with
    | some (c, st, bad) =>
      let s := s.modPart (fn - 1) fun q => { q with mbcmd := c, mbstat := st }
      if bad then s.msix fn 1 else s
    | none => s
/-- A write to a register of a VF's BAR0. -/
def State.writeVf (s : State) (p off : Nat) (x : DWord) (firmware : Bool) : State :=
  if off = 0x4000 then s.writeMb (p + 1) x
  else s.modPart p fun q =>
    match off / 0x1000 with
    | 0 => q.writeStream off x
    | 1 => q.writeMem s.cycle (off - 0x1000) x
    | 2 => q.writeEngine (off - 0x2000) x
    | 3 => q.writeSched (off - 0x3000) x firmware
    | 4 => if off = 0x4008 then { q with mbarg := x } else q
    | _ => q
/-- The ways of the four masks of an L2WAYS value. -/
def allWays (x : DWord) : Nat := (List.range 4).foldl (fun a k => a ||| bitsOf x.toNat (16 * k + 15) (16 * k)) 0
/-- What the root firmware core sets of a partition: its window quota, at least 16 and 1,024 over all, and its L2 ways, of which no other
partition has any (R182, R217, R226, R348). -/
def State.writeRoot (s : State) (p off : Nat) (x : DWord) : State :=
  let others := s.partitions.zipIdx.foldl (fun a q => if q.2 = p then a else a + q.1.sq.quota) 0
  if off = 0x38 then
    if 16 ≤ x.toNat && x.toNat + others ≤ 1024 then s.modPart p fun q => { q with sq := { q.sq with quota := x.toNat } } else s
  else if off = 0x1008 then
    if s.partitions.zipIdx.all fun q => q.2 == p || (allWays x &&& allWays q.1.mem.l2ways) == 0 then s.modPart p fun q => { q with mem := { q.mem with l2ways := x } } else s
  else s
/-- The place that stands for Device Control 2 of the physical function's configuration space (R248, R374). -/
def devctl2 : Nat := 0x200000
/-- A write to the PF: its device block, the mirror of a VF, or Device Control 2. A partition's firmware core never writes the
device block (R377). -/
def State.writePf (s : State) (off : Nat) (x : DWord) (firmware : Bool) : State :=
  if off = devctl2 then s.modDevice fun d => { d with atomicEnable := x.getLsbD 6 }
  else if 0x10000 ≤ off then
    let p := off / 0x10000 - 1
    if firmware then s.writeRoot p (off % 0x10000) x else s.writeVf p (off % 0x10000) x false
  else match off with
    | 0x040 => if firmware then s else s.writeMb 0 x
    | 0x018 => s.modDevice fun d => { d with belladdr := x &&& 0xFFFFFFFFFFFFFF00 }
    | 0x028 => s.modDevice fun d => { d with pwrlim := max 1200 (min 2400 (x.toNat % 4096)) }
    | 0x048 => s.modDevice fun d => { d with mbarg := x }
    | _ => s

/-! ## Crook programs (R359) -/

/-- Whether operation k of a program of n breaks R355. -/
def opBad (n k : Nat) (w : Word) : Bool :=
  match decodeCrook w.toNat with
  | some (.crkBf _ off) => decide (n < k + off)
  | some (.crkBnf _ off) => decide (n < k + off)
  | some _ => false
  | none => true
/-- Copies operations into the shadow slot, in order; the first that cannot be read or breaks R355 fails. -/
def State.copyProgram (s : State) (p n : Nat) : Nat → Nat → Except Nat Program
  | 0, _ => .ok []
  | m + 1, k =>
    match s.readVa p none ((s.part p).sched.crksrc.toNat + 4 * k) 4 with
    | .ok (bs, _) =>
      let w : Word := BitVec.ofNat 32 (ofBytes bs)
      if opBad n k w then .error k
      else (match s.copyProgram p n m (k + 1) with | .ok ws => .ok (w :: ws) | .error e => .error e)
    | _ => .error k

/-! ## Fault commands (R302, R319, R322, R337, R338) -/

/-- The pending record of a fault identifier. -/
def State.pendingFault (s : State) (p : Nat) (fid : Word) : Option FaultRec :=
  (s.part p).faults.find? fun r => r.fid == fid && r.pending && decide (r.kind ≤ 5) && !(s.part p).waits fid
/-- A record is settled. -/
def State.settleFault (s : State) (p : Nat) (fid : Word) : State :=
  s.modPart p fun q => { q with faults := q.faults.map fun r => if r.fid = fid then { r with pending := false, decide := false } else r }
/-- The lanes of a stray that no command has answered yet: a folded flock's have their marks (R337, R338). -/
def Flock.openLanes (fl : Flock) (fid : Word) : List Nat :=
  ((fl.strayLanes fid).map fun q => q.2.2).filter fun l => !fl.marks.any fun k => k.fid == fid && (!k.cancel || k.mask.getLsbD l)

/-- Answers the stray of a record: at once, or by a mark on a folded flock. -/
def State.answer (s : State) (p f : Nat) (fid : Word) (cancel : Bool) (mask : Word) : State :=
  match s.flock? f with
  | some fl =>
    if cancel && !(fl.openLanes fid).any mask.getLsbD then s
    else
      let s := if cancel && (fl.openLanes fid).any fun l => !mask.getLsbD l then s else s.settleFault p fid
      (match fl.status with
        | .folded _ _ => (s.modFlock f fun fl => { fl with marks := fl.marks ++ [⟨fid, cancel, mask⟩] }).refold f
        | _ => (s.answerStray f fid cancel mask).settleFlock f)
  | none => s
/-- REPLAY or CANCEL of a pending fault: an engine context runs on, or ends with CANCELLED. -/
def State.command (s : State) (p : Nat) (fid : Word) (cancel : Bool) (mask : Word) : State :=
  match s.pendingFault p fid with
  | none => s
  | some r =>
    match r.context with
    | .stray f _ _ => s.answer p f fid cancel mask
    | .tileCopy f m =>
      (s.settleFault p fid).modCopy f m fun c =>
        if c.fault = some fid then { c with fault := none, error := if cancel && c.error = 0 then 0x04 else c.error, finished := cancel || c.finished } else c
    | .transform _ =>
      let s := s.settleFault p fid
      { s with streams := s.streams.map fun t =>
          if t.p = p && t.fault = some fid then
            { t with fault := none, penned := false, error := if cancel && t.error = 0 then 0x04 else t.error, finished := cancel || t.finished
                     noStatus := cancel && t.finished }
          else t }
    | .bulk q =>
      let s := (s.settleFault p fid).modQueue p q fun b => { b with fault := none }
      if cancel then s.bulkStop p q else s
    | .task seq =>
      let s := (s.settleFault p fid).modTask p seq fun t => { t with fault := none }
      if cancel then s.endTaskStream p seq 0x04 else s
    | _ => s

/-- Frees n slots of the ring; waiting records are written (R361). -/
def Partition.freeRing (q : Partition) (n : Nat) : Partition :=
  let room := 64 - (q.ring.length - n)
  let q' := { q with ring := q.ring.drop n, ringRead := q.ringRead + BitVec.ofNat 32 (min n q.ring.length), waitingRecs := q.waitingRecs.drop room }
  q'.writeRing (q.waitingRecs.take room)

/-- An invalidation starts; one written while BUSY is lost (R222). -/
def MemBlock.invalidate (m : MemBlock) (i : TlbInv) : MemBlock :=
  if m.tlbWork.isSome then { m with tlbLost := true } else { m with tlbWork := some i }
/-- A write of a page's address to TLBINV (R222); SIZE 7 is ignored. -/
def State.tlbinvPage (s : State) (p : Nat) (x : DWord) : State :=
  let size := 2 ^ pageBits (bitsOf x.toNat 10 8)
  if x.getLsbD 11 || bitsOf x.toNat 10 8 = 7 then s
  else s.modPart p fun q => { q with mem := q.mem.invalidate ⟨s.cycle, some (bitsOf x.toNat 55 12 * 4096 / size * size, size)⟩ }
/-- A write with ALL to TLBINV (R222). -/
def State.tlbinvAll (s : State) (p : Nat) : State :=
  s.modPart p fun q => { q with mem := q.mem.invalidate ⟨s.cycle, none⟩ }
/-- The invalidation in progress completes: BUSY clears, and no access uses a translation of its page that was cached before (R222). One of
ALL supersedes the earlier ones. -/
def MemBlock.invalidated (m : MemBlock) : MemBlock :=
  match m.tlbWork with
  | none => m
  | some i =>
    let m := { m with tlbWork := none, walked := m.walked.filter fun w => decide (i.since < w.since) || i.page.any fun q => q ≠ (w.start, w.size) }
    if i.page.isNone then { m with tlbDone := [i], oldRoots := m.oldRoots.filter fun r => i.since ≤ r.2 }
    else { m with tlbDone := m.tlbDone ++ [i] }
/-- Whether an invalidation covers a page start: its cached translations are gone, and their errors with them (R341). -/
def TlbInv.covers (i : TlbInv) (start : Nat) : Bool := match i.page with | none => true | some q => q.1 == start
/-- A write to CHKPUSH (R234): a chunk at or above CHKSIZE is ignored. -/
def State.chkpush (s : State) (p c : Nat) : State := if (s.part p).mem.chksize.toNat ≤ c then s else s.pushChunk p c
/-- A write to EXPBASE (R380): the cached entries are dropped. -/
def State.writeExpbase (s : State) (p : Nat) (x : DWord) : State :=
  s.modPart p fun q => { q with expbase := x &&& 0x00FFFFFFFFFFFC00, exports := none }
/-- A write of 1 to CRKCTL.LOAD (R359): the image is copied and checked; a program that waited in the shadow slot never runs. -/
def State.loadProgram (s : State) (p : Nat) (x : DWord) : State :=
  let n := x.toNat % 128 + 1
  let s := s.modPart p fun q => { q with sched := { q.sched with len := n - 1 } }
  let r := s.copyProgram p n n 0
  let s := s.served p (s.part p).sched.crksrc.toNat (4 * match r with | .ok _ => n | .error k => k + 1)
  match r with
  | .ok ws => s.modPart p fun q => { q with sched := { q.sched with shadow := some ws } }
  | .error k => s.modPart p fun q => { q with sched := { q.sched with shadow := none, err := true, erridx := k } }
/-- A write to HALTRES (R361): the flock halted under a fault identifier may be placed again, and its record is answered. -/
def State.haltres (s : State) (p : Nat) (fid : Word) : State :=
  let halted (fl : Flock) : Bool :=
    fl.p == p && match fl.status with | .folded _ (some h) => h.2 == fid | .folding (some h) => h.2 == fid | _ => false
  if (s.part p).waits fid || !s.flocks.any halted then s
  else
    ({ s with flocks := s.flocks.map fun fl =>
        if !halted fl then fl
        else match fl.status with
          | .folded b _ => { fl with status := .folded b none }
          | .folding _ => { fl with status := .folding none }
          | _ => fl } : State).settleFault p fid
/-- A write to any register of a VF's BAR0 by the host driver, with its effect (R376). -/
def State.driverVf (s : State) (p off : Nat) (x : DWord) : State :=
  match off with
  | 0x0010 => s.modPart p fun q => q.writeIndex (x.setWidth 32)
  | 0x0030 =>
    s.modPart p fun q =>
      let q := q.setEnable (x.getLsbD 0)
      if bitsOf x.toNat 2 1 = 1 then q.resume false else if bitsOf x.toNat 2 1 = 2 then q.resume true else q
  | 0x1010 => if x.getLsbD 11 then s.tlbinvAll p else s.tlbinvPage p x
  | 0x1048 => s.chkpush p (x.toNat % 2 ^ 32)
  | 0x2010 => s.setBuffer p (s.part p).eng.btidx (x.toNat % 4)
  | 0x3008 => if x.getLsbD 8 then s.loadProgram p x else s.writeVf p off x false
  | 0x5000 => s.writeExpbase p x
  | _ =>
    if 0x2040 ≤ off && off < 0x20C0 && off % 8 = 0 then
      let q := (off - 0x2040) / 8
      if x.getLsbD 0 then s.enableQueue p q x else s.disableQueue p q x
    else s.writeVf p off x false

/-- REGISTER_WRITE (R8): register at offset m of function k (0 the PF, p + 1 VF p), value x, by a firmware core if `on`. -/
def execRegisterWrite (s : State) : Outcome :=
  event s fun e s => if e.k = 0 then s.writePf e.m e.x e.on else s.writeVf (e.k - 1) e.m e.x e.on

/-- TLBINV_PAGE (R222): the value written is x; a second write while BUSY is lost, and SIZE 7 is ignored. -/
def execTlbinvPage (s : State) : Outcome :=
  event s fun e s => s.tlbinvPage e.p e.x

/-- TLBINV_ALL (R222). -/
def execTlbinvAll (s : State) : Outcome :=
  event s fun e s => s.tlbinvAll e.p

/-- TLBINV_COMPLETE (R222). -/
def execTlbinvComplete (s : State) : Outcome :=
  event s fun e s =>
    let gone (b : BadWord) : Bool := match b, (s.part e.p).mem.tlbWork with | .tlb p start, some i => p == e.p && i.covers start | _, _ => false
    ({ s with bad := s.bad.filter fun b => !gone b } : State).modPart e.p fun q => { q with mem := q.mem.invalidated }

/-- CHKPUSH (R234): chunk x; one at or above CHKSIZE is ignored. -/
def execChkpush (s : State) : Outcome :=
  event s fun e s => s.chkpush e.p (e.x.toNat % 2 ^ 32)

/-- BTVAL_WRITE (R313). -/
def execBtvalWrite (s : State) : Outcome :=
  event s fun e s => s.setBuffer e.p (s.part e.p).eng.btidx (e.x.toNat % 4)

/-- EXPBASE_WRITE (R380): the cached entries are dropped. -/
def execExpbaseWrite (s : State) : Outcome :=
  event s fun e s => s.writeExpbase e.p e.x

/-- CRKCTL_LOAD (R359): the value written is x, with LOAD = 1. -/
def execCrkctlLoad (s : State) : Outcome :=
  event s fun e s => s.loadProgram e.p e.x

/-- CRK_PROGRAM_ACTIVATE (R359, R383): between two decisions; the program is measured. -/
def execCrkProgramActivate (s : State) : Outcome :=
  event s fun e s =>
    s.modPart e.p fun q =>
      match q.sched.shadow, q.sched.run with
      | some ws, none =>
        { q with
          sched := { q.sched with active := some ws, shadow := none, gen := q.sched.gen + 1 }
          measure := Config.sha512 (q.measure ++ Config.sha512 (wordsToBytes ws)) }
      | _, _ => q

/-- FAULTCMD_REPLAY (R337): the fault identifier is x. -/
def execFaultcmdReplay (s : State) : Outcome :=
  event s fun e s => s.command e.p (e.x.setWidth 32) false 0

/-- FAULTCMD_CANCEL (R337, R360): the fault identifier is x; a CANCEL of KIND 1 takes FAULTMASK. -/
def execFaultcmdCancel (s : State) : Outcome :=
  event s fun e s => s.command e.p (e.x.setWidth 32) true (s.part e.p).sched.faultmask

/-- HALTRES (R361): the flock halted under fault identifier x may be placed again. -/
def execHaltres (s : State) : Outcome :=
  event s fun e s => s.haltres e.p (e.x.setWidth 32)

/-- FAULT_RING_FREE (R361): k slots. -/
def execFaultRingFree (s : State) : Outcome :=
  event s fun e s => s.modPart e.p fun q => q.freeRing e.k

end Sys2Proof.Machine
end

