-- ==== Sys2Proof/Machine/Sched.lean ====
section
/-! DEFINITION. Decisions, crook programs, grants and pre-emption (16_scheduler_and_firmware.md R351-R358; 15 R344). -/
namespace Sys2Proof.Machine
open Sys2Proof

/-! ## Candidates and fields (R352, R356) -/

/-- The static priority and epoch tag of a task; 0 without one. -/
def State.epochOf (s : State) (p seq : Nat) : Word := match s.task? p seq with | some t => t.epoch | none => 0
def staticPriority (epoch : Word) : Nat := epoch.toNat % 16
/-- AGE from a cycle on. -/
def State.ageFrom (s : State) (c : Nat) : Nat := min (s.cycle - c) 0x7FFFFFFF
/-- Time limit left in units of 1,024 cycles. -/
def limitLeft (t : Option Task) : Nat :=
  match t.bind fun t => t.launch.map fun l => (t, l) with
  | some (t, l) => if l.limit = 0 then 0xFFFFFFFF else (l.limit * 1024 - t.ticked) / 1024
  | none => 0xFFFFFFFF
/-- The resident flocks of a partition, oldest task first, then ascending WGID of member 0. -/
def State.residents (s : State) (p : Nat) : List Nat :=
  let fs := s.flocks.zipIdx.filter fun fl => fl.1.p == p && fl.1.status == .resident
  let key (fl : Flock) : Nat × Nat := (fl.seq, match fl.wgs with | wg :: _ => wg.wgid | [] => 0)
  (fs.mergeSort fun a b => decide ((key a.1).1 < (key b.1).1) || ((key a.1).1 == (key b.1).1 && decide ((key a.1).2 ≤ (key b.1).2))).map Prod.snd
/-- The ready tasks, oldest first, at most 64. -/
def State.readyTasks (s : State) (p : Nat) : List Nat := (((s.part p).window.filter (s.ready p)).map Task.seq).take 64
/-- Records that wait for a FAULT decision and have been written to the ring (R352, R361). -/
def Partition.toDecide (q : Partition) : List FaultRec :=
  q.faults.filter fun r => r.decide && r.pending && !(q.waitingRecs.any fun w => w.fid == r.fid)

def words (l : List Nat) : List Word := l.map (BitVec.ofNat 32)
def State.dispatchFields (s : State) (p seq : Nat) : List Word :=
  match s.task? p seq with
  | some t =>
    words [t.op, staticPriority t.epoch, t.epoch.toNat, s.ageFrom (t.readyAt.getD s.cycle), seq,
      match t.launch with | some l => l.m * l.s | none => 0, s.unplaced p t, 0, limitLeft (some t)]
  | none => []
def State.preemptFields (s : State) (p f : Nat) : List Word :=
  match s.flock? f with
  | some fl =>
    let t := s.task? p fl.seq
    let e := s.epochOf p fl.seq
    words [match t with | some t => t.op | none => 0, staticPriority e, e.toNat, s.ageFrom fl.placedAt, fl.seq, fl.cores.length,
      (s.flocks.filter fun g => g.p == p && g.seq == fl.seq && g.status == .resident).length, fl.preempted, limitLeft t]
  | none => []
def FaultContext.flock? : FaultContext → Option Nat
  | .stray f _ _ | .tileCopy f _ | .halt f | .abort f => some f
  | _ => none
def State.faultFields (s : State) (p : Nat) (r : FaultRec) : List Word :=
  let fl := r.context.flock?.bind s.flock?
  let e := s.epochOf p r.seq
  let cores := match fl with | some fl => fl.cores.length | none => 0
  let strays := match fl with
    | some fl => fl.wgs.foldl (fun a wg => wg.units.foldl (fun b u => b + (match wg.unit? u with | some w => w.strays.length | none => 0)) a) 0
    | none => 0
  words [r.kind, staticPriority e, e.toNat, s.ageFrom r.at_, r.seq, cores, strays, 0, limitLeft (s.task? p r.seq), r.va.toNat, r.va.toNat / 2 ^ 32, r.detail]
/-- The global fields but for the candidate's index (R356). -/
def State.globalFields (s : State) (p kind n : Nat) : List Word :=
  let q := s.part p
  q.sched.g ++ words [kind, q.sched.grant - s.coresHeld p, q.sched.grant, q.sq.quota - q.window.length, n, 0, q.mem.avail, s.cycle]

/-! ## Outcomes (R352, R357, R358) -/

/-- The first candidate with the highest score of at least a bound. -/
def bestScore (least : Int) : List (Nat × Int) → Option (Nat × Int)
  | [] => none
  | c :: rest =>
    match bestScore least rest with
    | some b => if least ≤ c.2 && b.2 ≤ c.2 then some c else some b
    | none => if least ≤ c.2 then some c else none
/-- The winner of a DISPATCH issues; with a flock that fits nowhere and a score of at least G7 it asks for a PREEMPT. -/
def State.actDispatch (s : State) (p seq : Nat) (score : Int) : State :=
  let s := s.issueTask p seq
  match s.task? p seq with
  | some t =>
    if t.status = .issued && decide (0 < s.unplaced p t) && decide ((nth 0 (s.part p).sched.g 7).toInt ≤ score) then
      s.modPart p fun q => { q with sched := { q.sched with preempts := q.sched.preempts ++ [s.cycle] } }
    else s
  | none => s
/-- A flock stops to be pre-empted (R344). -/
def State.preempt (s : State) (f : Nat) : State :=
  s.modFlock f fun fl => if fl.status = .resident then { fl with status := .folding none } else fl
/-- A PREEMPT decision is over: one that a DISPATCH asked for is no longer pending, and one that the grant forces follows again while it must. -/
def State.endPreempt (s : State) (p : Nat) (asked : Bool) : State :=
  if asked then s.modPart p fun q => { q with sched := { q.sched with preempts := q.sched.preempts.drop 1 } } else s
/-- A verdict: 0 PARK, 1 EVICT, 2 RETRY, 3 KILL. -/
def State.actFault (s : State) (p : Nat) (fid : Word) (verdict : Nat) : State :=
  let s := s.modPart p fun q => { q with faults := q.faults.map fun r => if r.fid = fid then { r with decide := false } else r }
  match (s.part p).faults.find? fun r => r.fid == fid with
  | some r =>
    (match verdict with
      | 1 => (match r.context with | .stray f _ _ => s.preempt f | _ => s)
      | 2 => s.command p fid false 0
      | 3 => s.command p fid true (BitVec.allOnes 32)
      | _ => s)
  | none => s

/-- The fallback's choice of a ready task: the highest static priority, then the oldest (R358). -/
def State.fallbackDispatch (s : State) (p : Nat) (cands : List Nat) : State :=
  match bestScore 0 (cands.map fun seq => (seq, (staticPriority (s.epochOf p seq) : Int))) with
  | some (seq, score) => s.actDispatch p seq score
  | none => s
/-- The fallback's choice of a flock: the lowest static priority, then the youngest. -/
def State.fallbackPreempt (s : State) (p : Nat) (asked : Bool) (cands : List Nat) : State :=
  match bestScore (-16) (cands.reverse.map fun f =>
      (f, match s.flock? f with | some fl => -(staticPriority (s.epochOf p fl.seq) : Int) | none => -16)) with
  | some (f, _) => (s.preempt f).endPreempt p asked
  | none => s.endPreempt p asked
/-- A decision by the fallback. -/
def State.fallback (s : State) (p kind : Nat) (asked : Bool) (cands : List Nat) : State :=
  if kind = 0 then s.fallbackDispatch p cands
  else if kind = 1 then s.fallbackPreempt p asked cands
  else match cands with | fid :: _ => s.actFault p (BitVec.ofNat 32 fid) 0 | [] => s
/-- A decision by the scores or the verdict of a run. -/
def State.actRun (s : State) (p : Nat) (r : CrookRun) : State :=
  let scored := r.cands.zip r.scores
  if r.kind = 0 then (match bestScore 0 scored with | some (seq, sc) => s.actDispatch p seq sc | none => s)
  else if r.kind = 1 then (match bestScore 1 scored with | some (f, _) => (s.preempt f).endPreempt p r.asked | none => s.endPreempt p r.asked)
  else match r.cands with | fid :: _ => s.actFault p (BitVec.ofNat 32 fid) r.verdict | [] => s

def State.setRun (s : State) (p : Nat) (r : Option CrookRun) : State :=
  s.modPart p fun q => { q with sched := { q.sched with run := r } }
/-- Starts a decision between two others: by the active program, or by the fallback at once (R352, R357-R359). -/
def State.startDecision (s : State) (p kind : Nat) (asked : Bool) (cands : List Nat) (fields : Nat → List Word) : State :=
  let q := s.part p
  if cands.isEmpty || q.sched.run.isSome || q.sched.shadow.isSome then s
  else match q.sched.active with
    | none => s.fallback p kind asked cands
    | some _ => s.setRun p (some {
        kind := kind, asked := asked, cands := cands, fields := cands.map fields, globals := s.globalFields p kind cands.length, cand := 0, op := 0
        k := Vector.replicate 16 0, scores := cands.map fun _ => 0, verdict := 0, cycles := 10, overBudget := false })

/-! ## The interpreter (R355-R358) -/

/-- The run goes to a candidate's next operation, to its next candidate, or acts. -/
def State.goOn (s : State) (p : Nat) (r : CrookRun) (op : Nat) : State :=
  match (s.part p).sched.active with
  | some prog =>
    if op < prog.length then s.setRun p (some { r with op := op })
    else if r.cand + 1 < r.cands.length then
      (if 2048 < r.cycles + 2 then s.setRun p (some { r with overBudget := true })
       else s.setRun p (some { r with cand := r.cand + 1, op := 0, cycles := r.cycles + 2 }))
    else (s.setRun p none).actRun p r
  | none => s.setRun p none
/-- One operation of the run of the partition that State.subject names: its cost, what it makes of the run, and the index
after it. It executes nothing beyond the budget (R358). -/
def crookOp (s : State) (cost : Nat) (g : CrookRun → CrookRun) (jump : CrookRun → Nat → Nat := fun r _ => r.op + 1) : Outcome :=
  let p := s.subject.p
  .next (match (s.part p).sched.run, (s.part p).sched.active with
    | some r, some prog =>
      if r.overBudget then s
      else if 2048 < r.cycles + cost then s.setRun p (some { r with overBudget := true })
      else s.goOn p (g { r with cycles := r.cycles + cost }) (jump r prog.length)
    | _, _ => s)
/-- An operation that writes kd from ka and kb. -/
def crookAlu (s : State) (cost : Nat) (d : Fin 16) (f : CrookRun → Word) : Outcome :=
  crookOp s cost fun r => { r with k := r.k.set d (f r) }
/-- Candidate field f, and global field g of the candidate. -/
def CrookRun.field (r : CrookRun) (f : Nat) : Word := nth 0 (nth [] r.fields r.cand) f
def CrookRun.global (r : CrookRun) (g : Nat) : Word := if g = 13 then BitVec.ofNat 32 r.cand else nth 0 r.globals g

/-- The cores of the clusters on which a partition's resident flocks hold cores: a grant counts whole clusters (R351). -/
def State.coresTaken (s : State) (p : Nat) : Nat :=
  8 * (((s.residents p).flatMap fun f => match s.flock? f with | some fl => fl.cores | none => []).map (· / 8)).eraseDups.length
/-- Whether a partition's resident flocks hold more than its grant (R351). -/
def State.overGrant (s : State) (p : Nat) : Bool := decide ((s.part p).sched.grant < s.coresTaken p)
/-- Whether a partition owes a PREEMPT decision (R351, R352). -/
def State.owesPreempt (s : State) (p : Nat) : Bool := !(s.part p).sched.preempts.isEmpty || s.overGrant p
/-- Whether the next PREEMPT decision is one that a DISPATCH asked for: those of the grant arise at the slice boundary (R352). -/
def State.nextAsked (s : State) (p : Nat) : Bool :=
  match (s.part p).sched.preempts with
  | c :: _ => !s.overGrant p || decide (c < (s.part p).sched.grantAt)
  | [] => false
/-- Pre-empts the youngest flocks until the grant holds (R351). -/
def State.forceGrant (s : State) (p : Nat) : Nat → State
  | 0 => s
  | n + 1 =>
    if s.overGrant p then
      (match (s.residents p).getLast? with
        | some f => (s.preempt f).forceGrant p n
        | none => s)
    else s
/-- Grants of a slice: whole clusters, no more than there are. -/
def Device.grantsLegal (d : Device) (gs : List Nat) : Bool := gs.length == 16 && gs.all (fun g => g % 8 == 0) && decide (gs.sum ≤ 8 * d.clusters)

/-- CRK_LDF (R356). -/
def execCrkLdf (d f : Fin 16) (s : State) : Outcome :=
  crookAlu s 1 d fun r => r.field f.val

/-- CRK_LDG (R356). -/
def execCrkLdg (d g : Fin 16) (s : State) : Outcome :=
  crookAlu s 1 d fun r => r.global g.val

/-- CRK_LDI (R355). -/
def execCrkLdi (d : Fin 16) (imm : Int) (s : State) : Outcome :=
  crookAlu s 1 d fun _ => BitVec.ofInt 32 imm

/-- CRK_ADD (R355). -/
def execCrkAdd (d a b : Fin 16) (s : State) : Outcome :=
  crookAlu s 1 d fun r => r.k[a] + r.k[b]

/-- CRK_SUB (R355). -/
def execCrkSub (d a b : Fin 16) (s : State) : Outcome :=
  crookAlu s 1 d fun r => r.k[a] - r.k[b]

/-- CRK_MUL (R355, R358). -/
def execCrkMul (d a b : Fin 16) (s : State) : Outcome :=
  crookAlu s 4 d fun r => r.k[a] * r.k[b]

/-- CRK_MIN (R355): the smaller, as signed. -/
def execCrkMin (d a b : Fin 16) (s : State) : Outcome :=
  crookAlu s 1 d fun r => if r.k[b].toInt < r.k[a].toInt then r.k[b] else r.k[a]

/-- CRK_MAX (R355). -/
def execCrkMax (d a b : Fin 16) (s : State) : Outcome :=
  crookAlu s 1 d fun r => if r.k[a].toInt < r.k[b].toInt then r.k[b] else r.k[a]

/-- CRK_AND (R355). -/
def execCrkAnd (d a b : Fin 16) (s : State) : Outcome :=
  crookAlu s 1 d fun r => r.k[a] &&& r.k[b]

/-- CRK_OR (R355). -/
def execCrkOr (d a b : Fin 16) (s : State) : Outcome :=
  crookAlu s 1 d fun r => r.k[a] ||| r.k[b]

/-- CRK_SHL (R355). -/
def execCrkShl (d a b : Fin 16) (s : State) : Outcome :=
  crookAlu s 1 d fun r => r.k[a] <<< (r.k[b].toNat % 32)

/-- CRK_SHR (R355). -/
def execCrkShr (d a b : Fin 16) (s : State) : Outcome :=
  crookAlu s 1 d fun r => r.k[a] >>> (r.k[b].toNat % 32)

/-- CRK_CLT (R355). -/
def execCrkClt (d a b : Fin 16) (s : State) : Outcome :=
  crookAlu s 1 d fun r => Word.ofBool (decide (r.k[a].toInt < r.k[b].toInt))

/-- CRK_CEQ (R355). -/
def execCrkCeq (d a b : Fin 16) (s : State) : Outcome :=
  crookAlu s 1 d fun r => Word.ofBool (r.k[a] == r.k[b])

/-- CRK_BF (R355): forward by the offset if ka is 0. -/
def execCrkBf (a : Fin 16) (off : Nat) (s : State) : Outcome :=
  crookOp s 1 id fun r _ => if r.k[a] = 0 then r.op + off else r.op + 1

/-- CRK_BNF (R355). -/
def execCrkBnf (a : Fin 16) (off : Nat) (s : State) : Outcome :=
  crookOp s 1 id fun r _ => if r.k[a] = 0 then r.op + 1 else r.op + off

/-- CRK_SCORE (R357): without effect in a FAULT decision. -/
def execCrkScore (a : Fin 16) (s : State) : Outcome :=
  crookOp s 1 fun r => if r.kind = 2 then r else { r with scores := modifyNth (fun _ => r.k[a].toInt) r.cand r.scores }

/-- CRK_VERDICT (R357): effective in a FAULT decision only. -/
def execCrkVerdict (v : Fin 4) (s : State) : Outcome :=
  crookOp s 1 fun r => if r.kind = 2 then { r with verdict := v.val } else r

/-- CRK_HALT (R355). -/
def execCrkHalt (s : State) : Outcome :=
  crookOp s 1 id fun _ n => n

/-- DISPATCH (R352): taken when no FAULT and no PREEMPT decision is pending; an engine can always accept work (R319). -/
def execDispatch (s : State) : Outcome :=
  event s fun e s =>
    if !(s.part e.p).toDecide.isEmpty || s.owesPreempt e.p then s
    else s.startDecision e.p 0 false (s.readyTasks e.p) (s.dispatchFields e.p)

/-- PREEMPT (R351, R352): taken when no FAULT decision is pending. -/
def execPreempt (s : State) : Outcome :=
  event s fun e s =>
    if !(s.part e.p).toDecide.isEmpty || !s.owesPreempt e.p then s
    else if (s.residents e.p).isEmpty then s.endPreempt e.p (s.nextAsked e.p)
    else s.startDecision e.p 1 (s.nextAsked e.p) (s.residents e.p) (s.preemptFields e.p)

/-- FAULT_DECISION (R352, R357): the oldest record that waits for one. -/
def execFaultDecision (s : State) : Outcome :=
  event s fun e s =>
    match (s.part e.p).toDecide with
    | r :: _ => s.startDecision e.p 2 false [r.fid.toNat] fun _ => s.faultFields e.p r
    | [] => s

/-- CRK_BUDGET_OVERRUN (R358): the fallback decides, and CRKOVR counts it. -/
def execCrkBudgetOverrun (s : State) : Outcome :=
  event s fun e s =>
    match (s.part e.p).sched.run with
    | some r =>
      if r.overBudget then
        ((s.setRun e.p none).modPart e.p fun q => { q with sched := { q.sched with overrun := q.sched.overrun + 1 } }).fallback e.p r.kind r.asked r.cands
      else s
    | none => s

/-- A partition's new grant at a slice boundary, and since when it has to be met: a partition that is over its grant before and after has no new
time (R351, log 34). -/
def State.newGrant (s : State) (p g : Nat) (q : Partition) : Partition :=
  { q with sched := { q.sched with grant := g, grantAt := if s.overGrant p && decide (g < s.coresTaken p) then q.sched.grantAt else s.cycle } }
/-- SLICE_BOUNDARY (R351): the grants of the partitions, 2 bytes each, by the root firmware core if it runs. -/
def execSliceBoundary (s : State) : Outcome :=
  event s fun e s =>
    let gs := (List.range 16).map fun p => field e.bytes (2 * p) 2
    if s.coreOn 0 && s.device.grantsLegal gs then
      { s with
        partitions := s.partitions.zipIdx.map fun q => s.newGrant q.2 (nth 0 gs q.2) q.1
        device := { s.device with sliceNo := s.device.sliceNo + 1 } }
    else s

/-- GRANT_DEADLINE (R351): 65,536 cycles after the boundary, by the root firmware core if it runs. -/
def execGrantDeadline (s : State) : Outcome :=
  event s fun e s =>
    if s.coreOn 0 && decide ((s.part e.p).sched.grantAt + 65536 ≤ s.cycle) then s.forceGrant e.p (s.residents e.p).length else s

/-- FOLD_AREA_WRITE (R344, R345): flock k, at the address x that the firmware core supplies. -/
def execFoldAreaWrite (s : State) : Outcome :=
  event s fun e s => s.fold e.k e.x.toNat

end Sys2Proof.Machine
end

