-- ==== Sys2Proof/Machine/DeviceEvents.lean ====
section
/-! DEFINITION. The events of the device: resets, firmware, mailboxes, host, peers, the management interface and errors
(15 R341, R342; 16 R349, R350, R364-R369; 18 R371-R385). -/
namespace Sys2Proof.Machine
open Sys2Proof

/-! ## Resets (R349, R366) -/

/-- A partition after its reset: its registers at their Reset values; its configuration record, key slots, measurement and
bell word stay, as HBM does. -/
def Partition.reset (q : Partition) : Partition :=
  { config := q.config, pendingConfig := q.pendingConfig, keys := q.keys, measure := q.measure, bell := q.bell }
/-- Resets a partition: its flocks abort, its engines lose what they held, the writes that they have made enter the single order, and no copy of
its cores stays under a lease (R264, R267). -/
def State.resetPartition (s : State) (p : Nat) : State :=
  let cores := s.flocks.flatMap fun fl => if fl.p = p && fl.onCores then fl.wgs.map fun wg => wg.core else []
  let s := (List.range s.flocks.length).foldl (fun s f =>
    match s.flock? f with
    | some fl => if fl.p = p && fl.status ≠ .retired && fl.status ≠ .aborted then s.clearFlock f .aborted else s
    | none => s) s
  let s := s.enter fun w => w.p == p && w.cls == classEngine
  { s with
    streams := s.streams.filter fun t => t.p ≠ p, reclaims := s.reclaims.filter fun r => r.p ≠ p
    copies := s.copies.filter fun c => !cores.contains c.core
    bad := s.bad.filter fun b => match b with | .tlb q _ => q ≠ p | _ => true }.modPart p Partition.reset
/-- The device after a whole-device reset (R366): what stands outside it stays, and so do the model's own counters. -/
def State.resetDevice (s : State) : State :=
  { State.reset with
    hostMem := s.hostMem, peerMem := s.peerMem, peerSpace := s.peerSpace
    device := { State.reset.device with
      gradeB := s.device.gradeB, clusterMap := s.device.clusterMap, stackMap := s.device.stackMap, keySerial := s.device.keySerial
      msix := s.device.msix, requests := s.device.requests, peerGrants := s.device.peerGrants }
    agenda := s.agenda, turn := s.turn, cores := s.cores, order := s.order, fresh := s.fresh, subject := s.subject }
/-- Zeroes a range of HBM under every key. -/
def State.clearHbm (s : State) (base len : Nat) : State :=
  let out (a : Nat) : Bool := decide (a < base) || decide (base + len ≤ a)
  { s with
    hbm := s.hbm.filter fun c => out c.1
    lineKeys := s.lineKeys.filter fun l => out (128 * l.1)
    late := s.late.filter fun w => out (w.block.getD w.start)
    l2 := s.l2.filter fun e => out (128 * e.line)
    copies := s.copies.filter fun c => out (c.block.getD c.start)
    oldEntries := s.oldEntries.filter fun o => out o.at_
    bad := s.bad.filter fun b => match b with | .hbm w => out (32 * w) | .l2 w => out (8 * w) | _ => true }
/-- A partition starts, by its firmware core (R349, R350, R383): the record set last takes effect, its grant is cleared, its free lists are
built, its measurement is zeroed, and a held ENABLE takes effect. -/
def State.startPartition (s : State) (p : Nat) : State :=
  let q := s.part p
  if q.started || !s.coreOn (p + 1) then s
  else
    let config := q.pendingConfig.or q.config
    let lists := match config with | some c => c.handles.1 | none => [[], [], [], [], []]
    let s := match config with | some c => s.clearHbm c.gbase c.glen | none => s
    s.modPart p fun q =>
      { q with
        config := config, pendingConfig := none, free := lists, totals := lists.map List.length, started := true
        measure := List.replicate 64 0, sq := { q.sq with enable := q.sq.enable || q.enableHeld }, enableHeld := false }

/-! ## Firmware (R364-R366, R382, R383) -/

/-- The body of a firmware image: as many bytes as its header says, from byte 256 on (R382). -/
def imageBody (image : List Byte) : List Byte := (image.drop 256).take (field image 12 4)
/-- Whether a core starts an image (R382): kind 0 the root core's, 1 a partition core's. -/
def imageStarts (kind : Nat) (image : List Byte) : Bool :=
  let body := imageBody image
  let n := field image 12 4
  decide (256 ≤ image.length) && field image 0 4 == 0x59474657 && field image 4 4 == kind && decide (Config.minVersion ≤ field image 8 4) &&
  decide (n ≤ 196608) && body.length == n &&
  Config.sha512 body == (image.drop 64).take 64 && Config.releaseVerifies (image.take 192) ((image.drop 192).take 64)
/-- The root core's start gives slot 1,023 a key, if it has none (R381; log 91). -/
def Device.keyFirmware (v : Device) : Device :=
  if assocGet 0 v.slots 1023 ≠ 0 then v else { v with slots := assocSet 0 1023 v.keySerial v.slots, keySerial := v.keySerial + 1 }
/-- The bytes of an image: its header and its body, at most 196,864, which a private memory holds from its first byte on (R364, R382). -/
def imageBytes (image : List Byte) : List Byte := image.take (256 + field image 12 4)
/-- The image that a private memory of 256 KiB holds (R364, R366, R382). -/
def heldImage (m : List Host.Cell) : List Byte := cellsRead m 0 (min 262144 (256 + ofBytes (cellsRead m 12 4)))
/-- Core k, 0 the root, loads an image into its private memory: it starts and is measured, or fails its check (R364, R382, R383). -/
def State.startImage (s : State) (k : Nat) (image : List Byte) : State :=
  if imageStarts (if k = 0 then 0 else 1) image then
    let d := Config.sha512 (imageBody image)
    s.modDevice fun v =>
      let v := { v with coresOn := modifyNth (fun _ => true) k v.coresOn, coreMem := modifyNth (fun _ => cellsWrite [] 0 (imageBytes image)) k v.coreMem }
      if k = 0 then { v with dm0 := Config.sha512 (v.dm0 ++ d) }.keyFirmware else { v with dm1 := Config.sha512 (v.dm1 ++ d) }
  else
    (s.modDevice fun v =>
      { v with fwstat := v.fwstat ||| BitVec.ofNat 32 (2 ^ k), coresOn := modifyNth (fun _ => false) k v.coresOn }).msix 0 2
/-- A firmware core restarts from the image that it ran (R366, R383): its private memory is lost with the ring of fault records in it; what is still
pending is reported again from the hardware, and the records that wait there are not lost (R361). The root core's slices start again; grants stand until it gives new ones (log 91). -/
def State.restartCore (s : State) (k : Nat) : State :=
  let t := s.startImage k (heldImage (nth [] s.device.coreMem k))
  if k = 0 then t.modDevice fun d => { d with sliceNo := 0 }
  else t.modPart (k - 1) fun q =>
    let open_ := q.faults.filter fun r => r.pending || q.waits r.fid
    { q with ring := [], waitingRecs := open_.drop 64, ringRead := q.ringWrite }.writeRing (open_.take 64)

/-! ## Mailboxes (R367, R378, R381, R384) -/

/-- What a function's mailbox holds: the command while it is busy, and MBARG. -/
def State.mailbox (s : State) (fn : Nat) : Option (Nat × Nat) :=
  let (c, a, st) := if fn = 0 then (s.device.mbcmd, s.device.mbarg, s.device.mbstat)
    else ((s.part (fn - 1)).mbcmd, (s.part (fn - 1)).mbarg, (s.part (fn - 1)).mbstat)
  if st.getLsbD 0 then some (c.toNat, a.toNat) else none
/-- A command completes with a RESULT, and raises vector 1. -/
def State.mailboxDone (s : State) (fn result : Nat) : State :=
  let st : Word := BitVec.ofNat 32 (256 * result)
  (if fn = 0 then s.modDevice fun d => { d with mbstat := st } else s.modPart (fn - 1) fun q => { q with mbstat := st }).msix fn 1
/-- A command of a code in a function's mailbox, which the core of that function answers: VFs accept RESUME and ATTEST only. -/
def mailboxEvent (s : State) (code : Nat) (g : Nat → Nat → Nat → State → Nat × State) (able : Nat → Nat → State → Bool := fun _ _ _ => true) :
    Outcome :=
  event s fun e s =>
    match s.mailbox e.k with
    | some (c, a) =>
      if c % 256 ≠ code || !s.coreOn e.k || !able e.k (c / 256) s then s
      else if e.k ≠ 0 && code ≠ 0x02 && code ≠ 0x06 then s.mailboxDone e.k 2
      else
        let r := g e.k (c / 256) a s
        r.2.mailboxDone e.k r.1
    | none => s
/-- The firmware complex writes to the host, and reads from it, as the PF (R374). -/
def State.hostWrite (s : State) (a : Nat) (bs : List Byte) : State := (s.request 0 a bs.length .write).hostPut a bs
def State.hostFetch (s : State) (a n : Nat) : State := s.request 0 a n .read

/-- A partition's part of the RESYNC summary: the values of R367, in its order, 8 bytes each. -/
def State.summaryPart (s : State) (p : Nat) : List Byte :=
  let q := s.part p
  let bell := q.bell.toNat
  padTo 224 ([bell, q.sq.read.toNat, q.sq.write.toNat, q.streamReg (s.stallsFree p) 0x28, q.streamReg false 0x40, q.sq.fseq.toNat, (q.counter 0).toNat,
    q.sched.grant, s.coresHeld p, (s.residents p).length, (q.faults.filter fun r => r.pending).length, q.schedReg 0x10, q.schedReg 0x18,
    q.mem.avail].flatMap (leBytes 8))
/-- The RESYNC summary (R367). -/
def State.summary (s : State) : List Byte :=
  let d := s.device
  padTo 4096 (padTo 512 (leBytes 8 s.cycle ++ leBytes 8 d.bell.toNat ++ leBytes 8 d.devcap ++ leBytes 4 Config.sliceCycles ++
      leBytes 4 d.sliceNo ++ (d.eccdie ++ d.eccstk).flatMap fun x => leBytes 8 x.toNat) ++
    (List.range 16).flatMap s.summaryPart)
/-- The attestation report (R384). -/
def State.report (s : State) (fn : Nat) (nonce : List Byte) : List Byte :=
  let d := s.device
  let body := nonce ++ leBytes 4 (s.pfReg 0x010) ++ leBytes 1 (if fn = 0 then 0xFF else fn - 1) ++ leBytes 1 (if d.gradeB then 1 else 0) ++
    leBytes 2 0 ++ leBytes 8 s.cycle ++ padTo 64 d.dm0 ++ padTo 64 d.dm1 ++
    (if fn = 0 then List.replicate 64 0 else padTo 64 (s.part (fn - 1)).measure) ++ leBytes 4 contractCap.toNat ++ leBytes 12 0
  body ++ padTo 64 (Config.identitySignature body)
/-- A configuration record (R350). -/
def parsePartcfg (bs : List Byte) : PartConfig :=
  { gbase := field bs 0 8, glen := field bs 8 8, hvbase := field bs 16 8
    counts := [field bs 24 4, field bs 28 4, field bs 32 4, field bs 36 4, field bs 40 4] }
/-- Bytes that the handles of a record span, without building them. -/
def PartConfig.span (c : PartConfig) : Nat :=
  [4, 3, 2, 1, 0].foldl (fun off k => if nth 0 c.counts k = 0 then off else roundUp off (classBytes k) + nth 0 c.counts k * classBytes k) 0
/-- Whether the root core takes a record for a partition (R350). -/
def State.partcfgLegal (s : State) (p : Nat) (bs : List Byte) : Bool :=
  let c := parsePartcfg bs
  let unit : Nat := 2 ^ 21
  let apart (o : Option PartConfig) : Bool := match o with | some o => decide (c.gbase + c.glen ≤ o.gbase) || decide (o.gbase + o.glen ≤ c.gbase) | none => true
  (bs.drop 44).all (· == 0) && c.gbase % unit == 0 && c.glen % unit == 0 && c.hvbase % unit == 0 && decide (c.span ≤ c.glen) &&
  decide (c.gbase + c.glen ≤ s.device.hbmBytes - Config.firmwareHbm) &&
  s.partitions.zipIdx.all fun q => q.2 == p || (apart q.1.config && apart q.1.pendingConfig)
/-- Whether a partition holds a flock. -/
def State.holdsFlock (s : State) (p : Nat) : Bool :=
  s.flocks.any fun fl => fl.p == p && fl.status != .retired && fl.status != .aborted

/-! ## The host (R376, R377) -/

/-- A host read of n bytes of a BAR of function fn, 0 the PF: none is Completer Abort. A register is read through its 8 bytes. -/
def State.hostRead (s : State) (bar fn off n : Nat) : Option (List Byte) :=
  let cut (x : Nat) : Option (List Byte) := some ((leBytes 8 x).drop (off % 8) |>.take n)
  if s.device.frozen then none
  else if bar = 0 then
    if fn ≠ 0 then cut (s.vfReg (fn - 1) (off / 8 * 8))
    else if off < 0x10000 then cut (s.pfReg (off / 8 * 8))
    else cut (s.vfReg (off / 0x10000 - 1) (off % 0x10000 / 8 * 8))
  else if fn = 0 || 2 ^ 40 < off + n then none
  else match s.readVa (fn - 1) none off n with
    | .ok r => some r.1
    | _ => none
/-- What such a read leaves: the L2 has served a read of BAR2 (R270). -/
def State.hostServed (s : State) (bar fn off n : Nat) : State :=
  if s.device.frozen || bar = 0 || fn = 0 || 2 ^ 40 < off + n then s else s.served (fn - 1) off n
/-- A write to any register of the PF's BAR0 by the host driver. -/
def State.driverPf (s : State) (off : Nat) (x : DWord) : State :=
  if off = 0x020 then (if x.getLsbD 0 then s.modDevice fun d => { d with frozen := true } else s)
  else if 0x10000 ≤ off && off < devctl2 then
    (if off / 0x10000 ≤ 16 then s.driverVf (off / 0x10000 - 1) (off % 0x10000) x else s)
  else s.writePf off x false
/-- A host write; a refused one is dropped and raises vector 2. -/
def State.hostStore (s : State) (bar fn off : Nat) (bs : List Byte) : State :=
  if s.device.frozen then s
  else if bar = 0 then
    let x : DWord := BitVec.ofNat 64 (field bs 0 8)
    if fn = 0 then s.driverPf off x else s.driverVf (fn - 1) off x
  else if fn = 0 || 2 ^ 40 < off + bs.length then s
  else match s.hostWriteVa (fn - 1) off bs with
    | (s, .ok _) => s
    | (s, _) => s.msix fn 2

/-! ## Peers (R380) -/

/-- The atomic operations that a peer may ask for, in the order of ATOMI: ADD, MIN, MAX, MINU, MAXU, AND, OR, XOR, XCHG; then
compare-and-swap, whose comparand is the upper word; then the operations of ATOMF under a contract: FADD, FMIN, FMAX, BFADD2, HADD2 (R248). -/
def peerAtomic (cn op : Nat) (old x cmp : Word) : Word :=
  match op with
  | 0 => old + x | 1 => minWord false old x | 2 => maxWord false old x | 3 => minWord true old x | 4 => maxWord true old x
  | 5 => old &&& x | 6 => old ||| x | 7 => old ^^^ x | 8 => x
  | 9 => if old = cmp then x else old
  | 10 => (stepFadd cn old x).new | 11 => (stepFmin cn old x).new | 12 => (stepFmax cn old x).new
  | 13 => (stepAdd2 true cn old x).new | _ => (stepAdd2 false cn old x).new
/-- An access by a peer device, checked against the export table of partition p: source rank k and partition m, HBM offset x;
a read of u bytes, a write of bytes (on), or atomic lane − 1 with operand y under contract u. It is served at the home L2 under the entry's slot,
for class 0 (R270, log 85). -/
def State.peerRequest (s : State) (e : Subject) : State :=
  let answer (r : Option (List Byte)) (s : State) : State := s.modDevice fun d => { d with reply := r }
  let a := e.x.toNat
  let wr := e.on || 0 < e.lane
  let n := if e.on then e.bytes.length else if 0 < e.lane then 4 else e.u
  if !s.device.joined then answer none s
  else match s.exported e.p e.k e.m a n wr with
    | none => answer none s
    | some (key, slot) =>
      let old := s.hbmRead key a n
      let s := (s.cacheExports e.p).touch e.p 0 slot wr a n
      if s.hbmBad a n then answer none (match s.firstBad [(a, n)] with | some x => s.countFound x | none => s)
      else if e.on then answer (some []) ((s.noteHbm .peer key a n).hbmWrite key a e.bytes)
      else if 0 < e.lane then
        let w := peerAtomic e.u (e.lane - 1) (BitVec.ofNat 32 (ofBytes old)) (e.y.setWidth 32) ((e.y >>> 32).setWidth 32)
        answer (some old) ((s.noteHbm .peer key a 4).hbmWrite key a (leBytes 4 w.toNat))
      else answer (some old) s

/-! ## Read-out (R369, R385) -/

/-- The workgroups of a core, by their places. -/
def State.coreWarps (s : State) (core : Nat) : List (Flock × Workgroup) :=
  let here := s.flocks.flatMap fun fl => if fl.onCores then (fl.wgs.filter fun wg => wg.core == core && !wg.ended).map fun wg => (fl, wg) else []
  (List.range 4).flatMap fun k => here.filter fun w => w.2.slot == k
/-- The warp in place k of a core's 128: place k mod 8 of slice k / 8 (R137, log 63). -/
def coreWarp (ws : List (Flock × Workgroup)) (k : Nat) : Option Warp :=
  ws.findSome? fun w => w.2.warps.find? fun x => 8 * x.slice + x.slot == k
/-- The herder of the workgroup in place k of a core. -/
def coreHerder (ws : List (Flock × Workgroup)) (k : Nat) : Option Warp := (ws.find? fun w => w.2.slot == k).bind fun w => w.2.herder
/-- A core's scratchpad, byte by byte (R209). -/
def coreScratch (ws : List (Flock × Workgroup)) (a : Nat) : Byte :=
  match ws.find? fun w => decide (w.2.scratchAt ≤ a) && decide (a < w.2.scratchAt + w.1.launch.scratch) with
  | some w => cellGet w.2.scratch (a - w.2.scratchAt)
  | none => 0
/-- A core's granule bits, eight to a byte. -/
def coreGranules (ws : List (Flock × Workgroup)) (k : Nat) : Byte :=
  let full (b : Nat) : Bool :=
    let a := 16 * (8 * k + b)
    match ws.find? fun w => decide (w.2.scratchAt ≤ a) && decide (a < w.2.scratchAt + w.1.launch.scratch) with
    | some w => w.2.granules.getLsbD ((a - w.2.scratchAt) / 16)
    | none => false
  BitVec.ofNat 8 (laneMask ((List.range 8).filter full))
/-- The bytes of a frozen structure, where the spec gives their layout; none where it does not (R369). A core is named with its die; there is none
at another. Of a task window the records have the layout of R185. -/
def State.structure_ (s : State) (kind unit : Nat) : Option (List Byte) :=
  let core := unit % 1024
  let here := s.device.clusters * 8 > core && s.device.coreDie core == unit / 1024
  let ws := if here then s.coreWarps core else []
  match if kind < 3 && !here then 7 else kind with
  | 0 =>
    let unit_ (n : Nat) (w : Option Warp) : List Byte := padTo n (match w with | some x => foldWarp x | none => [])
    some ((List.range 128).flatMap (fun k => unit_ 5184 (coreWarp ws k)) ++ (List.range 4).flatMap fun k => unit_ 224 (coreHerder ws k))
  | 1 => some ((List.range 393216).map (coreScratch ws) ++ (List.range 3072).map (coreGranules ws))
  | 2 => some (padTo (8 * 16384) (ws.flatMap fun w => w.2.tiles.flatMap foldTile) ++ ws.flatMap fun w => w.2.tags.flatMap fun t => leBytes 8 t.toNat)
  | 6 => some ((List.range 0x2000).flatMap fun k => leBytes 8 (s.vfReg unit (8 * k)))
  | 4 => none
  | _ => some []
/-- n bytes at a read-out address. -/
def State.readout (s : State) (a n : Nat) : State :=
  let kind := bitsOf a 47 44
  let unit := bitsOf a 43 32
  let off := a % 2 ^ 32
  let answer (bs : List Byte) (s : State) : State := s.modDevice fun d => { d with reply := some bs }
  if !s.device.frozen then s.modDevice fun d => { d with reply := none }
  else if kind = 5 then answer ((List.range n).map fun k => s.storedByte (a % 2 ^ 44 + k)) s
  else if kind = 3 then
    let records := (s.part unit).window.flatMap fun t => padTo 128 t.raw
    answer ((List.range n).map fun k => (records[off + k]?).getD (Config.readoutByte (s.fresh + k))) { s with fresh := s.fresh + n }
  else match s.structure_ kind unit with
    | some bs => answer (padTo n (bs.drop off)) s
    | none => answer ((List.range n).map fun k => Config.readoutByte (s.fresh + k)) { s with fresh := s.fresh + n }

/-! ## Errors (R341, R342, R377) -/

/-- A bit error in storage (R341): corrected, it is counted; else the stored data's check bits fail from now on. The structure
k: 0 HBM at x, 1 register x of unit u and lane of workgroup (m, y), 2 aligned 8 bytes x, 3 tile x, 4 tag slot x, 5 a cached translation of
partition p for the page that starts at x, 6 the aligned 8 bytes of a held L2 line at HBM address x; y holds the flock, or the die of a corrected
error. -/
def State.storageFails (s : State) (e : Subject) : State :=
  let add (b : BadWord) : State := if s.bad.contains b then s else { s with bad := s.bad ++ [b] }
  let f := e.y.toNat
  let x := e.x.toNat
  if e.on then (if e.k = 0 then s.countStack x false else s.countDie f false)
  else match e.k with
    | 0 => add (.hbm (x / 32))
    | 6 => if (s.l2Line? (x / 128)).isSome then add (.l2 (x / 8)) else s
    | 5 => add (.tlb e.p x)
    | 1 => add (.reg f e.m e.u e.lane (if x < 24 then .v (Fin.ofNat 24 x) else .w (Fin.ofNat 8 (x - 24))))
    | 2 => add (.scratch f e.m x)
    | 3 => add (.tile f e.m x)
    | 4 => add (.tag f e.m x)
    | _ => s

/-! ## Words that raise a trap without a meaning of their own (R19, R59) -/

/-- The group of a unit that a lane issues with. -/
def State.groupOf (s : State) (f m u lane : Nat) : Option (Group × Warp) :=
  (s.unit? f m u).bind fun w => (w.groups.find? fun g => g.lanes.contains lane).map fun g => (g, w)
/-- A group takes the trap that its chain raises before any of its words has an effect. -/
def State.trapChain (s : State) (f m u : Nat) (g : Group) (w : Warp) (cause : Nat) (va : DWord) : State :=
  let c := Issue.start f m u g.lanes g.pc (s.chainAt f g.pc).next w
  ((g.lanes.foldl (fun s l => s.raiseTrap c l cause va) s).modUnit f m u fun w => w.hasIssued g.lanes).settleFlock f

/-- WHOLE_DEVICE_RESET (R9, R366). -/
def execWholeDeviceReset (s : State) : Outcome :=
  event s fun _ s => s.resetDevice

/-- PARTITION_RESET (R349, R366). -/
def execPartitionReset (s : State) : Outcome :=
  event s fun e s => s.resetPartition e.p

/-- FUNCTION_LEVEL_RESET (R349, R366, R381): function k; the PF's resets every partition and clears the key slots. -/
def execFunctionLevelReset (s : State) : Outcome :=
  event s fun e s =>
    if e.k ≠ 0 then s.resetPartition (e.k - 1)
    else
      let s := (List.range 16).foldl State.resetPartition s
      { s with
        partitions := s.partitions.map fun q => { q with keys := [] }
        device := { s.device with slots := [], atomicEnable := false } }

/-- PARTITION_START (R349, R350, R383). -/
def execPartitionStart (s : State) : Outcome :=
  event s fun e s => s.startPartition e.p

/-- FIRMWARE_IMAGE_START (R382, R383): core k, 0 the root; the image is in bytes. -/
def execFirmwareImageStart (s : State) : Outcome :=
  event s fun e s => s.startImage e.k e.bytes

/-- FIRMWARE_NUDGE (R366): an interrupt at core k, 0 the root. -/
def execFirmwareNudge (s : State) : Outcome :=
  event s fun e s => s.modDevice fun d => { d with nudges := modifyNth (· + 1) e.k d.nudges }

/-- FIRMWARE_CORE_RESTART (R366): core k, 0 the root. -/
def execFirmwareCoreRestart (s : State) : Outcome :=
  event s fun e s => s.restartCore e.k

/-- BELL_WORD (R365): core k, 0 the root; one 8-byte posted write, none while BELLADDR is 0. -/
def execBellWord (s : State) : Outcome :=
  event s fun e s =>
    if !s.coreOn e.k || s.device.frozen then s
    else
      let n := (if e.k = 0 then s.device.bell else (s.part (e.k - 1)).bell) + 1
      let s := if e.k = 0 then s.modDevice fun d => { d with bell := n } else s.modPart (e.k - 1) fun q => { q with bell := n }
      if s.device.belladdr = 0 then s else s.hostWrite (s.device.belladdr.toNat + 8 * e.k) (leBytes 8 n.toNat)

/-- FREEZE_PIN (R368). -/
def execFreezePin (s : State) : Outcome :=
  event s fun _ s => s.modDevice fun d => { d with frozen := true }

/-- FREEZE_WRITE (R368, R377): x is written to FREEZE. -/
def execFreezeWrite (s : State) : Outcome :=
  event s fun e s => s.driverPf 0x020 e.x

/-- POWER_WINDOW (R373, R377): the module would draw x watts on average over the last window. -/
def execPowerWindow (s : State) : Outcome :=
  event s fun e s =>
    s.modDevice fun d => { d with pwrnow := min e.x.toNat d.pwrlim % 4096, throttle := decide (d.pwrlim < e.x.toNat) }

/-- MB_RESYNC (R367, R378). -/
def execMbResync (s : State) : Outcome :=
  mailboxEvent s 0x01 fun _ arg a s => if arg ≠ 0 then (1, s) else (0, (s.hostWrite a s.summary).msix 0 0)

/-- MB_RESUME (R363, R378): SQCTL.RESUME of the partition named, or of the VF's own, is written by that partition's firmware core. -/
def execMbResume (s : State) : Outcome :=
  mailboxEvent s 0x02 (fun fn arg _ s =>
    let p := bitsOf arg 19 16
    if arg % 4 = 0 || arg % 4 = 3 || bitsOf arg 15 2 ≠ 0 || 2 ^ 20 ≤ arg || (fn ≠ 0 && p ≠ 0) then (1, s)
    else (0, s.modPart (if fn = 0 then p else fn - 1) fun q => q.resume (arg % 4 = 2)))
    (able := fun fn arg s => fn != 0 || s.coreOn (bitsOf arg 19 16 + 1))

/-- MB_KEYGEN (R378, R381). -/
def execMbKeygen (s : State) : Outcome :=
  mailboxEvent s 0x03 fun _ arg _ s =>
    if 1024 ≤ arg then (1, s)
    else if assocGet 0 s.device.slots arg ≠ 0 then (3, s)
    else (0, s.modDevice fun d => { d with slots := assocSet 0 arg d.keySerial d.slots, keySerial := d.keySerial + 1 })

/-- MB_KEYASSIGN (R227, R378, R381): slot 1,023 is never assigned. -/
def execMbKeyassign (s : State) : Outcome :=
  mailboxEvent s 0x04 fun _ arg _ s =>
    let slot := arg % 1024
    if bitsOf arg 15 10 ≠ 0 || 2 ^ 20 ≤ arg then (1, s)
    else if assocGet 0 s.device.slots slot = 0 || slot = 1023 then (3, s)
    else
      let s : State := { s with partitions := s.partitions.map fun q => { q with keys := q.keys.filter (· ≠ slot) } }
      (0, s.modPart (bitsOf arg 19 16) fun q => { q with keys := q.keys ++ [slot] })

/-- MB_KEYCLEAR (R378, R381): the lines held under the slot are written back and dropped first. -/
def execMbKeyclear (s : State) : Outcome :=
  mailboxEvent s 0x05 fun _ arg _ s =>
    if 1024 ≤ arg then (1, s)
    else if arg = 1023 then (3, s)
    else
      let s : State := { s with partitions := s.partitions.map fun q => { q with keys := q.keys.filter (· ≠ arg) } }
      (0, (s.dropSlot arg).modDevice fun d => { d with slots := assocSet 0 arg 0 d.slots })

/-- MB_ATTEST (R378, R384). -/
def execMbAttest (s : State) : Outcome :=
  mailboxEvent s 0x06 fun fn arg a s => if arg ≠ 0 then (1, s) else (0, (s.hostFetch a 32).hostWrite a (s.report fn (cellsRead s.hostMem a 32)))

/-- MB_PARTCFG (R350, R378). -/
def execMbPartcfg (s : State) : Outcome :=
  mailboxEvent s 0x07 fun _ arg a s =>
    let bs := cellsRead s.hostMem a 64
    if 16 ≤ arg then (1, s)
    else if !(s.part arg).idle || s.holdsFlock arg then (3, s)
    else if !s.partcfgLegal arg bs then (1, s)
    else (0, (s.hostFetch a 64).modPart arg fun q => { q with pendingConfig := some (parsePartcfg bs) })

/-- HOST_READ (R368, R376, R377): u bytes at offset x of BAR m of function k; a refused read of BAR2 raises vector 2. -/
def execHostRead (s : State) : Outcome :=
  event s fun e s =>
    let r := s.hostRead e.m e.k e.x.toNat e.u
    let s := (s.hostServed e.m e.k e.x.toNat e.u).modDevice fun d => { d with reply := r }
    if r.isNone && e.m ≠ 0 && !s.device.frozen then s.msix e.k 2 else s

/-- HOST_WRITE (R368, R376, R377): bytes to offset x of BAR m of function k. -/
def execHostWrite (s : State) : Outcome :=
  event s fun e s => s.hostStore e.m e.k e.x.toNat e.bytes

/-- PEER_ACCESS (R380). -/
def execPeerAccess (s : State) : Outcome :=
  event s fun e s => s.peerRequest e

/-- UNCORR_FOUND (R342, R375, R377): scrubbing finds the bad code word of HBM at x, which partition p's firmware core and the root core learn. -/
def execUncorrFound (s : State) : Outcome :=
  event s fun e s =>
    if s.bad.contains (.hbm (e.x.toNat / 32)) then
      (s.countStack e.x.toNat true).reportError e.x.toNat
    else s

/-- MCTP_READOUT (R369, R385): u bytes at read-out address x. -/
def execMctpReadout (s : State) : Outcome :=
  event s fun e s => s.readout e.x.toNat e.u

/-- MCTP_READ_CERTIFICATE (R384, R385): u bytes at x. -/
def execMctpReadCertificate (s : State) : Outcome :=
  event s fun e s => s.modDevice fun d => { d with reply := some ((Config.certificate.drop e.x.toNat).take e.u) }

/-- MCTP_WRITE_PWRLIM (R377, R385). -/
def execMctpWritePwrlim (s : State) : Outcome :=
  event s fun e s => s.writePf 0x028 e.x false

/-- ILLEGAL_WORD (R59, R60): the group of lane in unit u of workgroup (k, m), whose chain holds an illegal word first. -/
def execIllegalWord (s : State) : Outcome :=
  event s fun e s =>
    match s.groupOf e.k e.m e.u e.lane with
    | some (g, w) =>
      let ch := s.chainAt e.k g.pc
      if ch.stop.isNone && encodingTrap ch.words = some ([], causeIllegal) then s.trapChain e.k e.m e.u g w causeIllegal 0 else s
    | none => s

/-- FETCH_BEYOND_CODE_OBJECT (R19): the group of lane in unit u of workgroup (k, m), at or beyond the code object's length. -/
def execFetchBeyondCodeObject (s : State) : Outcome :=
  event s fun e s =>
    match s.groupOf e.k e.m e.u e.lane, s.flock? e.k with
    | some (g, w), some fl =>
      if fl.launch.codelen ≤ g.pc then s.trapChain e.k e.m e.u g w causeProtfault (fl.launch.wordAt g.pc) else s
    | _, _ => s

/-- LOAD_STORE_DOMAIN_JOIN (R377, R379): the root firmware core joins the device at rank x. -/
def execLoadStoreDomainJoin (s : State) : Outcome :=
  event s fun e s => if e.x.toNat < 512 then s.modDevice fun d => { d with rank := e.x.toNat, joined := true } else s

/-- STORAGE_ERROR (R341, R342). -/
def execStorageError (s : State) : Outcome :=
  event s fun e s => s.storageFails e

end Sys2Proof.Machine
end

