-- ==== Sys2Proof/Machine/EngineEvents.lean ====
section
/-! DEFINITION. What the engines do by themselves: matrix operations, tile copies, transforms, chains of packed pages, logical
clocks (09 R232; 11 R262, R265; 12 R280-R283; 13 R301, R302, R316-R320). -/
namespace Sys2Proof.Machine
open Sys2Proof

/-- Runs stream k while its opcode is op. -/
def xformEvent (s : State) (op : Nat) : Outcome := event s fun e s => s.runStream e.k op (s.streamFuel e.k)

/-- Whether every core's logical clock has passed the last lease end granted on an old map word (R265). -/
def State.leasesOver (s : State) (r : Reclaim) : Bool := (List.range (8 * s.device.clusters)).all fun c => decide (r.leaseEnd < s.clock c)

/-- Returns the chunks of the oldest reclaimable chain of a partition to its free list (R234, R265). -/
def State.reclaim (s : State) (p : Nat) : State :=
  match s.reclaims.find? fun r => r.p == p && s.leasesOver r with
  | some r => r.chunks.foldl (fun s c => s.pushChunk p c) { s with reclaims := s.reclaims.erase r }
  | none => s

/-- The chains that wait since 2,600 cycles are returned: every clock passes the lease end by idle advance until then (R262, R265, log 92). -/
def State.reclaimDue (s : State) : State :=
  match s.reclaims.filter fun r => decide (r.since + 2600 ≤ s.cycle) with
  | [] => s
  | due =>
    let s := (List.range (8 * s.device.clusters)).foldl (fun s c => due.foldl (fun s r => s.raiseClock c (r.leaseEnd + 1)) s) s
    due.foldl (fun s r => r.chunks.foldl (fun s c => s.pushChunk r.p c) { s with reclaims := s.reclaims.erase r }) s

/-- MATRIX_OP_EXECUTE (R280, R283): the first operation of a workgroup enters the array. -/
def execMatrixOpExecute (s : State) : Outcome :=
  event s fun e s => s.matrixStart e.k e.m

/-- MATRIX_OP_COMPLETE (R282). -/
def execMatrixOpComplete (s : State) : Outcome :=
  event s fun e s => s.matrixFinish e.k e.m

/-- TILE_COPY_TO_SCRATCHPAD (R301): the first command of a workgroup, if it goes that way. -/
def execTileCopyToScratchpad (s : State) : Outcome :=
  event s fun e s => s.copyMove e.k e.m false

/-- TILE_COPY_TO_TENSOR (R301). -/
def execTileCopyToTensor (s : State) : Outcome :=
  event s fun e s => s.copyMove e.k e.m true

/-- TILE_COPY_COMPLETE (R301-R303). -/
def execTileCopyComplete (s : State) : Outcome :=
  event s fun e s => s.copyFinish e.k e.m

/-- XFORM_COPY (R316): stream k. -/
def execXformCopy (s : State) : Outcome :=
  xformEvent s 0

/-- XFORM_CAST (R316). -/
def execXformCast (s : State) : Outcome :=
  xformEvent s 1

/-- XFORM_QUANT (R316). -/
def execXformQuant (s : State) : Outcome :=
  xformEvent s 2

/-- XFORM_DEQUANT (R316). -/
def execXformDequant (s : State) : Outcome :=
  xformEvent s 3

/-- XFORM_TRANS (R316). -/
def execXformTrans (s : State) : Outcome :=
  xformEvent s 4

/-- XFORM_PACK (R316). -/
def execXformPack (s : State) : Outcome :=
  xformEvent s 5

/-- XFORM_UNPACK (R316). -/
def execXformUnpack (s : State) : Outcome :=
  xformEvent s 6

/-- XFORM_GATHER (R316). -/
def execXformGather (s : State) : Outcome :=
  xformEvent s 7

/-- XFORM_SCATADD (R316). -/
def execXformScatadd (s : State) : Outcome :=
  xformEvent s 8

/-- XFORM_MXIN (R316). -/
def execXformMxin (s : State) : Outcome :=
  xformEvent s 9

/-- XFORM_MXOUT (R317). -/
def execXformMxout (s : State) : Outcome :=
  xformEvent s 10

/-- TRANSFORM_TURN (R319): one turn of stream k. -/
def execTransformTurn (s : State) : Outcome :=
  event s fun e s => s.turnStream e.k

/-- TRANSFORM_COMPLETE (R318, R322): stream k writes STATUS and reports; a task learns how its stream ended. -/
def execTransformComplete (s : State) : Outcome :=
  event s fun e s =>
    match s.finishStream e.k with
    | (s, some t) =>
      (match t.task with
        | some seq => s.modTask t.p seq fun q => { q with ended := some t.error }
        | none => match t.wg with | some (f, _) => s.refold f | none => s)
    | (s, none) => s

/-- POOLEMPTY_RESUME (R319): stream k resumes once CHKAVAIL holds enough. -/
def execPoolemptyResume (s : State) : Outcome :=
  event s fun e s =>
    s.modStream e.k fun t =>
      if 0 < t.need && decide (t.need ≤ (s.part t.p).mem.avail) then { t with need := 0, penned := false } else t

/-- PACKED_CHAIN_RECLAIM (R265). -/
def execPackedChainReclaim (s : State) : Outcome :=
  event s fun e s => s.reclaim e.p

/-- LOGICAL_CLOCK_ADVANCE (R262): the clock of core k advances by one tick, beside its tick in every 32 cycles. -/
def execLogicalClockAdvance (s : State) : Outcome :=
  event s fun e s => s.raiseClock e.k (s.clock e.k + 1)

end Sys2Proof.Machine
end

