-- ==== Sys2Proof/Machine/Turns.lean ====
section
/-! DEFINITION. Whose turn it is (model, logs 3 and 4): the turns that the state offers, what one turn does, and what
follows it at once. The meaning of an instruction is a parameter here, so that the step only joins these to exec. -/
namespace Sys2Proof.Machine
open Sys2Proof

/-! ## The turns that a state offers -/

/-- An event's turn. -/
def turnOf (i : Instr) (on : Subject) : Turn := .event i on

/-- The instruction that an OP and FLAGS of a task record stand for. -/
def taskInstr (op fl : Nat) : Instr :=
  match op with
  | 0x01 => .taskRun | 0x02 => .taskPool | 0x03 => .taskCopy | 0x04 => .taskXform | 0x05 => .taskOffload | 0x06 => .taskRecall
  | 0x07 => (match fl % 4 with | 0 => .collRun | 1 => .collCreate | 2 => .collDestroy | _ => .illegalRecord)
  | 0x08 => .taskWait | 0x09 => .taskSignal | 0x0A => .taskAlloc | 0x0B => .taskFree | 0x0C => .taskFence | 0x0D => .taskRepeat
  | 0x0E => .taskEndrep | 0x0F => .taskMark
  | _ => .illegalRecord
/-- The instruction of a step's OP. -/
def stepInstr (op : Nat) : Instr :=
  match op with
  | 0x01 => .collSend | 0x02 => .collRecv | 0x03 => .collRrs | 0x04 => .collLcopy | 0x05 => .collCwait | 0x06 => .collArm
  | 0x07 => .collLoop | 0x08 => .collEndl | 0x09 => .collPeer | 0x0A => .collCbar
  | _ => .illegalStep
/-- The instruction of a transform's OP. -/
def xformInstr (op : Nat) : Instr :=
  match op with
  | 0 => .xformCopy | 1 => .xformCast | 2 => .xformQuant | 3 => .xformDequant | 4 => .xformTrans | 5 => .xformPack
  | 6 => .xformUnpack | 7 => .xformGather | 8 => .xformScatadd | 9 => .xformMxin | _ => .xformMxout
/-- The instruction of a bulk packet's opcode. -/
def bulkInstr (k : Packet) : Instr :=
  if !k.legal then .bulkQueueError
  else match k.op with | 1 => .bulkCopy | 2 => .bulkFill | 3 => .bulkSignal | _ => .bulkWait

/-- The turns of a workgroup. -/
def wgTurns (f m : Nat) (wg : Workgroup) : List Turn :=
  let on : Subject := { k := f, m := m }
  (match wg.matQ with
    | op :: _ => [turnOf (if op.started then .matrixOpComplete else .matrixOpExecute) on]
    | [] => []) ++
  (match wg.copies with
    | c :: _ =>
      if c.finished then [turnOf .tileCopyComplete on]
      else if c.fault.isSome then [] else [turnOf (if c.dir then .tileCopyToTensor else .tileCopyToScratchpad) on]
    | [] => []) ++
  (wg.units.flatMap fun u =>
    match wg.unit? u with
    | some w =>
      (if w.threads.any fun t => match t.hold with | .join _ => true | _ => false then [turnOf .joinlimExpiry { on with u := u }] else []) ++
      (w.lanesWith fun t => t.life == .ending).map fun l => turnOf .threadCease { on with u := u, lane := l }
    | none => []) ++
  (if wg.ended then [] else [turnOf .workgroupEnd on])
/-- The turns of a flock. -/
def flockTurns (f : Nat) (fl : Flock) : List Turn :=
  match fl.status with
  | .resident | .folding _ => fl.wgs.zipIdx.flatMap fun wg => wgTurns f wg.2 wg.1
  | .aborting .. => [turnOf .flockAbort { k := f }]
  | _ => []
/-- The turns of a task of the window. -/
def taskTurns (s : State) (p : Nat) (t : Task) : List Turn :=
  let on : Subject := { p := p, k := t.seq }
  if t.fault.isSome then []
  else
    (if t.news.any NewVersion.copy then [turnOf .copyForward on] else []) ++
    (if t.status = .issued then
      match t.op with
      | 0x0A => [turnOf .allocZeroFill on]
      | 0x03 | 0x05 | 0x06 => [turnOf .taskEngineStreamComplete on]
      | 0x04 => if t.ended.isSome then [turnOf .taskEngineStreamComplete on] else []
      | 0x02 =>
        (match (s.part p).pools.find? fun q => q.seq == t.seq with
          | some q => turnOf .poolDrain on :: q.targets.map fun x => turnOf .poolFlushTimeout { on with m := x }
          | none => []) ++ [turnOf .timeLimitExpiry on]
      | 0x01 => [turnOf .timeLimitExpiry on]
      | _ => []
    else [])
/-- The turns of a bulk queue. -/
def queueTurns (s : State) (p q : Nat) : List Turn :=
  match s.queue? p q with
  | some b =>
    if b.stopped || b.fault.isSome then []
    else if b.ending ≠ 0 then [turnOf .bulkCopy { p := p, k := q }]
    else match s.nextPacket p q with
      | some (_, .ok (bs, _)) => [turnOf (bulkInstr (parsePacket bs)) { p := p, k := q }]
      | _ => [turnOf .bulkCopy { p := p, k := q }]
  | none => []
/-- The turns of the collective engine of a partition. -/
def collTurns (q : Partition) (p : Nat) : List Turn :=
  q.colls.flatMap fun r =>
    let on : Subject := { p := p, k := r.comm }
    match r.steps[r.pos]? with
    | some b => [turnOf (stepInstr (field b 0 1)) on, turnOf .collChunkSend on]
    | none => [turnOf .collChunkSend on, turnOf .collRunComplete on]
/-- The turns of a partition. -/
def partTurns (s : State) (p : Nat) (q : Partition) : List Turn :=
  let on : Subject := { p := p }
  (if q.started || !s.coreOn (p + 1) then [] else [turnOf .partitionStart on]) ++
  (if q.mem.tlbWork.isSome then [turnOf .tlbinvComplete on] else []) ++
  (match q.sched.run with
    | some _ => [.crook p, turnOf .crkBudgetOverrun on]
    | none =>
      (if q.sched.shadow.isSome then [turnOf .crkProgramActivate on] else []) ++
      (if !q.toDecide.isEmpty then [turnOf .faultDecision on]
       else if s.owesPreempt p then [turnOf .preempt on]
       else if q.window.isEmpty then [] else [turnOf .dispatch on])) ++
  (match s.nextOp p with | some (op, fl) => [turnOf (taskInstr op fl) on] | none => []) ++
  (match q.window with
    | t :: _ => if t.done then [turnOf .taskRetire on] else if t.isFaulted then [turnOf .taskFaultRecovery on] else []
    | [] => []) ++
  q.window.flatMap (taskTurns s p) ++ (List.range 16).flatMap (queueTurns s p) ++ collTurns q p
/-- The turns of the slices and scalar units that hold something. -/
def coreTurns (s : State) : List Turn :=
  (s.flocks.flatMap fun fl =>
    match fl.status with
    | .resident =>
      fl.wgs.flatMap fun wg =>
        if wg.ended then []
        else (wg.warps.map fun w => Turn.slice wg.core w.slice) ++ (if wg.herder.isSome then [.scalar wg.core] else [])
    | _ => []).eraseDups
/-- The turns of transform streams, results in flight, and packed chains. -/
def engineTurns (s : State) : List Turn :=
  (s.streams.zipIdx.flatMap fun t =>
    if 0 < t.1.need then [turnOf .poolemptyResume { k := t.2 }]
    else if t.1.fault.isSome then []
    else if t.1.finished then [turnOf .transformComplete { k := t.2 }]
    else [turnOf (xformInstr t.1.op) { k := t.2 }]) ++
  (s.landings.zipIdx.filterMap fun l => if l.1.host then none else some (turnOf .resultLand { k := l.2 })) ++
  (s.randoms.zipIdx.map fun l => turnOf .randomWordDelivery { k := l.2 }) ++
  s.reclaims.map fun r => turnOf .packedChainReclaim { p := r.p }
/-- Every turn that the state offers. -/
def State.turns (s : State) : List Turn :=
  coreTurns s ++ engineTurns s ++ (s.flocks.zipIdx.flatMap fun fl => flockTurns fl.2 fl.1) ++
    s.partitions.zipIdx.flatMap fun q => partTurns s q.2 q.1
/-- The turn to take: the agenda's first, else one of those offered, in rotation; and the state that takes it. -/
def State.nextTurn (s : State) : Option Turn × State :=
  match s.agenda with
  | t :: rest => (some t, { s with agenda := rest })
  | [] => let ts := s.turns; (ts[s.turn % ts.length]?, { s with turn := s.turn + 1 })

/-! ## What one turn does -/

/-- The events that a frozen device still has: a whole-device reset, the debug domain, and the answers of the host link (R368). -/
def runsFrozen : Instr → Bool
  | .wholeDeviceReset | .mctpReadout | .mctpReadCertificate | .hostRead | .hostWrite | .freezePin => true
  | _ => false
/-- The crook operation that a partition's interpreter has reached (R357). -/
def State.crookInstr (s : State) (p : Nat) : Option Instr :=
  (s.part p).sched.run.bind fun r => (s.part p).sched.active.bind fun ws => (ws[r.op]?).bind fun w => decodeCrook w.toNat
/-- Tasks whose limit counts, while one of their flocks is on cores (R362). -/
def State.countLimits (s : State) (p : Nat) : State :=
  if (s.part p).window.any Task.ticking then
    s.modPart p fun q => { q with window := q.window.map fun t =>
      if t.ticking && s.flocks.any fun fl => fl.p == p && fl.seq == t.seq && fl.onCores then { t with ticked := t.ticked + 1 } else t }
  else s
/-- What follows a turn at once, and the passing of its cycle (R133, R362). -/
def State.endTurn (s : State) : State :=
  if s.device.frozen then s
  else
    let s := ((List.range s.flocks.length).foldl State.settleFlock s).reclaimDue
    let s := (List.range 16).foldl (fun s p => if (s.part p).window.isEmpty then s else (s.settleTasks p).countLimits p) s
    { s with cycle := s.cycle + 1 }
/-- One turn: an event, a cycle of a slice or of a scalar unit, or a crook operation. -/
def takeTurn (exec : Instr → State → Outcome) (s : State) : Turn → Outcome
  | .event i on =>
    if s.device.frozen && !runsFrozen i then .next s
    else match exec i { s with subject := on } with
      | .next t => .next t.endTurn
      | r => r
  | .slice core sl => if s.device.frozen then .next s else .next (sliceTurn exec core sl s).endTurn
  | .scalar core => if s.device.frozen then .next s else .next (scalarTurn exec core s).endTurn
  | .crook p =>
    if s.device.frozen then .next s
    else match s.crookInstr p with
      | some i =>
        (match exec i { s with subject := { p := p } } with
          | .next t => .next t.endTurn
          | r => r)
      | none => .next s.endTurn
/-- One step of the machine with a meaning for each instruction. -/
def stepWith (exec : Instr → State → Outcome) (s : State) : Outcome :=
  match s.nextTurn with
  | (some t, s) => takeTurn exec s t
  | (none, s) => .next s.endTurn

end Sys2Proof.Machine
end

