-- ==== Sys2Proof/Machine/Bench.lean ====
section
/-! DEFINITION. A machine that has one instruction to run next (log 15): what State.withFetchWord sets up beside the words
themselves. A program reaches this machine only through a task stream, a page table and a grant of cores, so all of these are
set here; for a crook operation, an active program and a run of it. -/
namespace Sys2Proof.Machine
open Sys2Proof

/-- The core and slice whose warp runs the instruction. -/
def benchCore : Nat := 383
def benchSlice : Nat := 0
/-- The key slot and the key's serial number under which the page table and the code stand. -/
def benchKey : Nat := 3
/-- A launch with one warp, contract 8 and every per-workgroup resource, whose code stands at virtual address 0. -/
def benchLaunch : Launch where
  code := 0
  codelen := 6
  contract := 8
  param := 0x10000
  lseed := 0
  lattice := false
  stride := 0
  limit := 0
  fair := 64
  progress := true
  scratch := 4096
  tags := 256
  acc := 8
  wg := 1
  m := 1
  s := 1
  nx := 1
  ny := 1
  nz := 1
  pool := none
  poolN := 0
  capacity := 0
  flush := 0
  area := 0
  debug := false
/-- Its warp: thread 0 is live, the others have ended. -/
def benchWarp : Warp := Warp.new benchLaunch (Thread.new :: List.replicate 31 { Thread.new with life := .ended }) benchSlice
/-- Its flock, resident on the core. -/
def benchFlock : Flock where
  p := 0
  seq := 1
  launch := benchLaunch
  x := 0
  y := 0
  z := 0
  wgs := [newWorkgroup benchLaunch 0 0 benchCore [benchSlice] [benchWarp]]
  hurdles := List.replicate 16 0
  status := .resident
  placedAt := 0
  preempted := 0
  marks := []
/-- Its task, issued. -/
def benchTask (q : Partition) : Task :=
  { Task.start q { Rec.blank with op := 0x01 } with seq := 1, status := .issued, launch := some benchLaunch, placed := 1 }
/-- A page table of three levels at HBM address 0, whose one leaf maps the first GiB to the second GiB of HBM, readable and
writable, under key slot 0 (R218-R220). -/
def benchTable : List (Nat × Nat) :=
  [(0, 0xF000000000000001), (4096, 0xF000000000000002), (8192, 0xDC00000000040000)]
/-- The NOP word. -/
def nopWord : Nat := 0x4A * 2 ^ 18
/-- The state with a code object of six words at virtual address 0, ready to run on the slice. -/
def State.benchCode (s : State) (first second : Nat) : State :=
  let s := { s with
    flocks := s.flocks ++ [benchFlock]
    agenda := .slice benchCore benchSlice :: s.agenda
    device := { s.device with frozen := false, slots := assocSet 0 0 benchKey s.device.slots }
    hbm := s.hbm.filter fun c => decide (12288 ≤ c.1)
    oldEntries := []
    oldCode := [] }
  let s := s.modPart 0 fun q =>
    { q with
      mem := { q.mem with ptroot := 1, oldRoots := [] }, keys := [0], started := true, window := [benchTask q], nextSeq := 2
      sched := { q.sched with grant := 8 } }
  let s := benchTable.foldl (fun s e => s.hbmWrite benchKey e.1 (leBytes 8 e.2)) s
  s.hbmWrite benchKey (2 ^ 30) ([first, second, nopWord, nopWord, nopWord, nopWord].flatMap (leBytes 4))
/-- The state with an active crook program of one operation, in a DISPATCH decision with one candidate. -/
def State.benchCrook (s : State) (w : Nat) : State :=
  let r : CrookRun := {
    kind := 0, cands := [1], fields := [List.replicate 16 0], globals := List.replicate 16 0, cand := 0, op := 0, k := Vector.replicate 16 0
    scores := [0], verdict := 0, cycles := 10, overBudget := false }
  { s with agenda := .crook 0 :: s.agenda, device := { s.device with frozen := false } }.modPart 0 fun q =>
    { q with sched := { q.sched with active := some [BitVec.ofNat 32 w], run := some r } }
/-- The state with the instruction of some bits next: a MOVL's literal stands above it, any other word is followed by NOPs. -/
def State.bench (s : State) (nbits w : Nat) : State :=
  let x := w % 2 ^ nbits
  let first := x % 2 ^ 32
  match decodeWord first (x / 2 ^ 32 % 2 ^ 32), decodeCrook first with
  | none, some _ => s.benchCrook first
  | _, _ => s.benchCode first (if opOf first = 0x21 then x / 2 ^ 32 % 2 ^ 32 else nopWord)

end Sys2Proof.Machine
end

