-- ==== Sys2Proof/Machine/Guards.lean ====
section
/-! DEFINITION. Compares and guard logic (04_thread_instructions.md R111-R113). -/
namespace Sys2Proof.Machine
open Sys2Proof

/-- Writes guard gd of a thread, ANDed with its old value when K = 1 (R44). -/
def State.setGuard (s : State) (c : Issue) (lane : Nat) (k : Bool) (gd : Fin 16) (res : Bool) : State :=
  let res := if k then res && (c.snap.thread lane).g.getLsbD gd.val else res
  s.modThread c.f c.m c.u lane fun t => { t with g := setBit t.g gd.val res }

/-- A compare: its sources always block (R44), and each executing thread writes its guard. -/
def compare (s : State) (h : Head) (k : Bool) (gd : Fin 16) (uses : List Use) (f : Nat → List Word → Bool) : Outcome :=
  onIssue s fun c s =>
    begin s c h uses [] fun lanes s =>
      lanes.foldl (fun s l => s.setGuard c l k gd (f (s.contractNo c.f) (c.values l uses))) s

/-- ICMP (R111). -/
def execIcmp (h : Head) (k : Bool) (gd : Fin 16) (cc : Fin 8) (a b : Reg) (s : State) : Outcome :=
  compare s h k gd [plain a, plain b] fun _ xs => intCond cc (x0 xs) (x1 xs)

/-- ICMPI (R111). -/
def execIcmpi (h : Head) (k : Bool) (gd : Fin 16) (cc : Fin 8) (a : Reg) (imm : Int) (s : State) : Outcome :=
  compare s h k gd [plain a] fun _ xs => intCond cc (x0 xs) (BitVec.ofInt 32 imm)

/-- FCMP (R111). -/
def execFcmp (h : Head) (k : Bool) (gd : Fin 16) (cc : Fin 8) (a b : Reg) (s : State) : Outcome :=
  compare s h k gd [plain a, plain b] fun cn xs =>
    floatCond cc (flushIn (contractOf cn) .fp32 (f32 (x0 xs))) (flushIn (contractOf cn) .fp32 (f32 (x1 xs)))

/-- PLOP (R112). -/
def execPlop (h : Head) (gd ga gb tt : Fin 16) (s : State) : Outcome :=
  onIssue s fun c s =>
    begin s c h [] [] fun lanes s =>
      lanes.foldl (fun s l =>
        let t := c.snap.thread l
        s.setGuard c l false gd (truthTable tt (t.g.getLsbD ga.val) (t.g.getLsbD gb.val))) s

/-- PMOV (R113). -/
def execPmov (h : Head) (d : Reg) (a b : Src) (s : State) : Outcome :=
  onIssue s fun c s =>
    beginAll s c h [one a, one b] [d] fun all lanes s =>
      let s := lanes.foldl (fun s l =>
        let v : BitVec 16 := (c.snap.get l a.reg).setWidth 16
        let m : BitVec 16 := (c.snap.get l b.reg).setWidth 16
        let s := s.modThread c.f c.m c.u l fun t => { t with g := (t.g &&& ~~~m) ||| (v &&& m) }
        if d.isW then s else s.give c l d 1 [(c.snap.thread l).g.setWidth 32]) s
      if d.isW then s.give c (lowest lanes) d 1 [(c.snap.thread (lowest all)).g.setWidth 32] else s

end Sys2Proof.Machine
end

