-- ==== Sys2Proof/Machine/Special.lean ====
section
/-! DEFINITION. Special and control registers (01 R17, R18; 04 R131-R134). -/
namespace Sys2Proof.Machine
open Sys2Proof

/-- The data base of a kernel (R68). -/
def Launch.dataBase (l : Launch) : Nat := roundUp (l.code + 4 * l.codelen) 4096

/-- The value of a special register for a thread (R132, R149, R156, R159). -/
def State.special (s : State) (c : Issue) (lane n : Nat) : Word :=
  let t := c.snap.thread lane
  match s.flock? c.f, s.wg? c.f c.m with
  | some fl, some wg =>
    let l := fl.launch
    let warp := if c.isHerder then 0 else c.u
    let x : Nat := match n with
      | 0 => if c.isHerder then 0 else 32 * warp + lane
      | 1 => if c.isHerder then 0 else lane
      | 2 => warp
      | 3 => l.wg
      | 4 => wg.member
      | 5 => wg.stage
      | 6 => l.m
      | 7 => l.s
      | 8 => fl.x
      | 9 => fl.y
      | 10 => fl.z
      | 11 => l.nx
      | 12 => l.ny
      | 13 => wg.core
      | 14 => wg.core / 8
      | 15 => l.contract
      | 16 => s.cycle
      | 17 => t.clockhi.toNat
      | 18 => t.trapcause.toNat
      | 19 => t.trappc.toNat
      | 20 => t.trapaddr.toNat
      | 21 => t.trapaddr.toNat / 2 ^ 32
      | 22 => s.device.rank
      | 23 => fl.p
      | 24 => contractCap.toNat
      | 25 => match l.pool with | some k => k | none => 0xFFFFFFFF
      | 26 => l.dataBase
      | _ => l.dataBase / 2 ^ 32
    BitVec.ofNat 32 x
  | _, _ => 0

/-- The value of a control register (R17, R18). -/
def Issue.control (c : Issue) (lane n : Nat) : Word :=
  let t := c.snap.thread lane
  match n with
  | 0 => t.trapvec
  | 1 => t.trapen
  | 2 => c.snap.fairness.setWidth 32
  | 3 => c.snap.joinlim.setWidth 32
  | 4 => Word.ofBool c.snap.progress
  | _ => t.srseed

/-- Whether a pipe-F result of a thread has still to land (R102). -/
def State.pipeFPending (s : State) (c : Issue) (lane : Nat) : Bool :=
  (s.landings.any fun l => l.pipeF && l.f == c.f && l.m == c.m && l.u == c.u && l.lanes.contains lane) ||
  (s.randoms.any fun r => r.convert.isSome && r.f == c.f && r.m == c.m && r.u == c.u && r.lanes.contains lane)

/-- A write to a control register (R18, R134). -/
def State.writeControl (s : State) (c : Issue) (lane n : Nat) (x : Word) : State :=
  match n with
  | 0 => s.modThread c.f c.m c.u lane fun t => { t with trapvec := x &&& 0xFFFFFF }
  | 1 => s.modThread c.f c.m c.u lane fun t => { t with trapen := trapenWrite t.trapen x }
  | 2 => s.modUnit c.f c.m c.u fun w => { w with fairness := if (x.setWidth 16 : BitVec 16).toNat < 64 then 64 else x.setWidth 16 }
  | 3 => s.modUnit c.f c.m c.u fun w => { w with joinlim := x.setWidth 16 }
  | 5 => s.modThread c.f c.m c.u lane fun t => { t with srseed := x }
  | _ => s

/-- MOVS (R131-R133): a CLOCKLO read latches the high half for the reading thread. -/
def execMovs (h : Head) (n : Nat) (d : Reg) (s : State) : Outcome :=
  onIssue s fun c s => beginAll s c h [] [d] fun all lanes s =>
    let readers := if d.isW then [lowest all] else lanes
    readers.foldl (fun s l =>
      let s' := s.give c l d 1 [s.special c l n]
      if n = 16 && lanes.contains l then s'.modThread c.f c.m c.u l fun t => { t with clockhi := BitVec.ofNat 32 (s.cycle / 2 ^ 32) } else s') s

/-- MOVC, read form (R134); TRAPEN waits for earlier pipe-F words (R102). A uniform read of a register that each thread has takes the
lowest-TID executing thread's (log 95). -/
def execMovcRead (h : Head) (r : Nat) (d : Reg) (s : State) : Outcome :=
  onIssue s fun c s => beginAll s c h [] [d] fun all lanes s =>
    if !c.going && r = 1 && lanes.any (s.pipeFPending c) then s.block
    else (if d.isW then [lowest all] else lanes).foldl (fun s l => s.give c l d 1 [c.control l r]) s

/-- MOVC, write form (R134); a per-warp register keeps the value of the highest TID (R17). -/
def execMovcWrite (h : Head) (r : Nat) (a : Src) (s : State) : Outcome :=
  onIssue s fun c s => begin s c h [one a] [] fun lanes s =>
    if !c.going && r = 1 && lanes.any (s.pipeFPending c) then s.block
    else lanes.foldl (fun s l => s.writeControl c l r (c.snap.get l a.reg)) s

end Sys2Proof.Machine
end

