-- ==== Sys2Proof/Machine/Tag.lean ====
section
/-! DEFINITION. The tag table, granule bits and prefetch (09 R213, R214; 10 R253-R257). -/
namespace Sys2Proof.Machine
open Sys2Proof

/-- The fields of a tag entry (R213). -/
def tagKey (e : DWord) : Word := (e >>> 32).setWidth 32
def tagValid (e : DWord) : Bool := e.getLsbD 31
def tagPin (e : DWord) : Bool := e.getLsbD 30
def useOf (e : DWord) : Nat := e.toNat % 2 ^ 30
def tagEntry (key : Word) (v pin : Bool) (use : BitVec 30) : DWord :=
  BitVec.ofNat 64 (key.toNat * 2 ^ 32 + (if v then 2 ^ 31 else 0) + (if pin then 2 ^ 30 else 0) + use.toNat)

/-- The suggested victim (R214). -/
def victim (tags : List DWord) : Option Nat :=
  match tags.findIdx? fun e => !tagValid e with
  | some k => some k
  | none =>
    let free := tags.zipIdx.filter fun q => !tagPin q.1
    match free with
    | [] => none
    | q :: rest => some (rest.foldl (fun b r => if useOf r.1 < useOf b.1 then r else b) q).2

/-- TAGQ on a workgroup (R253): the new workgroup and the result word. -/
def Workgroup.tagLookup (wg : Workgroup) (key : Word) : Workgroup × Word :=
  match wg.tags.findIdx? fun e => tagValid e && tagKey e == key with
  | some k =>
    let use := wg.tagUse + 1
    ({ wg with tagUse := use, tags := modifyNth (fun e => tagEntry (tagKey e) true (tagPin e) use) k wg.tags },
      BitVec.ofNat 32 (2 ^ 31 + k))
  | none =>
    (wg, match victim wg.tags with
      | some k => BitVec.ofNat 32 (k * 256)
      | none => BitVec.ofNat 32 (2 ^ 30))

/-- TAGW on a workgroup (R254): the new workgroup and the entry as it was. -/
def Workgroup.tagWrite (wg : Workgroup) (slot : Nat) (v pin : Bool) (key : Word) : Workgroup × DWord :=
  let use := wg.tagUse + 1
  let old := nth 0 wg.tags slot
  let others := wg.tags.map fun e =>
    if v && tagValid e && tagKey e == key then tagEntry (tagKey e) false (tagPin e) (BitVec.ofNat 30 (useOf e)) else e
  ({ wg with tagUse := use, tags := modifyNth (fun _ => tagEntry key v pin use) slot others }, old)

/-- Whether a tag entry of a workgroup has failing check bits (R342). -/
def State.badTag (s : State) (c : Issue) : Bool :=
  !s.bad.isEmpty && s.bad.any fun b => match b with | .tag f m _ => f == c.f && m == c.m | _ => false

/-- A tag operation of one thread, or of a uniform word; lookups consume every entry, a bad one aborts (R342). -/
def tagWord (s : State) (h : Head) (uses : List Use) (d : Reg) (n : Nat) (op : Workgroup → List Word → Option (Workgroup × List Word))
    (slot : List Word → DWord) : Outcome :=
  onIssue s fun c s => begin s c h uses (regSpan d n) fun lanes s =>
    let one (lanes : List Nat) (s : State) : State :=
      let xs := c.values (lowest lanes) uses
      if s.badTag c then s.trapLanes lanes causeUncorr 0
      else match s.wg? c.f c.m with
        | some wg =>
          match op wg xs with
          | some (wg', vals) => (s.modWg c.f c.m fun _ => wg').give c (lowest lanes) d n vals
          | none => s.trapLanes lanes causeProtfault (slot xs)
        | none => s
    if d.isW then one lanes s else lanes.foldl (fun s l => one [l] s) s

/-- FEST on the granules of a target (R256): their old bits, then the action. -/
def State.fest (s : State) (f tm off n action : Nat) : Word × State :=
  let old := (List.range n).foldl (fun a i => if s.granuleFull f tm (off + 16 * i) then a + 2 ^ i else a) 0
  let s := (List.range n).foldl (fun s i =>
    if action = 1 then s.fillGranule f tm (off + 16 * i)
    else if action = 2 then s.setGranule f tm (off + 16 * i) false else s) s
  (BitVec.ofNat 32 old, s)

/-- TAGQ (R253). -/
def execTagq (h : Head) (d : Reg) (a : Src) (s : State) : Outcome :=
  tagWord s h [one a] d 1 (fun wg xs => let r := wg.tagLookup (x0 xs); some (r.1, [r.2])) fun _ => 0

/-- TAGW (R254): PROTFAULT at or above the workgroup's count of slots. -/
def execTagw (h : Head) (d : Reg) (a b : Src) (s : State) : Outcome :=
  tagWord s h [one a, one b] d 2 (fun wg xs =>
      let k := bitsOf (x0 xs).toNat 7 0
      if wg.tags.length ≤ k then none
      else let r := wg.tagWrite k ((x0 xs).getLsbD 8) ((x0 xs).getLsbD 9) (x1 xs); some (r.1, dwords r.2))
    fun xs => BitVec.ofNat 64 (bitsOf (x0 xs).toNat 7 0)

/-- FEST (R256): QUALBAD at a global address; the range must lie below SCRATCH. -/
def execFest (h : Head) (d : Reg) (a b : Src) (s : State) : Outcome :=
  memoryWord s h [pair a, one b] [d] d.isW fun c lanes xs s =>
    let va := dword (x0 xs) (x1 xs)
    let n := bitsOf (x2 xs).toNat 12 8 + 1
    if va.toNat % 16 ≠ 0 then s.trapLanes lanes causeAlign va
    else if va.toNat < 0x00FD000000000000 then s.trapLanes lanes causeQualbad va
    else s.access c lanes va 16 0 .write fun at_ s =>
      match at_ with
      | .scratch tm off =>
        let top := match s.launchOf c.f with | some l => l.scratch | none => 0
        if top < off + 16 * n then s.trapLanes lanes causeProtfault va
        else
          let (old, s) := s.fest c.f tm off n (bitsOf (x2 xs).toNat 1 0)
          s.launchResult c lanes d 1 [old] false false false
      | .page _ => s.trapLanes lanes causeQualbad va

/-- The L2 of its home die takes a line that a thread of flock f asks for, or the map word and chunks of its block; one without a translation that
may be read, in a window or of the host's memory is not fetched (R257). -/
def State.prefetch (s : State) (f va : Nat) : State :=
  if 0x00FD000000000000 ≤ va then s
  else
    let s := s.lookAt f (BitVec.ofNat 64 va)
    match s.translateOnce (s.ownerOf f) va .read with
    | .leaf l => if (s.hostAt l va).isSome then s else s.touchOnce (s.ownerOf f) l false va 128
    | _ => s

/-- PREF (R257): the lines from the address's on are filled; nothing else changes, and its sources block or trap as any other's. -/
def execPref (h : Head) (a b : Src) (s : State) : Outcome :=
  onIssue s fun c s => begin s c h [pair a, one b] [] fun lanes s =>
    lanes.foldl (fun s l =>
      let xs := c.values l [pair a, one b]
      (List.range (bitsOf (x2 xs).toNat 3 0 + 1)).foldl (fun s k => s.prefetch c.f ((dword (x0 xs) (x1 xs)).toNat / 128 * 128 + 128 * k)) s) s

end Sys2Proof.Machine
end

