-- ==== Sys2Proof/Machine/WarpOps.lean ====
section
/-! DEFINITION. Warp queries, shuffles and reductions (06_parallel_instructions.md R162, R166-R169). -/
namespace Sys2Proof.Machine
open Sys2Proof

/-- A word whose destination takes one value from all executing threads: in each of them, or once (R166). -/
def collective (s : State) (h : Head) (uses : List Use) (d : Reg) (f : Nat → List (Nat × Word) → Out) : Outcome :=
  onIssue s fun c s => beginAll s c h uses [d] fun all lanes s =>
    let o := f (s.contractNo c.f) (all.map fun l => (l, x0 (c.values l uses)))
    match floatCause (all.map c.snap.thread) o.fmtbad o.inv o.ovf with
    | some cause => s.trapLanes lanes cause 0
    | none =>
      let s := (if d.isW then [lowest lanes] else lanes).foldl (fun s l => s.give c l d 1 o.vals) s
      s.stick c lanes o.inv o.ovf false

/-- A collective result that raises nothing. -/
def gathers (f : List (Nat × Word) → Word) : Nat → List (Nat × Word) → Out := fun _ xs => ⟨[f xs], false, false, false⟩

/-- The lanes whose value is not 0. -/
def nonzero (xs : List (Nat × Word)) : List Nat := (xs.filter fun q => q.2 ≠ 0).map Prod.fst

/-- A fold of a reduction over the values, in ascending lane order. -/
def reduceWith (f : Word → Word → Word) : List (Nat × Word) → Word
  | [] => 0
  | q :: rest => rest.foldl (fun a r => f a r.2) q.2

/-- One node of the FADD tree (R169). -/
def addNode (c : Contract) (a b : FRes) : FRes :=
  let r := fadd c .fp32 a.v b.v
  ⟨r.v, a.inv || b.inv || r.inv, a.ovf || b.ovf || r.ovf⟩
/-- WRED.FADD: the pairwise tree, a single value subject to R84 (R169). -/
def reduceAdd (cn : Nat) (xs : List (Nat × Word)) : Out :=
  let c := contractOf cn
  let leaves := xs.map fun q => (⟨flushIn c .fp32 (f32 q.2), false, false⟩ : FRes)
  match pairTree (addNode c) 6 leaves with
  | r :: _ => ⟨[w32 r.v], r.inv, r.ovf, false⟩
  | [] => ⟨[0], false, false, false⟩
/-- WRED.FMIN and WRED.FMAX over the same tree; a list of one value gives that value (R169). -/
def reduceMinMax (f : Contract → Fmt → Val → Val → Val) (cn : Nat) (xs : List (Nat × Word)) : Out :=
  match xs with
  | [q] => ⟨[q.2], false, false, false⟩
  | _ =>
    match pairTree (f (contractOf cn) .fp32) 6 (xs.map fun q => f32 q.2) with
    | v :: _ => ⟨[w32 v], false, false, false⟩
    | [] => ⟨[0], false, false, false⟩

/-- The lane a shuffle takes its value from; none when there is no such lane (R168). -/
def sourceLane (mode i : Nat) (b : Word) : Option Nat :=
  match mode with
  | 0 => some (b.toNat % 32)
  | 1 => if b.toNat ≤ i then some (i - b.toNat) else none
  | 2 => if i + b.toNat ≤ 31 then some (i + b.toNat) else none
  | _ => some (i ^^^ b.toNat % 32)

/-- SHFL (R168). -/
def shuffle (mode : Nat) (s : State) (h : Head) (d : Reg) (a : Src) (b : Reg) : Outcome :=
  onIssue s fun c s => beginAll s c h [one a, plain b] [d] fun all lanes s =>
    let value (l : Nat) : Word :=
      match sourceLane mode l (c.snap.get l b) with
      | some j => if all.contains j then c.snap.get j a.reg else c.snap.get l a.reg
      | none => c.snap.get l a.reg
    if d.isW then s.give c (lowest lanes) d 1 [c.snap.get (lowest all) a.reg]
    else lanes.foldl (fun s l => s.give c l d 1 [value l]) s

/-- VANY (R166). -/
def execVany (h : Head) (d : Reg) (a : Src) (s : State) : Outcome :=
  collective s h [one a] d (gathers fun xs => Word.ofBool (!(nonzero xs).isEmpty))

/-- VALL (R166). -/
def execVall (h : Head) (d : Reg) (a : Src) (s : State) : Outcome :=
  collective s h [one a] d (gathers fun xs => Word.ofBool (xs.all fun q => q.2 ≠ 0))

/-- BALLOT (R166). -/
def execBallot (h : Head) (d : Reg) (a : Src) (s : State) : Outcome :=
  collective s h [one a] d (gathers fun xs => BitVec.ofNat 32 (laneMask (nonzero xs)))

/-- ACTM (R166). -/
def execActm (h : Head) (d : Reg) (s : State) : Outcome :=
  collective s h [] d (gathers fun xs => BitVec.ofNat 32 (laneMask (xs.map Prod.fst)))

/-- FIRST (R166). -/
def execFirst (h : Head) (d : Reg) (a : Src) (s : State) : Outcome :=
  collective s h [one a] d (gathers fun xs => match xs with | q :: _ => q.2 | [] => 0)

/-- COUNT (R166). -/
def execCount (h : Head) (d : Reg) (a : Src) (s : State) : Outcome :=
  collective s h [one a] d (gathers fun xs => BitVec.ofNat 32 (nonzero xs).length)

/-- SHFL.IDX (R168). -/
def execShflIdx (h : Head) (d : Reg) (a : Src) (b : Reg) (s : State) : Outcome :=
  shuffle 0 s h d a b

/-- SHFL.UP (R168). -/
def execShflUp (h : Head) (d : Reg) (a : Src) (b : Reg) (s : State) : Outcome :=
  shuffle 1 s h d a b

/-- SHFL.DOWN (R168). -/
def execShflDown (h : Head) (d : Reg) (a : Src) (b : Reg) (s : State) : Outcome :=
  shuffle 2 s h d a b

/-- SHFL.XOR (R168). -/
def execShflXor (h : Head) (d : Reg) (a : Src) (b : Reg) (s : State) : Outcome :=
  shuffle 3 s h d a b

/-- WRED.ADD (R169). -/
def execWredAdd (h : Head) (d : Reg) (a : Src) (s : State) : Outcome :=
  collective s h [one a] d (gathers (reduceWith (· + ·)))

/-- WRED.MIN (R169). -/
def execWredMin (h : Head) (d : Reg) (a : Src) (s : State) : Outcome :=
  collective s h [one a] d (gathers (reduceWith (minWord false)))

/-- WRED.MAX (R169). -/
def execWredMax (h : Head) (d : Reg) (a : Src) (s : State) : Outcome :=
  collective s h [one a] d (gathers (reduceWith (maxWord false)))

/-- WRED.MINU (R169). -/
def execWredMinu (h : Head) (d : Reg) (a : Src) (s : State) : Outcome :=
  collective s h [one a] d (gathers (reduceWith (minWord true)))

/-- WRED.MAXU (R169). -/
def execWredMaxu (h : Head) (d : Reg) (a : Src) (s : State) : Outcome :=
  collective s h [one a] d (gathers (reduceWith (maxWord true)))

/-- WRED.AND (R169). -/
def execWredAnd (h : Head) (d : Reg) (a : Src) (s : State) : Outcome :=
  collective s h [one a] d (gathers (reduceWith (· &&& ·)))

/-- WRED.OR (R169). -/
def execWredOr (h : Head) (d : Reg) (a : Src) (s : State) : Outcome :=
  collective s h [one a] d (gathers (reduceWith (· ||| ·)))

/-- WRED.XOR (R169). -/
def execWredXor (h : Head) (d : Reg) (a : Src) (s : State) : Outcome :=
  collective s h [one a] d (gathers (reduceWith (· ^^^ ·)))

/-- WRED.FADD (R169). -/
def execWredFadd (h : Head) (d : Reg) (a : Src) (s : State) : Outcome :=
  collective s h [one a] d reduceAdd

/-- WRED.FMIN (R169). -/
def execWredFmin (h : Head) (d : Reg) (a : Src) (s : State) : Outcome :=
  collective s h [one a] d (reduceMinMax fmin)

/-- WRED.FMAX (R169). -/
def execWredFmax (h : Head) (d : Reg) (a : Src) (s : State) : Outcome :=
  collective s h [one a] d (reduceMinMax fmax)

end Sys2Proof.Machine
end

