-- ==== Sys2Proof/Machine/Dispatch.lean ====
section
/-! DEFINITION. The meaning of every instruction, one arm per constructor. -/
namespace Sys2Proof.Machine
open Sys2Proof

def exec (i : Instr) (s : State) : Host.Outcome State Fault Refusal :=
  match i with
  | .iadd h d a b => Sys2Proof.Machine.execIadd h d a b s
  | .isub h d a b => Sys2Proof.Machine.execIsub h d a b s
  | .imul h d a b => Sys2Proof.Machine.execImul h d a b s
  | .imulh h m d a b => Sys2Proof.Machine.execImulh h m d a b s
  | .imad h d a b c => Sys2Proof.Machine.execImad h d a b c s
  | .imin h m d a b => Sys2Proof.Machine.execImin h m d a b s
  | .imax h m d a b => Sys2Proof.Machine.execImax h m d a b s
  | .and h d a b => Sys2Proof.Machine.execAnd h d a b s
  | .or h d a b => Sys2Proof.Machine.execOr h d a b s
  | .xor h d a b => Sys2Proof.Machine.execXor h d a b s
  | .andn h d a b => Sys2Proof.Machine.execAndn h d a b s
  | .shl h d a b => Sys2Proof.Machine.execShl h d a b s
  | .shr h d a b => Sys2Proof.Machine.execShr h d a b s
  | .sar h d a b => Sys2Proof.Machine.execSar h d a b s
  | .rotl h d a b => Sys2Proof.Machine.execRotl h d a b s
  | .fshr h d a b c => Sys2Proof.Machine.execFshr h d a b c s
  | .bfe h m d a b => Sys2Proof.Machine.execBfe h m d a b s
  | .bfi h d a b c => Sys2Proof.Machine.execBfi h d a b c s
  | .bshuf h d a b c => Sys2Proof.Machine.execBshuf h d a b c s
  | .sel chain g sense d a b => Sys2Proof.Machine.execSel chain g sense d a b s
  | .iadd64 h d a b => Sys2Proof.Machine.execIadd64 h d a b s
  | .lea64 chain n d a b => Sys2Proof.Machine.execLea64 chain n d a b s
  | .lea64s chain n d a b => Sys2Proof.Machine.execLea64s chain n d a b s
  | .mov h d a => Sys2Proof.Machine.execMov h d a s
  | .not h d a => Sys2Proof.Machine.execNot h d a s
  | .ineg h d a => Sys2Proof.Machine.execIneg h d a s
  | .iabs h d a => Sys2Proof.Machine.execIabs h d a s
  | .popc h d a => Sys2Proof.Machine.execPopc h d a s
  | .clz h d a => Sys2Proof.Machine.execClz h d a s
  | .brev h d a => Sys2Proof.Machine.execBrev h d a s
  | .ctz h d a => Sys2Proof.Machine.execCtz h d a s
  | .addi h d a imm => Sys2Proof.Machine.execAddi h d a imm s
  | .andi h d a imm => Sys2Proof.Machine.execAndi h d a imm s
  | .ori h d a imm => Sys2Proof.Machine.execOri h d a imm s
  | .xori h d a imm => Sys2Proof.Machine.execXori h d a imm s
  | .shli h d a imm => Sys2Proof.Machine.execShli h d a imm s
  | .shri h d a imm => Sys2Proof.Machine.execShri h d a imm s
  | .sari h d a imm => Sys2Proof.Machine.execSari h d a imm s
  | .muli h d a imm => Sys2Proof.Machine.execMuli h d a imm s
  | .movi h d imm => Sys2Proof.Machine.execMovi h d imm s
  | .movl h d lit => Sys2Proof.Machine.execMovl h d lit s
  | .icmp h k gd cc a b => Sys2Proof.Machine.execIcmp h k gd cc a b s
  | .icmpi h k gd cc a imm => Sys2Proof.Machine.execIcmpi h k gd cc a imm s
  | .fcmp h k gd cc a b => Sys2Proof.Machine.execFcmp h k gd cc a b s
  | .plop h gd ga gb tt => Sys2Proof.Machine.execPlop h gd ga gb tt s
  | .pmov h d a b => Sys2Proof.Machine.execPmov h d a b s
  | .fadd h d a b => Sys2Proof.Machine.execFadd h d a b s
  | .fsub h d a b => Sys2Proof.Machine.execFsub h d a b s
  | .fmul h d a b => Sys2Proof.Machine.execFmul h d a b s
  | .ffma h d a b c => Sys2Proof.Machine.execFfma h d a b c s
  | .fmin h d a b => Sys2Proof.Machine.execFmin h d a b s
  | .fmax h d a b => Sys2Proof.Machine.execFmax h d a b s
  | .frndNe h d a => Sys2Proof.Machine.execFrndNe h d a s
  | .frndFl h d a => Sys2Proof.Machine.execFrndFl h d a s
  | .frndCe h d a => Sys2Proof.Machine.execFrndCe h d a s
  | .frndTr h d a => Sys2Proof.Machine.execFrndTr h d a s
  | .hadd2 h m d a b => Sys2Proof.Machine.execHadd2 h m d a b s
  | .hmul2 h m d a b => Sys2Proof.Machine.execHmul2 h m d a b s
  | .hfma2 h m d a b c => Sys2Proof.Machine.execHfma2 h m d a b c s
  | .hmin2 h m d a b => Sys2Proof.Machine.execHmin2 h m d a b s
  | .hmax2 h m d a b => Sys2Proof.Machine.execHmax2 h m d a b s
  | .rcp h d a => Sys2Proof.Machine.execRcp h d a s
  | .rsq h d a => Sys2Proof.Machine.execRsq h d a s
  | .sqrt h d a => Sys2Proof.Machine.execSqrt h d a s
  | .exp2 h d a => Sys2Proof.Machine.execExp2 h d a s
  | .log2 h d a => Sys2Proof.Machine.execLog2 h d a s
  | .sin h d a => Sys2Proof.Machine.execSin h d a s
  | .cos h d a => Sys2Proof.Machine.execCos h d a s
  | .tanh h d a => Sys2Proof.Machine.execTanh h d a s
  | .cvt h code d a => Sys2Proof.Machine.execCvt h code d a s
  | .cvtsr chain k m d a => Sys2Proof.Machine.execCvtsr chain k m d a s
  | .fpack h d a b => Sys2Proof.Machine.execFpack h d a b s
  | .funpk h code d a => Sys2Proof.Machine.execFunpk h code d a s
  | .qexp h d a b => Sys2Proof.Machine.execQexp h d a b s
  | .qcvt h d a b => Sys2Proof.Machine.execQcvt h d a b s
  | .bra h off => Sys2Proof.Machine.execBra h off s
  | .brx h a => Sys2Proof.Machine.execBrx h a s
  | .call h off => Sys2Proof.Machine.execCall h off s
  | .ret h => Sys2Proof.Machine.execRet h s
  | .join h => Sys2Proof.Machine.execJoin h s
  | .yield h => Sys2Proof.Machine.execYield h s
  | .exit h => Sys2Proof.Machine.execExit h s
  | .trap h code => Sys2Proof.Machine.execTrap h code s
  | .tret h => Sys2Proof.Machine.execTret h s
  | .bkpt h code => Sys2Proof.Machine.execBkpt h code s
  | .nop h => Sys2Proof.Machine.execNop h s
  | .movs h n d => Sys2Proof.Machine.execMovs h n d s
  | .movcRead h r d => Sys2Proof.Machine.execMovcRead h r d s
  | .movcWrite h r a => Sys2Proof.Machine.execMovcWrite h r a s
  | .brdq h off => Sys2Proof.Machine.execBrdq h off s
  | .dqpush h a => Sys2Proof.Machine.execDqpush h a s
  | .dqpop h d => Sys2Proof.Machine.execDqpop h d s
  | .ldb h q d a off => Sys2Proof.Machine.execLdb h q d a off s
  | .ldbs h q d a off => Sys2Proof.Machine.execLdbs h q d a off s
  | .ldh h q d a off => Sys2Proof.Machine.execLdh h q d a off s
  | .ldhs h q d a off => Sys2Proof.Machine.execLdhs h q d a off s
  | .ldw h q d a off => Sys2Proof.Machine.execLdw h q d a off s
  | .ldd h q d a off => Sys2Proof.Machine.execLdd h q d a off s
  | .ldq h q d a off => Sys2Proof.Machine.execLdq h q d a off s
  | .stb h q a off src => Sys2Proof.Machine.execStb h q a off src s
  | .sth h q a off src => Sys2Proof.Machine.execSth h q a off src s
  | .stw h q a off src => Sys2Proof.Machine.execStw h q a off src s
  | .std h q a off src => Sys2Proof.Machine.execStd h q a off src s
  | .stq h q a off src => Sys2Proof.Machine.execStq h q a off src s
  | .atomiAdd h d a b => Sys2Proof.Machine.execAtomiAdd h d a b s
  | .atomiMin h d a b => Sys2Proof.Machine.execAtomiMin h d a b s
  | .atomiMax h d a b => Sys2Proof.Machine.execAtomiMax h d a b s
  | .atomiMinu h d a b => Sys2Proof.Machine.execAtomiMinu h d a b s
  | .atomiMaxu h d a b => Sys2Proof.Machine.execAtomiMaxu h d a b s
  | .atomiAnd h d a b => Sys2Proof.Machine.execAtomiAnd h d a b s
  | .atomiOr h d a b => Sys2Proof.Machine.execAtomiOr h d a b s
  | .atomiXor h d a b => Sys2Proof.Machine.execAtomiXor h d a b s
  | .atomfFadd h d a b => Sys2Proof.Machine.execAtomfFadd h d a b s
  | .atomfFmin h d a b => Sys2Proof.Machine.execAtomfFmin h d a b s
  | .atomfFmax h d a b => Sys2Proof.Machine.execAtomfFmax h d a b s
  | .atomfBfadd2 h d a b => Sys2Proof.Machine.execAtomfBfadd2 h d a b s
  | .atomfHadd2 h d a b => Sys2Proof.Machine.execAtomfHadd2 h d a b s
  | .atomfXchg h d a b => Sys2Proof.Machine.execAtomfXchg h d a b s
  | .cas h d a b c => Sys2Proof.Machine.execCas h d a b c s
  | .ldx h mask d a => Sys2Proof.Machine.execLdx h mask d a s
  | .stx h mask a b => Sys2Proof.Machine.execStx h mask a b s
  | .fence h mask => Sys2Proof.Machine.execFence h mask s
  | .tagq h d a => Sys2Proof.Machine.execTagq h d a s
  | .tagw h d a b => Sys2Proof.Machine.execTagw h d a b s
  | .fest h d a b => Sys2Proof.Machine.execFest h d a b s
  | .pref h a b => Sys2Proof.Machine.execPref h a b s
  | .vany h d a => Sys2Proof.Machine.execVany h d a s
  | .vall h d a => Sys2Proof.Machine.execVall h d a s
  | .ballot h d a => Sys2Proof.Machine.execBallot h d a s
  | .actm h d => Sys2Proof.Machine.execActm h d s
  | .first h d a => Sys2Proof.Machine.execFirst h d a s
  | .count h d a => Sys2Proof.Machine.execCount h d a s
  | .wsync h => Sys2Proof.Machine.execWsync h s
  | .shflIdx h d a b => Sys2Proof.Machine.execShflIdx h d a b s
  | .shflUp h d a b => Sys2Proof.Machine.execShflUp h d a b s
  | .shflDown h d a b => Sys2Proof.Machine.execShflDown h d a b s
  | .shflXor h d a b => Sys2Proof.Machine.execShflXor h d a b s
  | .wredAdd h d a => Sys2Proof.Machine.execWredAdd h d a s
  | .wredMin h d a => Sys2Proof.Machine.execWredMin h d a s
  | .wredMax h d a => Sys2Proof.Machine.execWredMax h d a s
  | .wredMinu h d a => Sys2Proof.Machine.execWredMinu h d a s
  | .wredMaxu h d a => Sys2Proof.Machine.execWredMaxu h d a s
  | .wredAnd h d a => Sys2Proof.Machine.execWredAnd h d a s
  | .wredOr h d a => Sys2Proof.Machine.execWredOr h d a s
  | .wredXor h d a => Sys2Proof.Machine.execWredXor h d a s
  | .wredFadd h d a => Sys2Proof.Machine.execWredFadd h d a s
  | .wredFmin h d a => Sys2Proof.Machine.execWredFmin h d a s
  | .wredFmax h d a => Sys2Proof.Machine.execWredFmax h d a s
  | .hurdle h n => Sys2Proof.Machine.execHurdle h n s
  | .hurdleF h n => Sys2Proof.Machine.execHurdleF h n s
  | .arrive h d a => Sys2Proof.Machine.execArrive h d a s
  | .await h a b => Sys2Proof.Machine.execAwait h a b s
  | .prog h a => Sys2Proof.Machine.execProg h a s
  | .cont h a b => Sys2Proof.Machine.execCont h a b s
  | .gang h a => Sys2Proof.Machine.execGang h a s
  | .qpush h a => Sys2Proof.Machine.execQpush h a s
  | .qpop h n d => Sys2Proof.Machine.execQpop h n d s
  | .mma h z t tile a b => Sys2Proof.Machine.execMma h z t tile a b s
  | .mlut h z t tile a b => Sys2Proof.Machine.execMlut h z t tile a b s
  | .mzero h t tile => Sys2Proof.Machine.execMzero h t tile s
  | .mload h m t tile a => Sys2Proof.Machine.execMload h m t tile a s
  | .mstore h m t tile a => Sys2Proof.Machine.execMstore h m t tile a s
  | .mstoresr chain k t tile a => Sys2Proof.Machine.execMstoresr chain k t tile a s
  | .mstoresrGuarded chain g t tile a => Sys2Proof.Machine.execMstoresrGuarded chain g t tile a s
  | .xform h a b => Sys2Proof.Machine.execXform h a b s
  | .post h a b => Sys2Proof.Machine.execPost h a b s
  | .tlwait h d a => Sys2Proof.Machine.execTlwait h d a s
  | .tlread h d a => Sys2Proof.Machine.execTlread h d a s
  | .bwaitFull h a => Sys2Proof.Machine.execBwaitFull h a s
  | .bwaitFree h a => Sys2Proof.Machine.execBwaitFree h a s
  | .bstate h d a => Sys2Proof.Machine.execBstate h d a s
  | .brel h a => Sys2Proof.Machine.execBrel h a s
  | .boinit h d a => Sys2Proof.Machine.execBoinit h d a s
  | .boarr h d a => Sys2Proof.Machine.execBoarr h d a s
  | .boexp h d a => Sys2Proof.Machine.execBoexp h d a s
  | .botest h d a => Sys2Proof.Machine.execBotest h d a s
  | .bowait h a => Sys2Proof.Machine.execBowait h a s
  | .crkLdf d f => Sys2Proof.Machine.execCrkLdf d f s
  | .crkLdg d g => Sys2Proof.Machine.execCrkLdg d g s
  | .crkLdi d imm => Sys2Proof.Machine.execCrkLdi d imm s
  | .crkAdd d a b => Sys2Proof.Machine.execCrkAdd d a b s
  | .crkSub d a b => Sys2Proof.Machine.execCrkSub d a b s
  | .crkMul d a b => Sys2Proof.Machine.execCrkMul d a b s
  | .crkMin d a b => Sys2Proof.Machine.execCrkMin d a b s
  | .crkMax d a b => Sys2Proof.Machine.execCrkMax d a b s
  | .crkAnd d a b => Sys2Proof.Machine.execCrkAnd d a b s
  | .crkOr d a b => Sys2Proof.Machine.execCrkOr d a b s
  | .crkShl d a b => Sys2Proof.Machine.execCrkShl d a b s
  | .crkShr d a b => Sys2Proof.Machine.execCrkShr d a b s
  | .crkClt d a b => Sys2Proof.Machine.execCrkClt d a b s
  | .crkCeq d a b => Sys2Proof.Machine.execCrkCeq d a b s
  | .crkBf a off => Sys2Proof.Machine.execCrkBf a off s
  | .crkBnf a off => Sys2Proof.Machine.execCrkBnf a off s
  | .crkScore a => Sys2Proof.Machine.execCrkScore a s
  | .crkVerdict v => Sys2Proof.Machine.execCrkVerdict v s
  | .crkHalt => Sys2Proof.Machine.execCrkHalt s
  | .resultLand => Sys2Proof.Machine.execResultLand s
  | .randomWordDelivery => Sys2Proof.Machine.execRandomWordDelivery s
  | .joinlimExpiry => Sys2Proof.Machine.execJoinlimExpiry s
  | .threadCease => Sys2Proof.Machine.execThreadCease s
  | .workgroupEnd => Sys2Proof.Machine.execWorkgroupEnd s
  | .nestedNotice => Sys2Proof.Machine.execNestedNotice s
  | .xfthreshNotice => Sys2Proof.Machine.execXfthreshNotice s
  | .flockAbort => Sys2Proof.Machine.execFlockAbort s
  | .timeLimitExpiry => Sys2Proof.Machine.execTimeLimitExpiry s
  | .poolFlushTimeout => Sys2Proof.Machine.execPoolFlushTimeout s
  | .poolDrain => Sys2Proof.Machine.execPoolDrain s
  | .matrixOpExecute => Sys2Proof.Machine.execMatrixOpExecute s
  | .matrixOpComplete => Sys2Proof.Machine.execMatrixOpComplete s
  | .tileCopyToScratchpad => Sys2Proof.Machine.execTileCopyToScratchpad s
  | .tileCopyToTensor => Sys2Proof.Machine.execTileCopyToTensor s
  | .tileCopyComplete => Sys2Proof.Machine.execTileCopyComplete s
  | .xformCopy => Sys2Proof.Machine.execXformCopy s
  | .xformCast => Sys2Proof.Machine.execXformCast s
  | .xformQuant => Sys2Proof.Machine.execXformQuant s
  | .xformDequant => Sys2Proof.Machine.execXformDequant s
  | .xformTrans => Sys2Proof.Machine.execXformTrans s
  | .xformPack => Sys2Proof.Machine.execXformPack s
  | .xformUnpack => Sys2Proof.Machine.execXformUnpack s
  | .xformGather => Sys2Proof.Machine.execXformGather s
  | .xformScatadd => Sys2Proof.Machine.execXformScatadd s
  | .xformMxin => Sys2Proof.Machine.execXformMxin s
  | .xformMxout => Sys2Proof.Machine.execXformMxout s
  | .transformTurn => Sys2Proof.Machine.execTransformTurn s
  | .transformComplete => Sys2Proof.Machine.execTransformComplete s
  | .poolemptyResume => Sys2Proof.Machine.execPoolemptyResume s
  | .packedChainReclaim => Sys2Proof.Machine.execPackedChainReclaim s
  | .logicalClockAdvance => Sys2Proof.Machine.execLogicalClockAdvance s
  | .bulkCopy => Sys2Proof.Machine.execBulkCopy s
  | .bulkFill => Sys2Proof.Machine.execBulkFill s
  | .bulkSignal => Sys2Proof.Machine.execBulkSignal s
  | .bulkWait => Sys2Proof.Machine.execBulkWait s
  | .taskRun => Sys2Proof.Machine.execTaskRun s
  | .taskPool => Sys2Proof.Machine.execTaskPool s
  | .taskCopy => Sys2Proof.Machine.execTaskCopy s
  | .taskXform => Sys2Proof.Machine.execTaskXform s
  | .taskOffload => Sys2Proof.Machine.execTaskOffload s
  | .taskRecall => Sys2Proof.Machine.execTaskRecall s
  | .taskWait => Sys2Proof.Machine.execTaskWait s
  | .taskSignal => Sys2Proof.Machine.execTaskSignal s
  | .taskAlloc => Sys2Proof.Machine.execTaskAlloc s
  | .taskFree => Sys2Proof.Machine.execTaskFree s
  | .taskFence => Sys2Proof.Machine.execTaskFence s
  | .taskRepeat => Sys2Proof.Machine.execTaskRepeat s
  | .taskEndrep => Sys2Proof.Machine.execTaskEndrep s
  | .taskMark => Sys2Proof.Machine.execTaskMark s
  | .collRun => Sys2Proof.Machine.execCollRun s
  | .collCreate => Sys2Proof.Machine.execCollCreate s
  | .collDestroy => Sys2Proof.Machine.execCollDestroy s
  | .copyForward => Sys2Proof.Machine.execCopyForward s
  | .allocZeroFill => Sys2Proof.Machine.execAllocZeroFill s
  | .taskEngineStreamComplete => Sys2Proof.Machine.execTaskEngineStreamComplete s
  | .taskRetire => Sys2Proof.Machine.execTaskRetire s
  | .taskFaultRecovery => Sys2Proof.Machine.execTaskFaultRecovery s
  | .sqctlEnable => Sys2Proof.Machine.execSqctlEnable s
  | .sqctlResumeRetry => Sys2Proof.Machine.execSqctlResumeRetry s
  | .sqctlResumeSkip => Sys2Proof.Machine.execSqctlResumeSkip s
  | .sqwriteWrite => Sys2Proof.Machine.execSqwriteWrite s
  | .registerWrite => Sys2Proof.Machine.execRegisterWrite s
  | .tlbinvPage => Sys2Proof.Machine.execTlbinvPage s
  | .tlbinvAll => Sys2Proof.Machine.execTlbinvAll s
  | .tlbinvComplete => Sys2Proof.Machine.execTlbinvComplete s
  | .chkpush => Sys2Proof.Machine.execChkpush s
  | .btvalWrite => Sys2Proof.Machine.execBtvalWrite s
  | .bqdescEnable => Sys2Proof.Machine.execBqdescEnable s
  | .bqdescDisable => Sys2Proof.Machine.execBqdescDisable s
  | .expbaseWrite => Sys2Proof.Machine.execExpbaseWrite s
  | .crkctlLoad => Sys2Proof.Machine.execCrkctlLoad s
  | .crkProgramActivate => Sys2Proof.Machine.execCrkProgramActivate s
  | .faultcmdReplay => Sys2Proof.Machine.execFaultcmdReplay s
  | .faultcmdCancel => Sys2Proof.Machine.execFaultcmdCancel s
  | .haltres => Sys2Proof.Machine.execHaltres s
  | .faultRingFree => Sys2Proof.Machine.execFaultRingFree s
  | .dispatch => Sys2Proof.Machine.execDispatch s
  | .preempt => Sys2Proof.Machine.execPreempt s
  | .faultDecision => Sys2Proof.Machine.execFaultDecision s
  | .crkBudgetOverrun => Sys2Proof.Machine.execCrkBudgetOverrun s
  | .sliceBoundary => Sys2Proof.Machine.execSliceBoundary s
  | .grantDeadline => Sys2Proof.Machine.execGrantDeadline s
  | .foldAreaWrite => Sys2Proof.Machine.execFoldAreaWrite s
  | .wholeDeviceReset => Sys2Proof.Machine.execWholeDeviceReset s
  | .partitionReset => Sys2Proof.Machine.execPartitionReset s
  | .functionLevelReset => Sys2Proof.Machine.execFunctionLevelReset s
  | .partitionStart => Sys2Proof.Machine.execPartitionStart s
  | .firmwareImageStart => Sys2Proof.Machine.execFirmwareImageStart s
  | .firmwareNudge => Sys2Proof.Machine.execFirmwareNudge s
  | .firmwareCoreRestart => Sys2Proof.Machine.execFirmwareCoreRestart s
  | .bellWord => Sys2Proof.Machine.execBellWord s
  | .freezePin => Sys2Proof.Machine.execFreezePin s
  | .freezeWrite => Sys2Proof.Machine.execFreezeWrite s
  | .powerWindow => Sys2Proof.Machine.execPowerWindow s
  | .mbResync => Sys2Proof.Machine.execMbResync s
  | .mbResume => Sys2Proof.Machine.execMbResume s
  | .mbKeygen => Sys2Proof.Machine.execMbKeygen s
  | .mbKeyassign => Sys2Proof.Machine.execMbKeyassign s
  | .mbKeyclear => Sys2Proof.Machine.execMbKeyclear s
  | .mbAttest => Sys2Proof.Machine.execMbAttest s
  | .mbPartcfg => Sys2Proof.Machine.execMbPartcfg s
  | .hostRead => Sys2Proof.Machine.execHostRead s
  | .hostWrite => Sys2Proof.Machine.execHostWrite s
  | .hostAtomicCompletion => Sys2Proof.Machine.execHostAtomicCompletion s
  | .peerAccess => Sys2Proof.Machine.execPeerAccess s
  | .peerAccessTimeout => Sys2Proof.Machine.execPeerAccessTimeout s
  | .uncorrFound => Sys2Proof.Machine.execUncorrFound s
  | .mctpReadout => Sys2Proof.Machine.execMctpReadout s
  | .mctpReadCertificate => Sys2Proof.Machine.execMctpReadCertificate s
  | .mctpWritePwrlim => Sys2Proof.Machine.execMctpWritePwrlim s
  | .collSend => Sys2Proof.Machine.execCollSend s
  | .collRecv => Sys2Proof.Machine.execCollRecv s
  | .collRrs => Sys2Proof.Machine.execCollRrs s
  | .collLcopy => Sys2Proof.Machine.execCollLcopy s
  | .collCwait => Sys2Proof.Machine.execCollCwait s
  | .collArm => Sys2Proof.Machine.execCollArm s
  | .collLoop => Sys2Proof.Machine.execCollLoop s
  | .collEndl => Sys2Proof.Machine.execCollEndl s
  | .collPeer => Sys2Proof.Machine.execCollPeer s
  | .collCbar => Sys2Proof.Machine.execCollCbar s
  | .collChunkSend => Sys2Proof.Machine.execCollChunkSend s
  | .collChunkReceive => Sys2Proof.Machine.execCollChunkReceive s
  | .collCreateComplete => Sys2Proof.Machine.execCollCreateComplete s
  | .collRunComplete => Sys2Proof.Machine.execCollRunComplete s
  | .collPeerAbort => Sys2Proof.Machine.execCollPeerAbort s
  | .collPeerdown => Sys2Proof.Machine.execCollPeerdown s
  | .illegalWord => Sys2Proof.Machine.execIllegalWord s
  | .fetchBeyondCodeObject => Sys2Proof.Machine.execFetchBeyondCodeObject s
  | .illegalRecord => Sys2Proof.Machine.execIllegalRecord s
  | .bulkQueueError => Sys2Proof.Machine.execBulkQueueError s
  | .illegalStep => Sys2Proof.Machine.execIllegalStep s
  | .collCbarRelease => Sys2Proof.Machine.execCollCbarRelease s
  | .loadStoreDomainJoin => Sys2Proof.Machine.execLoadStoreDomainJoin s
  | .storageError => Sys2Proof.Machine.execStorageError s

end Sys2Proof.Machine
end

