-- ==== Sys2Proof/Machine/Step.lean ====
section
/-! DEFINITION. The step: one turn, with exec as the meaning of every instruction; and the placing of one instruction. -/
namespace Sys2Proof.Machine
open Sys2Proof

/-- One step of the machine. -/
def step (s : State) : Host.Outcome State Fault Refusal := stepWith exec s

/-- s with one instruction where step takes its next one (log 15). -/
def State.withFetchWord (s : State) (nbits w : Nat) : State := s.bench nbits w

end Sys2Proof.Machine
end

