-- ==== Sys2Proof/Safety.lean ====
section
/-! DEFINITION. What a safe run is, and the words in which the statements speak: when a word may execute, which threads take its
result, and what writing registers or launching a result makes of a state. -/
namespace Sys2Proof.Machine
open Sys2Proof

/-- Every byte memory of the state is in canonical form: HBM, host memory, and peers' memory and spaces. -/
def State.memoriesWf (s : State) : Bool :=
  Memory.wf s.hbm && Memory.wf s.hostMem && Memory.wf s.peerMem && Memory.wf s.peerSpace
/-- Every workgroup's scratchpad is in canonical form. -/
def State.scratchWf (s : State) : Bool := s.flocks.all fun fl => fl.wgs.all fun wg => Memory.wf wg.scratch
/-- Every firmware core's private memory is in canonical form (R364). -/
def State.coresWf (s : State) : Bool := s.device.coreMem.all Memory.wf
/-- Whether a state goes on to another. -/
def State.goesOn (s : State) : Bool := match step s with | .next _ => true | _ => false

/-! ## When a word executes (R23, R25, R26) -/

/-- A word of the chain c executes in s: it takes effect in some thread, every register that it reads and every register that it writes is full in
each thread that passes its guard, and no register that it reads holds an uncorrectable error. -/
structure Ready (s : State) (c : Issue) (h : Head) (uses : List Use) (dests : List Reg) : Prop where
  issue : s.issue = some c
  distinct : c.lanes.Nodup
  executes : c.exec h ≠ []
  sources : ∀ l ∈ c.readers h, ∀ u ∈ uses, c.emptyUse l u = false
  room : ∀ l ∈ c.readers h, ∀ r ∈ dests, c.snap.isFull l r = true
  now : ∀ w, s.unit? c.f c.m c.u = some w → ∀ l ∈ c.exec h, ∀ r ∈ dests, w.isFull l r = true
  sound : ∀ l ∈ c.readers h, s.badReg c l uses = false

/-- A word that reads the v sources of one thread only executes in s (R50, R305). -/
structure ReadyAt (s : State) (c : Issue) (h : Head) (uses : List Use) (reader : List Nat → Nat) (dests : List Reg) : Prop where
  issue : s.issue = some c
  distinct : c.lanes.Nodup
  executes : c.exec h ≠ []
  sources : ∀ u ∈ uses, c.emptyUse (reader (c.readers h)) u = false
  room : ∀ l ∈ c.readers h, ∀ r ∈ dests, c.snap.isFull l r = true
  now : ∀ w, s.unit? c.f c.m c.u = some w → ∀ l ∈ c.exec h, ∀ r ∈ dests, w.isFull l r = true
  sound : s.badReg c (reader (c.readers h)) uses = false

/-- No executing thread has a wait-qualified load that is not satisfied (R242). -/
def unwaited (s : State) (c : Issue) (h : Head) : Prop := ∀ l ∈ c.exec h, s.waiting c l = false

/-- The threads that take a word's result: each executing thread, or the lowest-TID one for a w destination (R146). -/
def Issue.targets (c : Issue) (h : Head) (d : Reg) : List Nat := if d.isW then [lowest (c.exec h)] else c.exec h
/-- The thread whose values a result takes: the thread itself, or for a w destination the lowest executing one of the group (log 94). -/
def Issue.source (c : Issue) (h : Head) (d : Reg) (l : Nat) : Nat := if d.isW then lowest (c.readers h) else l
/-- The threads that share one result: each executing thread alone, or all of them for a w destination (R146). -/
def Issue.groups (c : Issue) (h : Head) (d : Reg) : List (List Nat) := if d.isW then [c.exec h] else (c.exec h).map fun l => [l]

/-! ## What a word does to registers -/

/-- A unit with n registers from d on written full in some lanes. -/
def Warp.writes (w : Warp) (lanes : List Nat) (d : Reg) (n : Nat) (x : Nat → List Word) : Warp :=
  lanes.foldl (fun w l => ((regSpan d n).zip (x l)).foldl (fun (w : Warp) q => w.put l q.1 q.2) w) w
/-- A unit with n registers from d on made empty in some lanes. -/
def Warp.empties (w : Warp) (lanes : List Nat) (d : Reg) (n : Nat) : Warp :=
  lanes.foldl (fun w l => (regSpan d n).foldl (fun (w : Warp) r => w.empty l r) w) w
/-- The state with the issuing unit's registers written, their check bits good again, and nothing else. -/
def State.writes (s : State) (c : Issue) (lanes : List Nat) (d : Reg) (n : Nat) (x : Nat → List Word) : State :=
  (s.modUnit c.f c.m c.u fun w => w.writes lanes d n x).mend fun b => lanes.all fun l => b.outside c.f c.m c.u l ((regSpan d n).zip (x l))
/-- The state with one register written in some lanes, and nothing else. -/
def State.write1 (s : State) (c : Issue) (lanes : List Nat) (d : Reg) (x : Nat → Word) : State := s.writes c lanes d 1 fun l => [x l]
/-- A result in flight for some lanes (R24). -/
def Issue.landing (c : Issue) (lanes : List Nat) (d : Reg) (n : Nat) (vals : List Word) (pipeF inv ovf : Bool) : Landing :=
  { f := c.f, m := c.m, u := c.u, lanes := lanes, dests := regSpan d n, vals := vals, pipeF := pipeF, inv := inv, ovf := ovf, host := false, peer := none
    pc := c.pc }
/-- The state with destinations empty and a result in flight for each group of lanes, and nothing else. -/
def State.flies (s : State) (c : Issue) (groups : List (List Nat)) (d : Reg) (n : Nat) (x : List Nat → List Word) : State :=
  { s.modUnit c.f c.m c.u fun w => w.empties (groups.map lowest) d n with
    landings := s.landings ++ groups.map fun ls => c.landing ls d n (x ls) false false false }
/-- Results delivered group by group by the rule of R34 and R102. -/
def State.delivers (s : State) (c : Issue) (groups : List (List Nat)) (d : Reg) (n : Nat) (r : Route) (o : Nat → Out) : State :=
  groups.foldl (fun s ls => s.deliver c ls d n r (o (lowest ls))) s

/-- The state with the threads of some lanes of the issuing unit changed, and nothing else. -/
def State.eachThread (s : State) (c : Issue) (lanes : List Nat) (g : Nat → Thread → Thread) : State :=
  s.modUnit c.f c.m c.u fun w => { w with threads := w.threads.zipIdx.map fun q => if lanes.contains q.2 then g q.2 q.1 else q.1 }
/-- A thread with one guard written. -/
def Thread.withGuard (t : Thread) (gd : Fin 16) (b : Bool) : Thread :=
  { t with g := (t.g &&& ~~~((1 : BitVec 16) <<< gd.val)) ||| (if b then (1 : BitVec 16) <<< gd.val else 0) }
/-- The state with traps raised by the chain being issued, and nothing else: lane, cause, address. -/
def State.raises (s : State) (ts : List (Nat × Nat × DWord)) : State := s.modIssue fun c => { c with traps := c.traps ++ ts }
/-- The state with effects put off to the end of the chain, and nothing else. -/
def State.defers (s : State) (c : Issue) (ds : List Deferred) : State := { s with issue := some { c with deferred := c.deferred ++ ds } }
/-- The state in which the chain cannot issue yet, and nothing else is changed. -/
def State.waits (s : State) (c : Issue) : State := { s with issue := some { c with blocked := true } }
/-- The state in which the group is held before issue, and nothing else is changed. -/
def State.holds (s : State) (c : Issue) (h : Hold) : State := { s with issue := some { c with held := some h } }
/-- The state after a taken branch (R22): a target from 0 to 2^24 - 1 becomes the PC, any other raises PROTFAULT with its address. -/
def State.jumps (s : State) (c : Issue) (lanes : List Nat) (target : Nat → Int) : State :=
  let inside (l : Nat) : Bool := decide (0 ≤ target l) && decide (target l < 2 ^ 24)
  let base : Int := match s.launchOf c.f with | some l => l.code | none => 0
  (s.eachThread c (lanes.filter inside) fun l t => { t with pc := BitVec.ofInt 24 (target l) }).raises
    ((lanes.filter fun l => !inside l).map fun l => (l, causeProtfault, BitVec.ofInt 64 (base + 4 * target l)))

/-! ## Reading -/

/-- The value and the full/empty bit of a register of a unit's lane. -/
def State.reg? (s : State) (f m u lane : Nat) (r : Reg) : Option (Word × Bool) := (s.unit? f m u).map fun w => (w.get lane r, w.isFull lane r)
/-- A thread without its registers: guards, PC, specials, mode and holds. -/
def Thread.bare (t : Thread) : Thread := { t with v := Vector.replicate 24 0, full := 0 }
/-- The state without the registers of one unit and without their check bits: what a register write leaves. -/
def State.withoutRegs (s : State) (c : Issue) : State :=
  (s.modUnit c.f c.m c.u fun w => { w with w := Vector.replicate 8 0, wfull := 0, threads := w.threads.map Thread.bare }).mend fun b =>
    match b with | .reg f m u _ _ => !(f == c.f && m == c.m && u == c.u) | _ => true
/-- The state without its threads, results in flight and issue: what control transfer and registers leave. -/
def State.memoryPart (s : State) : List Host.Cell × List Host.Cell × List Host.Cell × List Host.Cell × List (Nat × Nat) × List OldEntry :=
  (s.hbm, s.hostMem, s.peerMem, s.peerSpace, s.lineKeys, s.oldEntries)
/-- No memory holds a word that is valid as an entry of a page with replicas (R220: size codes 1, 3, 4 and 6). -/
def State.noReplicas (s : State) : Bool :=
  (s.hbm ++ s.hostMem ++ s.peerMem).all fun c => c.1 % 8 ≠ 7 || decide (c.2.toNat / 16 ∉ [9, 11, 12, 14])
/-- A partition without the leaf entries that its walks have read and the export entries that it has cached; a device without what it has
counted and sent; a chain without the pages and blocks that its memory word has met. -/
def Partition.unwalked (q : Partition) : Partition := { q with exports := none, mem := { q.mem with walked := [] } }
def Device.uncounted (d : Device) : Device := { d with eccdie := [], eccstk := [], errors := [], msix := [], requests := [] }
def Issue.unlooked (c : Issue) : Issue := { c with looks := [], pages := [], asked := [], blocks := [] }
/-- A state without what an access to memory may change: bytes and their keys, the L2, check bits, late writes, the entries and code overwritten,
clocks, leases and copies, free values taken, and what the access has met and counted. -/
def State.unaccessed (s : State) : State :=
  { s with
    hbm := [], lineKeys := [], l2 := [], hostMem := [], peerMem := [], bad := [], late := [], oldEntries := [], oldCode := []
    clocks := [], homes := [], copies := [], partitions := s.partitions.map Partition.unwalked, device := s.device.uncounted
    issue := s.issue.map Issue.unlooked, fresh := 0 }
/-- Two states that differ at most in what stands around the bytes of memory: their bytes, keys and overwritten entries are the same, and so is
all that no access to memory changes. -/
structure Beside (s t : State) : Prop where
  rest : t.unaccessed = s.unaccessed
  hbm : t.hbm = s.hbm
  keys : t.lineKeys = s.lineKeys
  host : t.hostMem = s.hostMem
  peers : t.peerMem = s.peerMem
  entries : t.oldEntries = s.oldEntries
/-- A byte of a workgroup's scratchpad. -/
def State.scratchByte (s : State) (f m a : Nat) : Option Byte := (s.wg? f m).map fun wg => cellGet wg.scratch a
/-- The words of a register, pair or four of a lane, as the chain found them. -/
def Issue.val (c : Issue) (l : Nat) (a : Src) : Word := c.snap.get l a.reg
def Issue.val64 (c : Issue) (l : Nat) (r : Reg) : DWord := dword (c.snap.get l r) (c.snap.get l (r.at 1))
/-- The contract of the issuing task. -/
def State.contract (s : State) (c : Issue) : Contract := contractOf (s.contractNo c.f)

end Sys2Proof.Machine
end

