-- ==== Sys2Proof/Certificates/Slice0/Obligations.lean ====
section
/-! DEFINITION. The statements for the provers. Each is one def Obligations.<Name> : Prop; OBLIGATIONS.json lists them with their rules. -/
namespace Sys2Proof.Machine
open Sys2Proof

/-- A word of pipe A that raises nothing writes x in each thread that takes its result, full, and changes nothing else. -/
def ResultIs (i : Instr) (h : Head) (uses : List Use) (d : Reg) (x : Issue → Nat → Word) : Prop :=
  ∀ (s : State) (c : Issue), Ready s c h uses [d] → Sys2Proof.Machine.exec i s = .next (s.write1 c (c.targets h d) d (x c))
/-- As ResultIs, for a result in n registers. -/
def ResultsAre (i : Instr) (h : Head) (uses : List Use) (d : Reg) (n : Nat) (x : Issue → Nat → List Word) : Prop :=
  ∀ (s : State) (c : Issue), Ready s c h uses (regSpan d n) → Sys2Proof.Machine.exec i s = .next (s.writes c (c.targets h d) d n (x c))
/-- A word whose result and causes are o (of the task's contract number, the chain and a thread), delivered by DeliverRule: in each
executing thread, or once for all of them to a w destination. -/
def DeliversBy (i : Instr) (h : Head) (uses : List Use) (d : Reg) (r : Nat → Route) (o : Nat → Issue → Nat → Out) : Prop :=
  ∀ (s : State) (c : Issue), Ready s c h uses [d] →
    Sys2Proof.Machine.exec i s = .next (s.delivers c (c.groups h d) d 1 (r (s.contractNo c.f)) (o (s.contractNo c.f) c))
/-- As DeliversBy, by the same route under every contract. -/
def Delivers (i : Instr) (h : Head) (uses : List Use) (d : Reg) (r : Route) (o : Nat → Issue → Nat → Out) : Prop := DeliversBy i h uses d (fun _ => r) o

/-- The low 32 bits of a natural number and of an integer. -/
abbrev wN (x : Nat) : Word := BitVec.ofNat 32 x
abbrev wI (x : Int) : Word := BitVec.ofInt 32 x

end Sys2Proof.Machine

open Sys2Proof Sys2Proof.Machine

/-! ## Thread words: integers (R103-R110) -/

/-- R103, R104: the two-source integer words. -/
def Obligations.IntegerTwoSource : Prop := ∀ (h : Head) (d : Reg) (a b : Src),
  ResultIs (.iadd h d a b) h [one a, one b] d (fun c l => wN ((c.val l a).toNat + (c.val l b).toNat)) ∧
  ResultIs (.isub h d a b) h [one a, one b] d (fun c l => wI ((c.val l a).toNat - (c.val l b).toNat)) ∧
  ResultIs (.imul h d a b) h [one a, one b] d (fun c l => wN ((c.val l a).toNat * (c.val l b).toNat)) ∧
  ResultIs (.imulh h false d a b) h [one a, one b] d (fun c l => wI ((c.val l a).toInt * (c.val l b).toInt / 2 ^ 32)) ∧
  ResultIs (.imulh h true d a b) h [one a, one b] d (fun c l => wN ((c.val l a).toNat * (c.val l b).toNat / 2 ^ 32)) ∧
  ResultIs (.imin h false d a b) h [one a, one b] d (fun c l => if (c.val l a).toInt ≤ (c.val l b).toInt then c.val l a else c.val l b) ∧
  ResultIs (.imin h true d a b) h [one a, one b] d (fun c l => if (c.val l a).toNat ≤ (c.val l b).toNat then c.val l a else c.val l b) ∧
  ResultIs (.imax h false d a b) h [one a, one b] d (fun c l => if (c.val l a).toInt ≤ (c.val l b).toInt then c.val l b else c.val l a) ∧
  ResultIs (.imax h true d a b) h [one a, one b] d (fun c l => if (c.val l a).toNat ≤ (c.val l b).toNat then c.val l b else c.val l a) ∧
  ResultIs (.and h d a b) h [one a, one b] d (fun c l => c.val l a &&& c.val l b) ∧
  ResultIs (.or h d a b) h [one a, one b] d (fun c l => c.val l a ||| c.val l b) ∧
  ResultIs (.xor h d a b) h [one a, one b] d (fun c l => c.val l a ^^^ c.val l b) ∧
  ResultIs (.andn h d a b) h [one a, one b] d (fun c l => c.val l a &&& ~~~(c.val l b)) ∧
  ResultIs (.shl h d a b) h [one a, one b] d (fun c l => if (c.val l b).toNat < 32 then wN ((c.val l a).toNat * 2 ^ (c.val l b).toNat) else 0) ∧
  ResultIs (.shr h d a b) h [one a, one b] d (fun c l => if (c.val l b).toNat < 32 then wN ((c.val l a).toNat / 2 ^ (c.val l b).toNat) else 0) ∧
  ResultIs (.sar h d a b) h [one a, one b] d (fun c l => wI ((c.val l a).toInt / 2 ^ min (c.val l b).toNat 31)) ∧
  ResultIs (.rotl h d a b) h [one a, one b] d (fun c l =>
    wN ((c.val l a).toNat * 2 ^ ((c.val l b).toNat % 32) + (c.val l a).toNat * 2 ^ ((c.val l b).toNat % 32) / 2 ^ 32))

/-- The byte shuffle of {b, a} by the selectors and the zero mask of c (R105). -/
def Sys2Proof.Machine.shuffled (a b c : Word) : Nat :=
  let y := a.toNat + 2 ^ 32 * b.toNat
  let byte (i : Nat) : Nat := if c.getLsbD (12 + i) then 0 else y / 2 ^ (8 * (c.toNat / 2 ^ (3 * i) % 8)) % 256
  byte 0 + 2 ^ 8 * byte 1 + 2 ^ 16 * byte 2 + 2 ^ 24 * byte 3
/-- The bit field at pos of length len of an integer, unsigned or signed (R105). -/
def Sys2Proof.Machine.fieldAt (sgn : Bool) (x b : Word) : Word :=
  let pos := b.toNat % 256
  let len := b.toNat / 256 % 256
  let n := min len 32
  let f : Int := (if sgn then x.toInt else (x.toNat : Int)) / 2 ^ pos % 2 ^ n
  if len = 0 then 0 else if sgn && decide (2 ^ n ≤ 2 * f) then wI (f - 2 ^ n) else wI f
/-- The low len bits of a inserted into c at pos (R105). -/
def Sys2Proof.Machine.insertedAt (a b c : Word) : Word :=
  let pos := b.toNat % 256
  let len := b.toNat / 256 % 256
  let mask := wN ((2 ^ min len 32 - 1) * 2 ^ pos)
  (c &&& ~~~mask) ||| (wN (a.toNat * 2 ^ pos) &&& mask)

/-- R105: the words with a third source, and the bit-field words. -/
def Sys2Proof.Rules.IntegerThreeSource : Prop := ∀ (h : Head) (d : Reg) (a b : Src) (e : Reg),
  ResultIs (.imad h d a b e) h [one a, one b, plain e] d (fun c l => wN ((c.val l a).toNat * (c.val l b).toNat + (c.snap.get l e).toNat)) ∧
  ResultIs (.fshr h d a b e) h [one a, one b, plain e] d (fun c l =>
    wN (((c.val l a).toNat + 2 ^ 32 * (c.val l b).toNat) / 2 ^ ((c.snap.get l e).toNat % 32))) ∧
  ResultIs (.bfe h false d a b) h [one a, one b] d (fun c l => fieldAt false (c.val l a) (c.val l b)) ∧
  ResultIs (.bfe h true d a b) h [one a, one b] d (fun c l => fieldAt true (c.val l a) (c.val l b)) ∧
  ResultIs (.bfi h d a b e) h [one a, one b, plain e] d (fun c l => insertedAt (c.val l a) (c.val l b) (c.snap.get l e)) ∧
  ResultIs (.bshuf h d a b e) h [one a, one b, plain e] d (fun c l => wN (shuffled (c.val l a) (c.val l b) (c.snap.get l e)))

/-- R108: the one-source words. -/
def Sys2Proof.Rules.IntegerOneSource : Prop := ∀ (h : Head) (d : Reg) (a : Src),
  ResultIs (.mov h d a) h [one a] d (fun c l => c.val l a) ∧
  ResultIs (.not h d a) h [one a] d (fun c l => ~~~(c.val l a)) ∧
  ResultIs (.ineg h d a) h [one a] d (fun c l => wI (-((c.val l a).toNat : Int))) ∧
  ResultIs (.iabs h d a) h [one a] d (fun c l => wI (c.val l a).toInt.natAbs) ∧
  ResultIs (.popc h d a) h [one a] d (fun c l => wN ((List.range 32).countP fun i => (c.val l a).getLsbD i)) ∧
  ResultIs (.clz h d a) h [one a] d (fun c l => wN ((List.range 32).takeWhile fun i => !(c.val l a).getLsbD (31 - i)).length) ∧
  ResultIs (.brev h d a) h [one a] d (fun c l => (c.val l a).reverse) ∧
  ResultIs (.ctz h d a) h [one a] d (fun c l => wN ((List.range 32).takeWhile fun i => !(c.val l a).getLsbD i).length)

/-- R109, R110: the immediate words compute as their counterparts with b the immediate. -/
def Obligations.IntegerImmediate : Prop := ∀ (h : Head) (d a : Reg) (imm : Int) (lit : Word),
  let b := wI imm
  ResultIs (.addi h d a imm) h [plain a] d (fun c l => wI ((c.snap.get l a).toNat + imm)) ∧
  ResultIs (.andi h d a imm) h [plain a] d (fun c l => c.snap.get l a &&& b) ∧
  ResultIs (.ori h d a imm) h [plain a] d (fun c l => c.snap.get l a ||| b) ∧
  ResultIs (.xori h d a imm) h [plain a] d (fun c l => c.snap.get l a ^^^ b) ∧
  ResultIs (.shli h d a imm) h [plain a] d (fun c l => if b.toNat < 32 then wN ((c.snap.get l a).toNat * 2 ^ b.toNat) else 0) ∧
  ResultIs (.shri h d a imm) h [plain a] d (fun c l => if b.toNat < 32 then wN ((c.snap.get l a).toNat / 2 ^ b.toNat) else 0) ∧
  ResultIs (.sari h d a imm) h [plain a] d (fun c l => wI ((c.snap.get l a).toInt / 2 ^ min b.toNat 31)) ∧
  ResultIs (.muli h d a imm) h [plain a] d (fun c l => wI ((c.snap.get l a).toNat * imm)) ∧
  ResultIs (.movi h d imm) h [] d (fun _ _ => b) ∧
  ResultIs (.movl h d lit) h [] d (fun _ _ => lit)

/-- A 64-bit number as two words, low first. -/
def Sys2Proof.Machine.pairOf (x : Nat) : List Word := [wN x, wN (x / 2 ^ 32)]

/-- R106, R107: SEL, and the words on pairs. -/
def Sys2Proof.Rules.SelectAndPairs : Prop := ∀ (h : Head) (chain : Bool) (g n : Fin 16) (sense : Bool) (d : Reg) (a b : Src),
  ResultIs (.sel chain g sense d a b) ⟨chain, none⟩ [one a, one b] d
    (fun c l => if (c.snap.thread l).g.getLsbD g.val ≠ sense then c.val l a else c.val l b) ∧
  ResultsAre (.iadd64 h d a b) h [pair a, pair b] d 2 (fun c l => pairOf ((c.val64 l a.reg).toNat + (c.val64 l b.reg).toNat)) ∧
  ResultsAre (.lea64 chain n d a b) ⟨chain, none⟩ [pair a, one b] d 2
    (fun c l => pairOf ((c.val64 l a.reg).toNat + (c.val l b).toNat * 2 ^ n.val)) ∧
  ResultsAre (.lea64s chain n d a b) ⟨chain, none⟩ [pair a, one b] d 2
    (fun c l => pairOf (((c.val64 l a.reg).toNat + (c.val l b).toInt * 2 ^ n.val) % 2 ^ 64).toNat)

/-- R50, R108: a MOV into a w register reads its source from the lowest-TID executing thread only, of the group as it came to the chain (log 94). -/
def Sys2Proof.Rules.MovBroadcast : Prop := ∀ (s : State) (c : Issue) (h : Head) (n : Fin 8) (a : Src),
  ReadyAt s c h [one a] lowest [.w n] →
    Sys2Proof.Machine.exec (.mov h (.w n) a) s = .next (s.write1 c [lowest (c.exec h)] (.w n) fun _ => c.val (lowest (c.readers h)) a)

/-! ## Guards, control transfer, special and control registers -/

/-- A compare writes guard gd of every executing thread with its condition, ANDed with the old value when K = 1, and changes nothing else. -/
def Sys2Proof.Machine.GuardIs (i : Instr) (h : Head) (uses : List Use) (k : Bool) (gd : Fin 16) (cond : Contract → Issue → Nat → Bool) : Prop :=
  ∀ (s : State) (c : Issue), Ready s c h uses [] →
    Sys2Proof.Machine.exec i s = .next (s.eachThread c (c.exec h) fun l t =>
      t.withGuard gd (cond (s.contract c) c l && (!k || (c.snap.thread l).g.getLsbD gd.val)))
/-- The eight conditions of R44 on registers, in the order of cc: EQ NE LT LE GT GE LTU GEU. -/
def Sys2Proof.Machine.intConditions (a b : Word) : List Bool :=
  [a.toNat == b.toNat, a.toNat != b.toNat, decide (a.toInt < b.toInt), decide (a.toInt ≤ b.toInt), decide (b.toInt < a.toInt),
   decide (b.toInt ≤ a.toInt), decide (a.toNat < b.toNat), decide (b.toNat ≤ a.toNat)]
/-- The eight conditions of R44 on FP32 values: EQ NE LT LE GT GE UN NEU; all but the last two are false when a value is NaN. -/
def Sys2Proof.Machine.floatConditions (x y : Val) : List Bool :=
  if x.isNan || y.isNan then [false, false, false, false, false, false, true, true]
  else [eqVal x y, !eqVal x y, ltVal x y, ltVal x y || eqVal x y, ltVal y x, ltVal y x || eqVal x y, false, !eqVal x y]

/-- R44, R111: ICMP, ICMPI and FCMP. -/
def Sys2Proof.Rules.CompareResults : Prop := ∀ (h : Head) (k : Bool) (gd : Fin 16) (cc : Fin 8) (a b : Reg) (imm : Int),
  GuardIs (.icmp h k gd cc a b) h [plain a, plain b] k gd
    (fun _ c l => (intConditions (c.snap.get l a) (c.snap.get l b)).getD cc.val false) ∧
  GuardIs (.icmpi h k gd cc a imm) h [plain a] k gd (fun _ c l => (intConditions (c.snap.get l a) (wI imm)).getD cc.val false) ∧
  GuardIs (.fcmp h k gd cc a b) h [plain a, plain b] k gd (fun n c l =>
    (floatConditions (flushIn n .fp32 (f32 (c.snap.get l a))) (flushIn n .fp32 (f32 (c.snap.get l b)))).getD cc.val false)

/-- R112, R113: PLOP writes the table's bit; PMOV reads all 16 guards and writes those that the mask selects. A uniform PMOV
reads those of the lowest executing thread (log 94). -/
def Sys2Proof.Rules.GuardLogic : Prop :=
  (∀ (h : Head) (gd ga gb tt : Fin 16), GuardIs (.plop h gd ga gb tt) h [] false gd (fun _ c l =>
    let old := (c.snap.thread l).g
    tt.val.testBit (2 * (old.getLsbD ga.val).toNat + (old.getLsbD gb.val).toNat))) ∧
  ∀ (h : Head) (d : Reg) (a b : Src) (s : State) (c : Issue), Ready s c h [one a, one b] [d] →
    Sys2Proof.Machine.exec (.pmov h d a b) s = .next ((s.write1 c (c.targets h d) d fun l =>
      (c.snap.thread (c.source h d l)).g.setWidth 32).eachThread c (c.exec h)
      fun l t => { t with g := (t.g &&& ~~~((c.val l b).setWidth 16)) ||| ((c.val l a).setWidth 16 &&& (c.val l b).setWidth 16) })

/-- R22, R126-R128, R130: BRA, BRX, CALL, RET and NOP. A CALL writes the index after its chain to v23. -/
def Obligations.ControlTransfer : Prop := ∀ (s : State) (c : Issue) (h : Head) (off : Int) (a : Src),
  (Ready s c h [] [] →
    Sys2Proof.Machine.exec (.bra h off) s = .next (s.jumps c (c.exec h) fun _ => c.here + off) ∧
    Sys2Proof.Machine.exec (.nop h) s = .next s) ∧
  (Ready s c h [one a] [] → Sys2Proof.Machine.exec (.brx h a) s = .next (s.jumps c (c.exec h) fun l => (c.val l a).toNat)) ∧
  (Ready s c h [] [.v 23] → Sys2Proof.Machine.exec (.call h off) s =
    .next ((s.write1 c (c.exec h) (.v 23) fun _ => wN c.next).jumps c (c.exec h) fun _ => c.here + off)) ∧
  (Ready s c h [plain (.v 23)] [] →
    Sys2Proof.Machine.exec (.ret h) s = .next (s.jumps c (c.exec h) fun l => (c.snap.get l (.v 23)).toNat))

/-- R129, R164, R329-R331: EXIT, TRAP, TRET, BKPT and YIELD put their effect off to the end of their chain; TRET outside trap mode
raises ILLEGAL; BKPT without debug mode, and YIELD in a herder or with PROGRESS.ON = 0, have none. -/
def Sys2Proof.Rules.EffectsPutOff : Prop := ∀ (s : State) (c : Issue) (h : Head) (code : Fin 32) (point : Fin 256), Ready s c h [] [] →
  Sys2Proof.Machine.exec (.exit h) s = .next (s.defers c ((c.exec h).map .exit)) ∧
  Sys2Proof.Machine.exec (.trap h code) s = .next (s.defers c ((c.exec h).map fun l => .trap l (0x20 + code.val))) ∧
  Sys2Proof.Machine.exec (.tret h) s = .next { s with issue := some { c with
    deferred := c.deferred ++ ((c.exec h).filter fun l => (c.snap.thread l).trapMode).map .tret
    traps := c.traps ++ ((c.exec h).filter fun l => !(c.snap.thread l).trapMode).map fun l => (l, 0x01, 0) } } ∧
  (∀ l, s.launchOf c.f = some l → Sys2Proof.Machine.exec (.bkpt h point) s =
    .next (if l.debug then s.defers c [.bkpt point.val (lowest (c.exec h))] else s)) ∧
  (c.u ≠ 32 → c.snap.progress = true → Sys2Proof.Machine.exec (.yield h) s = .next (s.defers c [.yield])) ∧
  (c.u = 32 ∨ c.snap.progress = false → Sys2Proof.Machine.exec (.yield h) s = .next s)

/-- R129, R143, R330, R331: what ends a chain. EXIT ends its thread; a TRET of a warp clears the trap-mode bit and sets the PC from TRAPPC, or
past the chain there for CANCELLED; BKPT halts a resident flock; YIELD marks the group, which owes until every other live thread has issued. -/
def Sys2Proof.Rules.EffectsAtTheEnd : Prop := ∀ (s : State) (c : Issue) (l : Nat) (t : Thread), s.thread? c.f c.m c.u l = some t →
  (s.applyDeferred c (.exit l)).thread? c.f c.m c.u l = some { t with life := .ending, hold := .none } ∧
  (c.u ≠ 32 → (s.applyDeferred c (.tret l)).thread? c.f c.m c.u l = some { t with
    trapMode := false
    pc := if t.trapcause = 0x07 then BitVec.ofNat 24 (s.chainAt c.f t.trappc.toNat).next else t.trappc.setWidth 24 }) ∧
  s.applyDeferred c (.trap l 0x20) = s.takeTrap c.f c.m c.u l 0x20 c.pc c.next 0 ∧
  (∀ fl code, s.flock? c.f = some fl →
    (fl.status = .resident → (s.applyDeferred c (.bkpt code l)).flock? c.f = some { fl with status := .folding (some (code, (s.part fl.p).nextFid)) }) ∧
    (fl.status ≠ .resident → s.applyDeferred c (.bkpt code l) = s)) ∧
  ∀ w, s.unit? c.f c.m c.u = some w → ∃ y, (s.applyDeferred c .yield).unit? c.f c.m c.u = some { w with yields := w.yields ++ [y] } ∧
    ∀ k, k < 32 → (y.lanes.getLsbD k = c.lanes.contains k ∧
      y.owed.getLsbD k = (!c.lanes.contains k && (match w.threads[k]? with | some q => q.live | none => false)))

/-- R144, R163: a JOIN passes in a herder, in a chain that issues, when every awaited thread is there, when JOINLIM is 0 or has passed; else it holds its group. -/
def Sys2Proof.Rules.JoinRule : Prop := ∀ (s : State) (c : Issue) (h : Head), Ready s c h [] [] →
  (c.going = true ∨ c.u = 32 ∨ (∀ l ∈ c.awaited, l ∈ c.lanes) ∨ c.snap.joinlim = 0 ∨ (∃ l ∈ c.lanes, (c.snap.thread l).hold = .joinPast) ∨
      (∃ l ∈ c.lanes, ∃ k, (c.snap.thread l).hold = .join k ∧ c.snap.joinlim.toNat ≤ s.cycle - k) →
    Sys2Proof.Machine.exec (.join h) s = .next s) ∧
  (c.going = false → c.u ≠ 32 → (∃ l ∈ c.awaited, l ∉ c.lanes) → c.snap.joinlim ≠ 0 → (∀ l ∈ c.lanes, (c.snap.thread l).hold ≠ .joinPast) →
      (∀ l ∈ c.lanes, ∀ k, (c.snap.thread l).hold = .join k → s.cycle - k < c.snap.joinlim.toNat) →
    Sys2Proof.Machine.exec (.join h) s = .next (s.holds c (.join s.cycle)))

/-- R165, R167: a WSYNC passes in a herder and in a group that has been released; in a chain that issues, or once every awaited thread is
at a WSYNC, it releases every held group; else it holds its group. PROG takes bit 0 of the value of the highest executing thread (log 94). -/
def Sys2Proof.Rules.WsyncAndProg : Prop := ∀ (s : State) (c : Issue) (h : Head) (a : Src),
  (Ready s c h [] [] →
    (c.u = 32 ∨ (∃ l ∈ c.group, (c.snap.thread l).hold = .wsyncPast) → Sys2Proof.Machine.exec (.wsync h) s = .next s) ∧
    (c.u ≠ 32 → (∀ l ∈ c.group, (c.snap.thread l).hold ≠ .wsyncPast) →
      (c.going = true ∨ ∀ l ∈ c.awaited, l ∈ c.lanes ∨ (c.snap.thread l).hold = .wsync) →
      Sys2Proof.Machine.exec (.wsync h) s = .next (s.eachThread c c.awaited fun _ t => if t.hold = .wsync then { t with hold := .wsyncPast } else t)) ∧
    (c.u ≠ 32 → (∀ l ∈ c.group, (c.snap.thread l).hold ≠ .wsyncPast) → c.going = false →
      (∃ l ∈ c.awaited, l ∉ c.lanes ∧ (c.snap.thread l).hold ≠ .wsync) →
      Sys2Proof.Machine.exec (.wsync h) s = .next (s.holds c .wsync))) ∧
  (Ready s c h [one a] [] → Sys2Proof.Machine.exec (.prog h a) s = .next
    (if c.u = 32 then s else s.modUnit c.f c.m c.u fun w => { w with progress := (c.val (highest (c.readers h)) a).getLsbD 0 }))

/-- The special registers of R132 by number, for a thread. -/
def Sys2Proof.Machine.specials (s : State) (c : Issue) (fl : Flock) (wg : Workgroup) (l : Nat) : List Nat :=
  let t := c.snap.thread l
  let base := (fl.launch.code + 4 * fl.launch.codelen + 4095) / 4096 * 4096
  let herder := c.u == 32
  [if herder then 0 else 32 * c.u + l, if herder then 0 else l, if herder then 0 else c.u, fl.launch.wg, wg.member, wg.stage, fl.launch.m,
   fl.launch.s, fl.x, fl.y, fl.z, fl.launch.nx, fl.launch.ny, wg.core, wg.core / 8, fl.launch.contract, s.cycle, t.clockhi.toNat,
   t.trapcause.toNat, t.trappc.toNat, t.trapaddr.toNat, t.trapaddr.toNat / 2 ^ 32, s.device.rank, fl.p, 0x0002A956,
   fl.launch.pool.getD 0xFFFFFFFF, base, base / 2 ^ 32]
/-- R131-R133: MOVS writes the special register's value; a CLOCKLO read latches the high half for its thread. A uniform
one reads those of the lowest executing thread (log 94). -/
def Obligations.SpecialRegisters : Prop := ∀ (s : State) (c : Issue) (h : Head) (d : Reg) (n : Nat) (fl : Flock) (wg : Workgroup),
  Ready s c h [] [d] → n < 28 → s.flock? c.f = some fl → s.wg? c.f c.m = some wg →
    let t := s.write1 c (c.targets h d) d fun l => wN ((specials s c fl wg (c.source h d l)).getD n 0)
    Sys2Proof.Machine.exec (.movs h n d) s =
      .next (if n = 16 then t.eachThread c ((c.exec h).filter fun l => c.source h d l == l) fun _ q => { q with clockhi := wN (s.cycle / 2 ^ 32) } else t)

/-- R102, R134: MOVC, read form. Before its chain issues, TRAPEN waits for earlier pipe-F words. A uniform
read of a register that each thread has takes that of the lowest executing thread (the model's reading: logs 94, 95). -/
def Sys2Proof.Rules.ControlRegisterRead : Prop := ∀ (s : State) (c : Issue) (h : Head) (d : Reg) (r : Fin 6), Ready s c h [] [d] →
  Sys2Proof.Machine.exec (.movcRead h r.val d) s = .next
    (if c.going = false ∧ r = 1 ∧ (c.exec h).any (s.pipeFPending c) = true then s.waits c
     else s.write1 c (c.targets h d) d fun l =>
      let t := c.snap.thread (c.source h d l)
      [t.trapvec, t.trapen, c.snap.fairness.setWidth 32, c.snap.joinlim.setWidth 32, if c.snap.progress then 1 else 0, t.srseed].getD r.val 0)

/-- R17, R18, R134: MOVC, write form. Reserved bits are ignored, a 1 clears a sticky bit, FAIRNESS is at least 64, and a per-warp register
keeps the value of the highest thread. -/
def Sys2Proof.Rules.ControlRegisterWrite : Prop := ∀ (s : State) (c : Issue) (h : Head) (a : Src), Ready s c h [one a] [] →
  let top := c.val (highest (c.exec h)) a
  Sys2Proof.Machine.exec (.movcWrite h 0 a) s = .next (s.eachThread c (c.exec h) fun l t => { t with trapvec := wN ((c.val l a).toNat % 2 ^ 24) }) ∧
  Sys2Proof.Machine.exec (.movcWrite h 1 a) s = .next (if c.going = false ∧ (c.exec h).any (s.pipeFPending c) = true then s.waits c else
    s.eachThread c (c.exec h) fun l t => { t with trapen := ((c.val l a) &&& 0x7) ||| (t.trapen &&& ~~~(c.val l a) &&& 0x70000) }) ∧
  Sys2Proof.Machine.exec (.movcWrite h 2 a) s = .next (s.modUnit c.f c.m c.u fun w => { w with fairness := BitVec.ofNat 16 (max 64 (top.toNat % 2 ^ 16)) }) ∧
  Sys2Proof.Machine.exec (.movcWrite h 3 a) s = .next (s.modUnit c.f c.m c.u fun w => { w with joinlim := top.setWidth 16 }) ∧
  Sys2Proof.Machine.exec (.movcWrite h 4 a) s = .next s ∧
  Sys2Proof.Machine.exec (.movcWrite h 5 a) s = .next (s.eachThread c (c.exec h) fun l t => { t with srseed := c.val l a })

/-! ## Floating point, functions and conversions -/

/-- R33, R34, R102: how a result reaches its threads. An enabled cause traps in each of them, FMTBAD first, then FPINV, then FPOVF, and
nothing else changes; the result of a pipe-F word that can raise no enabled cause runs on, its destination empty; any other is written at
once, full, and sets the sticky bits of its masked causes. -/
def Obligations.DeliverRule : Prop := ∀ (s : State) (c : Issue) (lanes : List Nat) (d : Reg) (r : Route) (o : Out) (x : Word),
  s.issue = some c → o.vals = [x] → (∀ w, s.unit? c.f c.m c.u = some w → w.isFull (lowest lanes) d = true) →
  let inv := lanes.any fun l => (c.snap.thread l).trapen.getLsbD 0
  let ovf := lanes.any fun l => (c.snap.thread l).trapen.getLsbD 1
  s.deliver c lanes d 1 r o =
    if o.fmtbad then s.raises (lanes.map fun l => (l, 0x0B, 0))
    else if o.inv && inv then s.raises (lanes.map fun l => (l, 0x09, 0))
    else if o.ovf && ovf then s.raises (lanes.map fun l => (l, 0x0A, 0))
    else if (match r with | .a => false | .f i v => !(i && inv) && !(v && ovf)) then
      { s.modUnit c.f c.m c.u fun w => w.empties [lowest lanes] d 1 with
        landings := s.landings ++ [c.landing lanes d 1 [x] true o.inv o.ovf] }
    else
      (s.write1 c [lowest lanes] d fun _ => x).eachThread c lanes fun _ t =>
        { t with trapen := t.trapen ||| (if o.inv then 0x10000 else 0) ||| (if o.ovf then 0x20000 else 0) }

/-- FP32 operand of a source under the flush rule of R84. -/
def Sys2Proof.Machine.fval (n : Nat) (c : Issue) (l : Nat) (r : Reg) : Val := flushIn (contractOf n) .fp32 (f32 (c.snap.get l r))
/-- The smaller and the larger of two values, -0 below +0; a single NaN gives the other (R115). -/
def Sys2Proof.Machine.smaller (x y : Val) : Val :=
  if x = .nan then y else if y = .nan then x else if ltVal x y || (eqVal x y && x.sign) then x else y
def Sys2Proof.Machine.larger (x y : Val) : Val :=
  if x = .nan then y else if y = .nan then x else if ltVal x y || (eqVal x y && x.sign) then y else x
/-- The exact result a·b + d of one rounding, unless an operand is NaN (R114). -/
def Sys2Proof.Machine.fused (x y z : Val) : Option Val :=
  if x = .nan ∨ y = .nan ∨ z = .nan then some .nan else (mulExact x y).bind fun p => addExact p z

/-- R84-R86, R114, R115: FP32 arithmetic. Each operation is exact and is rounded once under the contract; an exact result that does not
exist is invalid and gives NaN. -/
def Sys2Proof.Rules.FloatArithmetic : Prop := ∀ (h : Head) (d : Reg) (a b : Src) (e : Reg),
  Delivers (.fadd h d a b) h [one a, one b] d .a
    (fun n c l => outF (finish (contractOf n) .fp32 (addExact (fval n c l a.reg) (fval n c l b.reg)))) ∧
  Delivers (.fsub h d a b) h [one a, one b] d .a
    (fun n c l => outF (finish (contractOf n) .fp32 (addExact (fval n c l a.reg) (fval n c l b.reg).neg))) ∧
  Delivers (.fmul h d a b) h [one a, one b] d .a
    (fun n c l => outF (finish (contractOf n) .fp32 (mulExact (fval n c l a.reg) (fval n c l b.reg)))) ∧
  Delivers (.ffma h d a b e) h [one a, one b, plain e] d .a
    (fun n c l => outF (finish (contractOf n) .fp32 (fused (fval n c l a.reg) (fval n c l b.reg) (fval n c l e)))) ∧
  Delivers (.fmin h d a b) h [one a, one b] d .a (fun n c l => ⟨[w32 (smaller (fval n c l a.reg) (fval n c l b.reg))], false, false, false⟩) ∧
  Delivers (.fmax h d a b) h [one a, one b] d .a (fun n c l => ⟨[w32 (larger (fval n c l a.reg) (fval n c l b.reg))], false, false, false⟩)

/-- A lane of a packed register as an operand, and the result of two lanes (R117). -/
def Sys2Proof.Machine.hval (bf : Bool) (n : Nat) (c : Issue) (l : Nat) (r : Reg) (hi : Bool) : Val :=
  let x := (c.snap.get l r).toNat
  let f := if bf then Fmt.bf16 else Fmt.fp16
  flushIn (contractOf n) f (decode f (if hi then x / 2 ^ 16 else x % 2 ^ 16))
def Sys2Proof.Machine.bothLanes (bf : Bool) (f : Bool → FRes) : Out :=
  let g := if bf then Fmt.bf16 else Fmt.fp16
  ⟨[wN (encode g (f false).v + 2 ^ 16 * encode g (f true).v)], (f false).inv || (f true).inv, (f false).ovf || (f true).ovf, false⟩

/-- R117: packed 16-bit arithmetic, each lane as FP32 arithmetic computes it in the lane format. -/
def Sys2Proof.Rules.PackedArithmetic : Prop := ∀ (h : Head) (m : Bool) (d : Reg) (a b : Src) (e : Reg),
  let f := if m then Fmt.bf16 else Fmt.fp16
  Delivers (.hadd2 h m d a b) h [one a, one b] d .a
    (fun n c l => bothLanes m fun hi => finish (contractOf n) f (addExact (hval m n c l a.reg hi) (hval m n c l b.reg hi))) ∧
  Delivers (.hmul2 h m d a b) h [one a, one b] d .a
    (fun n c l => bothLanes m fun hi => finish (contractOf n) f (mulExact (hval m n c l a.reg hi) (hval m n c l b.reg hi))) ∧
  Delivers (.hfma2 h m d a b e) h [one a, one b, plain e] d .a
    (fun n c l => bothLanes m fun hi => finish (contractOf n) f (fused (hval m n c l a.reg hi) (hval m n c l b.reg hi) (hval m n c l e hi))) ∧
  Delivers (.hmin2 h m d a b) h [one a, one b] d .a
    (fun n c l => bothLanes m fun hi => ⟨smaller (hval m n c l a.reg hi) (hval m n c l b.reg hi), false, false⟩) ∧
  Delivers (.hmax2 h m d a b) h [one a, one b] d .a
    (fun n c l => bothLanes m fun hi => ⟨larger (hval m n c l a.reg hi) (hval m n c l b.reg hi), false, false⟩)

/-- A value rounded to an integral one: up n s q r says whether the magnitude q, with r / 2^n left over, is raised by one (R116). -/
def Sys2Proof.Machine.integral (up : Nat → Bool → Nat → Nat → Bool) : Val → Val
  | .fin s m e =>
    if m = 0 ∨ 0 ≤ e then .fin s m e
    else
      let n := (-e).toNat
      .fin s (m / 2 ^ n + (if up n s (m / 2 ^ n) (m % 2 ^ n) then 1 else 0)) 0
  | v => v
/-- R116: FRND to nearest even, down, up and toward zero; the sign is kept. -/
def Sys2Proof.Rules.RoundToIntegral : Prop := ∀ (h : Head) (d : Reg) (a : Src),
  let gives (i : Instr) (up : Nat → Bool → Nat → Nat → Bool) : Prop :=
    Delivers i h [one a] d (.f false false) fun n c l => ⟨[w32 (integral up (fval n c l a.reg))], false, false, false⟩
  gives (.frndNe h d a) (fun n _ q r => decide (2 ^ n < 2 * r) || (decide (2 * r = 2 ^ n) && decide (q % 2 = 1))) ∧
  gives (.frndFl h d a) (fun _ s _ r => s && decide (r ≠ 0)) ∧
  gives (.frndCe h d a) (fun _ s _ r => !s && decide (r ≠ 0)) ∧
  gives (.frndTr h d a) (fun _ _ _ _ => false)

/-- R91-R94, R118: the function instructions run on pipe F and give the contract's table revision. By the model's reading (log 7), SIN and
COS can raise FPOVF under revisions 1 and 2. -/
def Sys2Proof.Rules.FunctionWords : Prop := ∀ (h : Head) (d : Reg) (a : Src),
  let gives (i : Instr) (f : Func) (inv ovf : Bool) : Prop := Delivers i h [one a] d (.f inv ovf) fun n c l => outF (funcVal (contractOf n) f (f32 (c.snap.get l a.reg)))
  gives (.rcp h d a) .rcp false true ∧ gives (.rsq h d a) .rsq true false ∧ gives (.sqrt h d a) .sqrt true false ∧
  gives (.exp2 h d a) .exp2 false true ∧ gives (.log2 h d a) .log2 true false ∧ gives (.tanh h d a) .tanh false false ∧
  let turns (i : Instr) (f : Func) : Prop := DeliversBy i h [one a] d (fun n => .f true (decide ((contractOf n).rev ≠ 3)))
    fun n c l => outF (funcVal (contractOf n) f (f32 (c.snap.get l a.reg)))
  turns (.sin h d a) .sin ∧ turns (.cos h d a) .cos

/-- R92: the special operands of the functions, under every contract: NaN, ±infinity and ±0 for RCP, RSQ, SQRT, EXP2, LOG2, SIN, COS and
TANH in order, and the invalid negative operands of RSQ, SQRT and LOG2. -/
def Sys2Proof.Rules.FunctionSpecialValues : Prop := ∀ (n : Nat),
  let all : List Func := [.rcp, .rsq, .sqrt, .exp2, .log2, .sin, .cos, .tanh]
  let at_ (v : Val) : List (Val × Bool) := all.map fun f => ((funcVal (contractOf n) f v).v, (funcVal (contractOf n) f v).inv)
  let ok (v : Val) : Val × Bool := (v, false)
  let bad : Val × Bool := (.nan, true)
  (∀ v ∈ at_ .nan, v = ok .nan) ∧
  at_ (.inf false) = [ok (.zero false), ok (.zero false), ok (.inf false), ok (.inf false), ok (.inf false), bad, bad, ok .one] ∧
  at_ (.inf true) = [ok (.zero true), bad, bad, ok (.zero false), bad, bad, bad, ok (.fin true 1 0)] ∧
  (∀ s, at_ (.zero s) = [ok (.inf s), ok (.inf s), ok (.zero s), ok .one, ok (.inf true), ok (.zero s), ok .one, ok (.zero s)]) ∧
  ∀ m e, m ≠ 0 → belowNormal .fp32 m e = false → ∀ f ∈ [Func.rsq, .sqrt, .log2], funcVal (contractOf n) f (.fin true m e) = ⟨.nan, true, false⟩

/-- R91, R118: under a revision-3 contract, RCP is the exact 1 / x rounded once. -/
def Sys2Proof.Rules.ReciprocalIsRounded : Prop := ∀ (n : Nat) (s : Bool) (m : Nat) (e : Int),
  (contractOf n).rev = 3 → m ≠ 0 →
  (funcVal (contractOf n) .rcp (.fin s m e)).v =
    (roundC (contractOf n).flush (contractOf n).saturate .fp32 .ne s 1 m (-e)).v

/-- The value of a finite exact value as a rational number. -/
def Sys2Proof.Machine.Val.rat : Val → ℚ
  | .fin s m e => (if s then -1 else 1) * m * (2 : ℚ) ^ e
  | _ => 0
def Sys2Proof.Machine.Val.isFin : Val → Bool
  | .fin _ _ _ => true
  | _ => false
/-- R35, R86: exact sums and products and comparisons of finite values are those of the rational numbers. -/
def Sys2Proof.Rules.ExactArithmetic : Prop := ∀ (x y : Val), x.isFin = true → y.isFin = true →
  (∃ v, addExact x y = some v ∧ v.isFin = true ∧ v.rat = x.rat + y.rat) ∧
  (∃ v, mulExact x y = some v ∧ v.isFin = true ∧ v.rat = x.rat * y.rat) ∧
  (ltVal x y = true ↔ x.rat < y.rat) ∧ (eqVal x y = true ↔ x.rat = y.rat)

/-- R35: the integer that Round gives for num / den · 2^e in units of 2^q: to nearest with ties to even, toward zero, toward minus and
toward plus infinity. -/
def Sys2Proof.Rules.RoundingModes : Prop := ∀ (s : Bool) (num den : Nat) (e q : Int), 0 < den →
  let x : ℚ := (num : ℚ) / den * (2 : ℚ) ^ (e - q)
  let ne : ℚ := (roundInt .ne s num den e q : Nat)
  (|ne - x| ≤ 1 / 2 ∧ (|ne - x| = 1 / 2 → roundInt .ne s num den e q % 2 = 0)) ∧
  (roundInt .rz s num den e q : Int) = ⌊x⌋ ∧
  (roundInt .rd s num den e q : Int) = (if s then ⌈x⌉ else ⌊x⌋) ∧
  (roundInt .ru s num den e q : Int) = (if s then ⌊x⌋ else ⌈x⌉)

/-- R69: an FP32 register that is not a NaN is the encoding of its value. -/
def Sys2Proof.Rules.Fp32RoundTrip : Prop := ∀ x : Word, f32 x ≠ .nan → w32 (f32 x) = x

/-- An integer conversion of R120: nearest limit and FPINV outside the range; NaN gives 0 and FPINV. -/
def Sys2Proof.Machine.clamped (lo hi : Int) (mode : RMode) (v : Val) : Out :=
  match v with
  | .nan => ⟨[0], true, false, false⟩
  | .inf s => ⟨[wI (if s then lo else hi)], true, false, false⟩
  | .fin s m e =>
    let x : Int := (if s then -1 else 1) * (roundInt mode s m 1 e 0 : Nat)
    ⟨[wI (max lo (min hi x))], decide (x < lo) || decide (hi < x), false, false⟩
/-- A conversion of a value to FP32, FP16 or BF16 under the contract (R84, R85), and to E4M3, E5M2 or E2M1 (R87). -/
def Sys2Proof.Machine.rounded (n : Nat) (f : Fmt) (mode : RMode) (v : Val) : Out :=
  let r := roundVal (contractOf n) f mode v
  ⟨[wN (encode f r.v)], r.inv, r.ovf, false⟩
def Sys2Proof.Machine.narrowed (f : Fmt) (sat : Bool) (v : Val) : Out := let r := narrow f sat .ne v; ⟨[wN (encode f r.v)], r.inv, false, false⟩
/-- The 24 conversions of R119 in order of their codes, for a register a and its pair's other register hi. -/
def Sys2Proof.Machine.conversions (n : Nat) (a hi : Word) : List Out :=
  let s32 := fun mode => clamped (-(2 ^ 31)) (2 ^ 31 - 1) mode (flushIn (contractOf n) .fp32 (f32 a))
  let u32 := fun mode => clamped 0 (2 ^ 32 - 1) mode (flushIn (contractOf n) .fp32 (f32 a))
  let x := flushIn (contractOf n) .fp32 (f32 a)
  let lo := fun f => flushIn (contractOf n) f (decode f (a.toNat % 2 ^ 16))
  let wide := decode .f64 (dword a hi).toNat
  let when (p : Bool) (o : Out) : Out := if p then o else ⟨[0], false, false, true⟩
  let exactly (v : Val) : Out := ⟨[w32 v], false, false, false⟩
  [rounded n .fp32 .ne (.fin (decide (a.toInt < 0)) a.toInt.natAbs 0), rounded n .fp32 .ne (.fin false a.toNat 0), s32 .ne, s32 .rz, u32 .ne, u32 .rz,
   s32 .rd, s32 .ru, rounded n .fp32 .ne wide, rounded n .fp32 .rz wide, rounded n .fp16 .ne x, rounded n .bf16 .ne x, rounded n .fp32 .ne (lo .fp16),
   rounded n .fp32 .ne (lo .bf16), rounded n .bf16 .ne (lo .fp16), rounded n .fp16 .ne (lo .bf16), when (admitsNarrow n) (narrowed .e4m3 true x),
   when (admitsNarrow n) (narrowed .e4m3 false x), when (admitsNarrow n) (narrowed .e5m2 true x), when (admitsNarrow n) (narrowed .e5m2 false x),
   when (admitsNarrow n) (exactly (decode .e4m3 (a.toNat % 2 ^ 8))), when (admitsNarrow n) (exactly (decode .e5m2 (a.toNat % 2 ^ 8))),
   when (admitsFour n) (narrowed .e2m1 true x), when (admitsFour n) (exactly (decode .e2m1 (a.toNat % 2 ^ 4)))]
/-- R119, R120: CVT by its code; a format that the contract does not admit raises FMTBAD. Codes 8 and 9 read a pair. -/
def Obligations.Conversions : Prop := ∀ (h : Head) (code : Fin 24) (d : Reg) (a : Src),
  Delivers (.cvt h code.val d a) h [if code = 8 ∨ code = 9 then pair a else one a] d (.f (code.val ∈ [2, 3, 4, 5, 6, 7, 22]) (code.val ∈ [8, 9, 10, 11, 15]))
    fun n c l => (conversions n (c.snap.get l a.reg) (c.snap.get l (a.reg.at 1))).getD code.val ⟨[], false, false, false⟩

/-- The element of a QEXP or QCVT format code that the contract admits (R81, R124). -/
def Sys2Proof.Machine.squareFormat (n : Nat) (b : Word) : Option Elem :=
  (([.e4m3, .e5m2, .e2m1, .int8, .int4] : List Elem)[b.toNat / 2 ^ 8 % 16]?).filter fun f => if f = .e2m1 then admitsFour n else admitsNarrow n
/-- R74, R122-R125: FPACK, FUNPK by its minor, QEXP and QCVT. -/
def Sys2Proof.Rules.PackingAndSquares : Prop := ∀ (h : Head) (code : Fin 20) (d : Reg) (a b : Src),
  let fmtbad : Out := ⟨[0], false, false, true⟩
  let exactly (v : Val) : Out := ⟨[w32 v], false, false, false⟩
  Delivers (.fpack h d a b) h [one a, one b] d (.f false true) (fun n c l =>
    let lo := roundVal (contractOf n) .bf16 .ne (fval n c l a.reg)
    let hi := roundVal (contractOf n) .bf16 .ne (fval n c l b.reg)
    ⟨[wN (encode .bf16 lo.v + 2 ^ 16 * encode .bf16 hi.v)], false, lo.ovf || hi.ovf, false⟩) ∧
  Delivers (.funpk h code.val d a) h [one a] d (.f false false) (fun n c l =>
    let x := (c.snap.get l a.reg).toNat
    if code.val < 4 then (if admitsNarrow n then exactly (decode .e4m3 (x / 2 ^ (8 * code.val) % 2 ^ 8)) else fmtbad)
    else if code.val < 8 then (if admitsNarrow n then exactly (decode .e5m2 (x / 2 ^ (8 * (code.val - 4)) % 2 ^ 8)) else fmtbad)
    else if code.val < 16 then (if admitsFour n then exactly (decode .e2m1 (x / 2 ^ (4 * (code.val - 8)) % 2 ^ 4)) else fmtbad)
    else
      let f := if code.val < 18 then Fmt.bf16 else Fmt.fp16
      rounded n .fp32 .ne (flushIn (contractOf n) f (decode f (if code.val % 2 = 0 then x % 2 ^ 16 else x / 2 ^ 16)))) ∧
  Delivers (.qexp h d a b) h [one a, one b] d (.f false false) (fun n c l =>
    match squareFormat n (c.snap.get l b.reg) with
    | none => fmtbad
    | some f =>
      let r : Nat := match fval n c l a.reg with
        | .fin _ 0 _ => 15
        | .fin _ m e =>
          let t : Int := floorLog2 m 1 e - f.emax - (((c.snap.get l b.reg).toNat % 2 ^ 8 : Nat) - 127)
          if 14 < t then 256 + 14 else t.toNat
        | _ => 256 + 14
      ⟨[wN r], false, false, false⟩) ∧
  Delivers (.qcvt h d a b) h [one a, one b] d (.f true false) (fun n c l =>
    let y := (c.snap.get l b.reg).toNat
    match squareFormat n (c.snap.get l b.reg) with
    | none => fmtbad
    | some f =>
      let x := (fval n c l a.reg).scale (127 - (y % 2 ^ 8 : Nat))
      match f.fmt with
      | some g => narrowed g true x
      | none => let r := offsetCode f.bits (y / 2 ^ 16 % 2 ^ f.bits) .ne x; ⟨[wN r.1], r.2.2, false, false⟩)

/-- R35, R102, R121: CVTSR takes the next SEQ. Where it cannot raise an enabled FPOVF, the destination is empty until its random word arrives;
else the result, or FPOVF without a word taken, is known at once. A format that the contract does not admit raises FMTBAD.
The word of a w destination is that of the lowest executing thread, by its SEQ, lane and SRSEED (the model's reading: logs 8, 94). -/
def Sys2Proof.Rules.StochasticConversion : Prop := ∀ (s : State) (c : Issue) (chain : Bool) (k : Nat) (m : Bool) (d : Reg) (a : Src),
  let h : Head := ⟨chain, none⟩
  Ready s c h [one a] [d] →
  (m = true → admitsNarrow (s.contractNo c.f) = false →
    Sys2Proof.Machine.exec (.cvtsr chain k m d a) s = .next (s.raises ((c.exec h).map fun l => (l, 0x0B, 0)))) ∧
  ((m = true → admitsNarrow (s.contractNo c.f) = true) → (m = true ∨ ∀ l ∈ c.exec h ++ c.readers h, (c.snap.thread l).trapen.getLsbD 1 = false) →
    Sys2Proof.Machine.exec (.cvtsr chain k m d a) s = .next
      { (s.modUnit c.f c.m c.u fun w => w.empties (c.targets h d) d 1).eachThread c
          (((c.targets h d).map (c.source h d)).filter fun l => !c.gone.contains l) fun _ t => { t with seq := t.seq + 1 } with
        randoms := s.randoms ++ (c.groups h d).map fun ls =>
          let l := c.source h d (lowest ls)
          let t := s.live c l
          { f := c.f, m := c.m, u := c.u, lanes := ls, lane := l, seq := t.seq, srseed := t.srseed, dest := d
            convert := some (c.val l a, k, m), drop := false } }) ∧
  ∀ l, m = false → c.gone = [] → c.exec h = [l] → (c.snap.thread l).trapen.getLsbD 1 = true →
    let n := s.contractNo c.f
    let t := s.live c l
    let r := roundVal (contractOf n) .bf16 (.sr k (s.randomFor c.f c.m c.u l t.seq t.srseed).toNat) (fval n c l a.reg)
    Sys2Proof.Machine.exec (.cvtsr chain k m d a) s = .next (if r.ovf then s.raises [(l, 0x0A, 0)] else
      (s.eachThread c [l] fun _ t => { t with seq := t.seq + 1 }).write1 c [l] d
        fun _ => wN (encode .bf16 r.v))

/-- R95-R98: the counter of a random word, under contract 0 some other (R80); the generator's two revisions as rounds of R97; in lattice mode
the counter times STRIDE. -/
def Sys2Proof.Rules.RandomWords : Prop := ∀ (s : State) (f m u lane : Nat) (seq : BitVec 30) (srseed : Word) (fl : Flock) (wg : Workgroup),
  s.flock? f = some fl → s.wg? f m = some wg → u ≤ 32 → lane < 32 →
  let n : Nat := seq.toNat + 2 ^ 30 * (if u = 32 then 0 else lane) + 2 ^ 35 * (if u = 32 then 0 else u) + (if u = 32 then 2 ^ 40 else 0) + 2 ^ 41 * (wg.wgid % 2 ^ 23)
  ∃ k, (fl.launch.contract ≠ 0 → k = n) ∧ s.randomFor f m u lane seq srseed = if fl.launch.lattice then wN k * fl.launch.stride
    else mixWord (contractOf fl.launch.contract).gen k fl.launch.lseed srseed

/-- Every floating-point word completes, with no trap, while both enables are 0 and the contract admits its format (R34). -/
def Sys2Proof.Rules.FloatWordsComplete : Prop := ∀ (s : State) (c : Issue) (h : Head) (m : Bool) (d : Reg) (a b : Src) (e : Reg) (code : Fin 24)
    (part : Fin 20) (k : Nat),
  let n := s.contractNo c.f
  (∀ l ∈ c.exec h, (c.snap.thread l).trapen.getLsbD 0 = false ∧ (c.snap.thread l).trapen.getLsbD 1 = false) →
  let completes (i : Instr) : Prop := ∃ t, Sys2Proof.Machine.exec i s = .next t ∧ t.issue = some c
  (Ready s c h [one a] [d] → ∀ i ∈ [Instr.frndNe h d a, .frndFl h d a, .frndCe h d a, .frndTr h d a, .rcp h d a, .rsq h d a, .sqrt h d a,
      .exp2 h d a, .log2 h d a, .sin h d a, .cos h d a, .tanh h d a, .wredFadd h d a, .wredFmin h d a, .wredFmax h d a], completes i) ∧
  (Ready s c h [if code = 8 ∨ code = 9 then pair a else one a] [d] → (16 ≤ code.val → code.val < 22 → admitsNarrow n = true) →
      (22 ≤ code.val → admitsFour n = true) → completes (.cvt h code.val d a)) ∧
  (Ready s c h [one a] [d] → (part.val < 8 → admitsNarrow n = true) → (8 ≤ part.val → part.val < 16 → admitsFour n = true) →
      completes (.funpk h part.val d a)) ∧
  (Ready s c h [one a, one b] [d] → (∀ l ∈ c.exec h, (squareFormat n (c.val l b)).isSome = true) → completes (.qexp h d a b) ∧ completes (.qcvt h d a b)) ∧
  (h.guard = none → Ready s c h [one a] [d] → (∀ l ∈ c.readers h, (c.snap.thread l).trapen.getLsbD 1 = false) → (m = true → admitsNarrow n = true) →
      completes (.cvtsr h.chain k m d a)) ∧
  (Ready s c h [one a, one b] [d] → ∀ i ∈ [Instr.fadd h d a b, .fsub h d a b, .fmul h d a b, .fmin h d a b, .fmax h d a b, .hadd2 h m d a b,
      .hmul2 h m d a b, .hmin2 h m d a b, .hmax2 h m d a b, .fpack h d a b], completes i) ∧
  (Ready s c h [one a, one b, plain e] [d] → ∀ i ∈ [Instr.ffma h d a b e, .hfma2 h m d a b e], completes i)

/-! ## Warp operations, hurdles and queues -/

/-- The lanes of the executing threads of the group (log 94) whose value of a source is not 0. -/
def Sys2Proof.Machine.Issue.truthy (c : Issue) (h : Head) (a : Src) : List Nat := (c.readers h).filter fun l => c.val l a ≠ 0
/-- R166: VANY, VALL, BALLOT, ACTM, FIRST and COUNT. -/
def Sys2Proof.Rules.WarpQueries : Prop := ∀ (h : Head) (d : Reg) (a : Src),
  ResultIs (.vany h d a) h [one a] d (fun c _ => if c.truthy h a = [] then 0 else 1) ∧
  ResultIs (.vall h d a) h [one a] d (fun c _ => if c.truthy h a = c.readers h then 1 else 0) ∧
  ResultIs (.ballot h d a) h [one a] d (fun c _ => wN ((c.truthy h a).foldl (fun x l => x ||| 2 ^ l) 0)) ∧
  ResultIs (.actm h d) h [] d (fun c _ => wN ((c.readers h).foldl (fun x l => x ||| 2 ^ l) 0)) ∧
  ResultIs (.first h d a) h [one a] d (fun c _ => c.val (lowest (c.readers h)) a) ∧
  ResultIs (.count h d a) h [one a] d (fun c _ => wN (c.truthy h a).length)

/-- R168: a shuffle takes the value of its source lane when that lane executes, else its own; a w destination takes the lowest thread's own. -/
def Sys2Proof.Rules.Shuffles : Prop := ∀ (h : Head) (d : Reg) (a : Src) (b : Reg),
  let takes (i : Instr) (source : Nat → Nat → Option Nat) : Prop :=
    ResultIs i h [one a, plain b] d fun c l =>
      if d.isW then c.val (c.source h d l) a
      else match source l (c.snap.get l b).toNat with
      | some j => if j ∈ c.readers h then c.val j a else c.val l a
      | none => c.val l a
  takes (.shflIdx h d a b) (fun _ n => some (n % 32)) ∧
  takes (.shflUp h d a b) (fun l n => if n ≤ l then some (l - n) else none) ∧
  takes (.shflDown h d a b) (fun l n => if l + n < 32 then some (l + n) else none) ∧
  takes (.shflXor h d a b) (fun l n => some (l ^^^ n % 32))

/-- R169: the integer reductions over the executing threads. -/
def Sys2Proof.Rules.IntegerReductions : Prop := ∀ (h : Head) (d : Reg) (a : Src),
  let gives (i : Instr) (x : List Word → Word) : Prop := ResultIs i h [one a] d fun c _ => x ((c.readers h).map fun l => c.val l a)
  gives (.wredAdd h d a) (fun xs => wN (xs.map BitVec.toNat).sum) ∧
  gives (.wredMin h d a) (fun xs => wI ((xs.map BitVec.toInt).foldl min (2 ^ 31 - 1))) ∧
  gives (.wredMax h d a) (fun xs => wI ((xs.map BitVec.toInt).foldl max (-2 ^ 31))) ∧
  gives (.wredMinu h d a) (fun xs => wN ((xs.map BitVec.toNat).foldl min (2 ^ 32 - 1))) ∧
  gives (.wredMaxu h d a) (fun xs => wN ((xs.map BitVec.toNat).foldl max 0)) ∧
  gives (.wredAnd h d a) (fun xs => xs.foldl (· &&& ·) (BitVec.allOnes 32)) ∧
  gives (.wredOr h d a) (fun xs => xs.foldl (· ||| ·) 0) ∧
  gives (.wredXor h d a) (fun xs => xs.foldl (· ^^^ ·) 0)

/-- The pairwise tree of R90 over a list that is not empty: adjacent pairs, an odd last one carried, until one is left. -/
def Sys2Proof.Machine.treeOf (f : FRes → FRes → FRes) : Nat → List FRes → Option FRes
  | _, [] => none
  | _, [x] => some x
  | 0, _ => none
  | n + 1, xs => treeOf f n ((List.range ((xs.length + 1) / 2)).filterMap fun k =>
      match xs[2 * k]?, xs[2 * k + 1]? with
      | some x, some y => some (f x y)
      | some x, none => some x
      | _, _ => none)
/-- R84-R86, R90, R169: the floating-point reductions are the pairwise tree in ascending lane order. WRED.FADD rounds each add under the
contract and gathers its causes, which trap or stick in every executing thread; WRED.FMIN and WRED.FMAX raise none, and give a single
value as it is. -/
def Sys2Proof.Rules.FloatReductions : Prop := ∀ (s : State) (c : Issue) (h : Head) (d : Reg) (a : Src), Ready s c h [one a] [d] → (c.readers h).length ≤ 32 →
  let n := s.contractNo c.f
  (∃ r : FRes,
    treeOf (fun x y =>
        let q := finish (contractOf n) .fp32 (addExact (flushIn (contractOf n) .fp32 x.v) (flushIn (contractOf n) .fp32 y.v))
        ⟨q.v, x.inv || y.inv || q.inv, x.ovf || y.ovf || q.ovf⟩) 5 ((c.readers h).map fun l => ⟨fval n c l a.reg, false, false⟩) = some r ∧
    Sys2Proof.Machine.exec (.wredFadd h d a) s = .next
      (if r.inv && (c.readers h).any fun l => (c.snap.thread l).trapen.getLsbD 0 then s.raises ((c.exec h).map fun l => (l, 0x09, 0))
       else if r.ovf && (c.readers h).any fun l => (c.snap.thread l).trapen.getLsbD 1 then s.raises ((c.exec h).map fun l => (l, 0x0A, 0))
       else (s.write1 c (c.targets h d) d fun _ => w32 r.v).eachThread c (c.exec h) fun _ t =>
        { t with trapen := t.trapen ||| (if r.inv then 0x10000 else 0) ||| (if r.ovf then 0x20000 else 0) })) ∧
  ∀ least : Bool, ∃ r : FRes,
    treeOf (fun x y =>
        let p := flushIn (contractOf n) .fp32 x.v
        let q := flushIn (contractOf n) .fp32 y.v
        ⟨if least then smaller p q else larger p q, false, false⟩) 5 ((c.readers h).map fun l => ⟨f32 (c.val l a), false, false⟩) = some r ∧
    Sys2Proof.Machine.exec (if least then .wredFmin h d a else .wredFmax h d a) s = .next
      (s.write1 c (c.targets h d) d fun _ => if (c.readers h).length = 1 then c.val (lowest (c.readers h)) a else w32 r.v)

/-- The bit of a hurdle among a thread's arrivals, and the phase count of the hurdle that a register names (R172). -/
def Sys2Proof.Machine.hurdleOf (x : Word) : Bool × Nat := (x.getLsbD 4, x.toNat % 16)
def Sys2Proof.Machine.State.phaseOf (s : State) (c : Issue) (q : Bool × Nat) : Word :=
  if q.1 then ((s.flock? c.f).map fun fl => fl.hurdles.getD q.2 0).getD 0 else ((s.wg? c.f c.m).map fun wg => wg.hurdles.getD q.2 0).getD 0
def Sys2Proof.Machine.Thread.at? (t : Thread) (q : Bool × Nat) : Bool := t.arrived.getLsbD ((if q.1 then 16 else 0) + q.2)
def Sys2Proof.Machine.Thread.arriveAt (t : Thread) (q : Bool × Nat) : Thread :=
  { t with arrived := t.arrived ||| (1 : BitVec 32) <<< ((if q.1 then 16 else 0) + q.2) }

/-- The state in which some threads of the issuing unit owe a hurdle the waiting loads that they have issued (R174). -/
def Sys2Proof.Machine.State.owing (s : State) (c : Issue) (q : Bool × Nat) (lanes : List Nat) : State :=
  s.modFlock c.f fun fl => { fl with wgs := fl.wgs.map fun wg => { wg with waits := wg.waits.map fun x =>
    if x.m = c.m ∧ x.u = c.u ∧ ∃ l ∈ x.lanes, l ∈ lanes then { x with owes := x.owes ||| (1 : BitVec 32) <<< ((if q.1 then 16 else 0) + q.2) } else x } }

/-- R171, R174: HURDLE and HURDLE.F. Threads that have not arrived arrive, and owe the hurdle the loads that they wait for; if any had arrived,
the whole group is held for two phases, and those arrive again when the first completes (a reading: log 22), else for one; in a herder there
is no effect. -/
def Sys2Proof.Rules.HurdleArrives : Prop := ∀ (s : State) (c : Issue) (h : Head) (fl : Bool) (n : Fin 16), Ready s c h [] [] →
  Sys2Proof.Machine.exec (if fl then .hurdleF h n else .hurdle h n) s = .next
    (if c.u = 32 then s
     else
      let late (l : Nat) : Bool := (c.snap.thread l).at? (fl, n.val)
      let phases := if (c.exec h).any late then 2 else 1
      (s.owing c (fl, n.val) ((c.exec h).filter fun l => !late l)).eachThread c c.lanes fun l t =>
        if l ∉ c.exec h then { t with hold := .hurdle fl n.val phases false }
        else if late l then { t with hold := .hurdle fl n.val phases true }
        else { t.arriveAt (fl, n.val) with hold := .hurdle fl n.val phases false })

/-- R172-R174: ARRIVE writes the phase count and arrives, and owes the loads that it waits for; before its chain issues, it waits while one of
its threads has arrived. AWAIT holds its group until each phase count differs from its thread's b. -/
def Sys2Proof.Rules.ArriveAwait : Prop := ∀ (s : State) (c : Issue) (h : Head) (d : Reg) (a b : Src),
  (Ready s c h [one a] [d] →
    Sys2Proof.Machine.exec (.arrive h d a) s = .next
      (if c.u = 32 then s.write1 c (c.targets h d) d fun l => s.phaseOf c (hurdleOf (c.val (c.source h d l) a))
       else if c.going = false ∧ (c.exec h).any fun l => (c.snap.thread l).at? (hurdleOf (c.val l a)) then s.waits c
       else (c.exec h).foldl (fun s l => s.owing c (hurdleOf (c.val l a)) [l])
        ((s.write1 c (c.targets h d) d fun l => s.phaseOf c (hurdleOf (c.val (c.source h d l) a))).eachThread c (c.exec h) fun l t => t.arriveAt (hurdleOf (c.val l a))))) ∧
  (Ready s c h [one a, one b] [] →
    Sys2Proof.Machine.exec (.await h a b) s = .next
      (if c.going = false ∧ ∃ l ∈ c.exec h, s.phaseOf c (hurdleOf (c.val l a)) = c.val l b then s.holds c .wait else s))

/-- R170, R171, R174: a phase of a workgroup hurdle, and one of a flock hurdle, completes when every live warp thread has arrived and none of
them owes it a load: its count rises by one, the arrivals are used up and who waits for this phase goes on; until then nothing changes. -/
def Sys2Proof.Rules.HurdlePhase : Prop := ∀ (fl : Flock) (m : Nat) (wg : Workgroup) (n : Fin 16), fl.wgs[m]? = some wg →
  let live (wgs : List Workgroup) : List Thread := wgs.flatMap fun wg => wg.warps.flatMap fun w => w.threads.filter Thread.live
  let owed (q : WaitLoad) (b : Nat) : Prop := (∃ wg ∈ fl.wgs, q ∈ wg.waits) ∧ q.owes.getLsbD b = true
  let ends (a b : Workgroup) (scope : Bool) : Prop := ∀ (u : Nat) (w' : Warp) (l : Nat) (t' : Thread), b.warps[u]? = some w' → w'.threads[l]? = some t' →
    ((∀ k, t'.hold ≠ .hurdle scope n.val k false) → t'.at? (scope, n.val) = false) ∧
    ∃ (w : Warp) (t : Thread), a.warps[u]? = some w ∧ w.threads[l]? = some t ∧ (t.hold = .hurdle scope n.val 1 false → t'.hold = .none)
  (live [wg] ≠ [] → (∀ t ∈ live [wg], t.at? (false, n.val) = true) → (∀ q, owed q n.val → q.m ≠ m) →
    ∃ x, (fl.settleHurdleOf m n.val).wgs[m]? = some x ∧ x.hurdles = wg.hurdles.set n.val (wg.hurdles.getD n.val 0 + 1) ∧ ends wg x false) ∧
  ((∃ t ∈ live [wg], t.at? (false, n.val) = false) ∨ (∃ q, owed q n.val ∧ q.m = m ∧ ∃ l ∈ q.lanes, (fl.threadOf q.m q.u l).live = true) →
    fl.settleHurdleOf m n.val = fl) ∧
  (live fl.wgs ≠ [] → (∀ t ∈ live fl.wgs, t.at? (true, n.val) = true) → (∀ q, ¬owed q (16 + n.val)) →
    (fl.settleHurdle n.val).hurdles = fl.hurdles.set n.val (fl.hurdles.getD n.val 0 + 1) ∧
    ∃ x, (fl.settleHurdle n.val).wgs[m]? = some x ∧ ends wg x true) ∧
  ((∃ t ∈ live fl.wgs, t.at? (true, n.val) = false) ∨ (∃ q, owed q (16 + n.val) ∧ ∃ l ∈ q.lanes, (fl.threadOf q.m q.u l).live = true) →
    fl.settleHurdle n.val = fl)

/-- R150, R151, R175-R177: the decision queue. A herder's DQPUSH appends, and before it issues waits while 64 entries are held; any other raises DQBAD.
A whole warp's DQPOP or BRDQ takes the entry at its cursor. -/
def Obligations.DecisionQueue : Prop := ∀ (s : State) (c : Issue) (h : Head) (d : Reg) (a : Src) (off : Int) (wg : Workgroup) (l : Launch),
  s.wg? c.f c.m = some wg → s.launchOf c.f = some l →
  (Ready s c h [one a] [] →
    (c.u ≠ 32 → Sys2Proof.Machine.exec (.dqpush h a) s = .next (s.raises ((c.exec h).map fun l => (l, 0x0C, 0)))) ∧
    (c.u = 32 → Sys2Proof.Machine.exec (.dqpush h a) s = .next
      (if c.going = false ∧ 64 ≤ wg.dq.length then s.holds c .wait else s.modWg c.f c.m fun wg => { wg with dq := wg.dq ++ [c.val (lowest (c.exec h)) a] }))) ∧
  (c.u ≠ 32 → l.pool = none → (c.snap.thread (lowest c.group)).trapMode = false → c.exec h = c.lanes →
    (∀ k, (c.snap.thread k).live = true → k ∈ c.lanes) → (∀ k, (c.snap.thread k).stray = false) →
    (∀ x, wg.dqBase ≤ c.snap.cursor → wg.dq[c.snap.cursor - wg.dqBase]? = some x →
      (Ready s c h [] [d] → Sys2Proof.Machine.exec (.dqpop h d) s =
        .next ((s.consume c).flies c ((c.targets h d).map fun l => [l]) d 1 fun _ => [x])) ∧
      (Ready s c h [] [] → Sys2Proof.Machine.exec (.brdq h off) s =
        .next (if x.getLsbD 0 then (s.consume c).jumps c (c.exec h) fun _ => c.here + off else s.consume c))) ∧
    (wg.dqBase + wg.dq.length ≤ c.snap.cursor → wg.herderEnded = false →
      (Ready s c h [] [d] → Sys2Proof.Machine.exec (.dqpop h d) s = .next
        (((s.modUnit c.f c.m c.u fun w => w.empties (c.targets h d) d 1).modWg c.f c.m fun wg =>
          { wg with pops := wg.pops ++ [⟨0, c.u, c.targets h d, d, c.snap.cursor⟩] }).modUnit c.f c.m c.u fun w => { w with cursor := w.cursor + 1 })) ∧
      (Ready s c h [] [] → Sys2Proof.Machine.exec (.brdq h off) s = .next (s.holds c .wait)))) ∧
  (c.going = false → c.u = 32 ∨ l.pool ≠ none ∨ c.exec h ≠ c.lanes ∨ (c.snap.thread (lowest c.group)).trapMode = true ∨
      (∃ k, (c.snap.thread k).live = true ∧ (c.snap.thread k).stray = false ∧ k ∉ c.lanes ∧ ∀ j ∈ c.lanes, (c.snap.thread j).hold.awaits.getLsbD k = false) ∨
      ((∀ k, (c.snap.thread k).live = true → k ∈ c.lanes) ∧ (∀ k, (c.snap.thread k).stray = false) ∧ wg.dqBase + wg.dq.length ≤ c.snap.cursor ∧ wg.herderEnded = true) →
    (Ready s c h [] [d] → Sys2Proof.Machine.exec (.dqpop h d) s = .next (s.raises ((c.exec h).map fun l => (l, 0x0C, 0)))) ∧
    (Ready s c h [] [] → Sys2Proof.Machine.exec (.brdq h off) s = .next (s.raises ((c.exec h).map fun l => (l, 0x0C, 0)))))

/-- R35, R96, R179: QPOP. Its destination is empty until the word arrives; q2 asks for a random word for each thread, or for the highest
executing one of the group with a w destination (log 94), and advances its SEQ where the chain takes effect. -/
def Sys2Proof.Rules.QueuePop : Prop := ∀ (s : State) (c : Issue) (h : Head) (d : Reg) (n : Nat), Ready s c h [] [d] → n = 1 ∨ n = 2 ∨ n = 3 →
  let who := if n = 2 ∧ d.isW then [highest (c.readers h)] else c.targets h d
  let t := s.modUnit c.f c.m c.u fun w => w.empties who d 1
  Sys2Proof.Machine.exec (.qpop h n d) s = .next
    (if n = 2 then
      { t.eachThread c (who.filter fun l => !c.gone.contains l) fun _ t => { t with seq := t.seq + 1 } with
        randoms := s.randoms ++ who.map fun l =>
          { f := c.f, m := c.m, u := c.u, lanes := [l], lane := l, seq := (s.live c l).seq, srseed := (s.live c l).srseed
            dest := d, convert := none, drop := false } }
     else t.modWg c.f c.m fun wg => { wg with pops := wg.pops ++ [⟨n, c.u, who, d, 0⟩] })

/-- R158, R180: CONT. A pool that is not live raises PROTFAULT with its number; else the chain waits until the record's registers are full
and the area has room for all of the group's (log 97), and the thread leaves its record at the end of the chain; a word that it would carry whose check bits
fail raises UNCORR (R342). -/
def Sys2Proof.Rules.Continuation : Prop := ∀ (s : State) (c : Issue) (h : Head) (a b : Src), Ready s c h [one a, one b] [] →
  let named (l : Nat) : Option Pool := s.poolFor c.f (c.val l a).toNat
  let bad := (c.exec h).filter fun l => (named l).isNone
  let good := (c.exec h).filter fun l => (named l).isSome
  let ready := ∀ l ∈ good, ∀ q, named l = some q → (∀ k < s.poolRegs c.f q.seq, (c.snap.thread l).full.getLsbD k = true) ∧
    (good.filter fun k => c.val k a = c.val l a).length ≤ s.poolRoom c.f q
  let lost (l : Nat) : Bool := (named l).any fun q => (List.range (s.poolRegs c.f q.seq)).any fun k => s.bad.contains (.reg c.f c.m c.u l (.v (Fin.ofNat 24 k)))
  let t := s.raises (bad.map fun l => (l, 0x06, BitVec.ofNat 64 (c.val l a).toNat))
  (c.going = true ∨ ready → Sys2Proof.Machine.exec (.cont h a b) s = .next { t with issue := t.issue.map fun c =>
    { c with traps := c.traps ++ (good.filter lost).map fun l => (l, 0x12, 0)
             deferred := c.deferred ++ (good.filter fun l => !lost l).map fun l => .cont l (c.val l a).toNat ((c.val l b).toNat % 2 ^ 24) } }) ∧
  (c.going = false → ¬ready → Sys2Proof.Machine.exec (.cont h a b) s = .next t.block)
/-- R158, R159, R180: what CONT does at the end of its chain: once the words it carries are full and the area has room, the pool gains a record of
TARGET, n and v0 to v(n-1), which the sorter takes if the task has issued, and the thread ends; until then it waits for its record; a word
of it whose check bits fail stops the thread with UNCORR (R342). -/
def Sys2Proof.Rules.ContinuationRecord : Prop := ∀ (s : State) (c : Issue) (l number target : Nat) (fl : Flock) (w : Warp) (t : Thread) (q : Pool),
  s.flock? c.f = some fl → s.unit? c.f c.m c.u = some w → w.threads[l]? = some t → s.poolFor c.f number = some q → (s.part fl.p).pools = [q] →
  fl.p < s.partitions.length →
  let n := s.poolRegs c.f q.seq
  let ready := (∀ k < n, t.full.getLsbD k = true) ∧ 0 < s.poolRoom c.f q
  let rec_ : ContRecord := ⟨wN target :: wN n :: (List.range 6).map (fun k => if k < n then w.get l (.v (Fin.ofNat 24 k)) else 0), s.cycle⟩
  let r := s.applyDeferred c (.cont l number target)
  let lost := ∃ k < n, .reg c.f c.m c.u l (.v (Fin.ofNat 24 k)) ∈ s.bad
  (ready → lost → r = (s.modThread c.f c.m c.u l fun t => { t with life := .cont q.seq target, hold := .none }).scratchAbort c.f c.m c.u [l] t.pc.toNat 0) ∧
  (ready → ¬lost → (r.part fl.p).pools = [if (s.part fl.p).window.any (fun x => x.seq == q.seq && x.status == .issued) then q.take [rec_] else { q with records := q.records ++ [rec_] }] ∧
    r.thread? c.f c.m c.u l = some { t with life := .ending, hold := .none }) ∧
  (¬ready → r = s.modThread c.f c.m c.u l fun t => { t with life := .cont q.seq target, hold := .none })

/-- R287: GANG writes the lowest executing thread's value (log 94), if it is a legal mask, or 0; any other raises GANGBAD and leaves the gang register as it was. -/
def Sys2Proof.Rules.GangRegister : Prop := ∀ (s : State) (c : Issue) (h : Head) (a : Src) (l : Launch), Ready s c h [one a] [] → s.launchOf c.f = some l →
  let x := c.val (lowest (c.readers h)) a
  let n := (List.range 32).countP fun i => x.getLsbD i
  Sys2Proof.Machine.exec (.gang h a) s = .next
    (if c.u ≠ 32 ∧ (x = 0 ∨ (2 ≤ n ∧ n ≤ 6 ∧ x.getLsbD c.u = true ∧ x.toNat < 2 ^ l.wg)) then s.modUnit c.f c.m c.u fun w => { w with gang := x }
     else s.raises ((c.exec h).map fun l => (l, 0x0D, 0)))

/-! ## Memory words -/

/-- A masked stamp mismatch sets the sticky bit in the threads of an access (R34, R235). -/
def Sys2Proof.Machine.State.stamped (s : State) (c : Issue) (ls : List Nat) (masked : Bool) : State :=
  if masked then s.eachThread c ls fun _ t => { t with trapen := t.trapen ||| 0x40000 } else s
/-- Whether a thread of an access enables STAMPMIX. -/
def Sys2Proof.Machine.Issue.stamps (c : Issue) (ls : List Nat) : Bool := ls.any fun l => (c.snap.thread l).trapen.getLsbD 2
/-- The address of a MEM word: the pair plus the scaled offset, modulo 2^64 (R135). -/
def Sys2Proof.Machine.Issue.address (c : Issue) (ls : List Nat) (a : Reg) (off : Int) (n : Nat) : DWord :=
  BitVec.ofInt 64 ((c.val64 (lowest ls) a).toNat + off * n)
/-- The registers that a value of n bytes takes (R15). -/
def Sys2Proof.Machine.spanOf (n : Nat) : Nat := if n = 16 then 4 else if n = 8 then 2 else 1
/-- A loaded value as words: extended by zeros or by its sign below 4 bytes (R135). -/
def Sys2Proof.Machine.extended (n : Nat) (sgn : Bool) (bs : List Byte) : List Word :=
  let x := ofBytes bs
  if n < 4 then [if sgn && decide (2 ^ (8 * n - 1) ≤ x) then wI ((x : Int) - 2 ^ (8 * n)) else wN x]
  else (List.range (n / 4)).map fun k => wN (x / 2 ^ (32 * k))
/-- The loads with their access sizes and whether they extend by the sign, and the stores with their sizes (R135). -/
def Sys2Proof.Machine.loadsOf (h : Head) (q : Fin 4) (d a : Reg) (off : Int) : List (Instr × Nat × Bool) :=
  [(.ldb h q d a off, 1, false), (.ldbs h q d a off, 1, true), (.ldh h q d a off, 2, false), (.ldhs h q d a off, 2, true),
   (.ldw h q d a off, 4, false), (.ldd h q d a off, 8, false), (.ldq h q d a off, 16, false)]
def Sys2Proof.Machine.storesOf (h : Head) (q : Bool) (a : Reg) (off : Int) (src : Reg) : List (Instr × Nat) :=
  [(.stb h q a off src, 1), (.sth h q a off src, 2), (.stw h q a off src, 4), (.std h q a off src, 8), (.stq h q a off src, 16)]
/-- The bytes that a store of n bytes takes from its data registers, least significant first (R4, R135). -/
def Sys2Proof.Machine.Issue.storeBytes (c : Issue) (l : Nat) (src : Reg) (n : Nat) : List Byte :=
  (List.range n).map fun k => BitVec.ofNat 8 ((c.snap.get l (src.at (k / 4))).toNat / 2 ^ (8 * (k % 4)))

/-- The state of an access that has passed its checks, before what it does: with the clocks of two cores that meet in a window, and the sticky bit
of a masked mismatch. -/
def Sys2Proof.Machine.State.admitted (u : State) (c : Issue) (ls : List Nat) (at_ : Place) (masked : Bool) : State :=
  (u.meetClocks c.f c.m at_).stamped c ls masked

/-- R33, R34, R221, R223, R238: an access looks its page up, and then raises the cause its checks give in each thread that takes it, or parks it
when its address has no translation, or goes on; a refused or failing access changes nothing else. -/
def Sys2Proof.Rules.AccessRule : Prop := ∀ (s : State) (c : Issue) (ls : List Nat) (va : DWord) (n q : Nat) (perm : Perm) (go : Place → State → State),
  s.issue = some c →
  let u := s.lookAt c.f va
  Beside s u ∧ (0x00FD000000000000 ≤ va.toNat → u = s) ∧ (∀ at_, Beside u (u.meetClocks c.f c.m at_)) ∧
  s.access c ls va n q perm go = match u.checkAccess c.f c.m (c.stamps ls) va n q perm with
    | .ok at_ masked => go at_ (u.admitted c ls at_ masked)
    | .trap cause => u.raises (ls.map fun l => (l, cause, va))
    | .absent => u.modIssue fun c => { c with strays := c.strays ++ ls.map fun l =>
        (l, va, match perm with | .read => 1 | .write => 2 | .atomic => 4 | .fetch => 8) }
    | .uncorr => u.raises (ls.map fun l => (l, if va.toNat < 0x00FD000000000000 then 0x112 else 0x12, va))
    | .refusedByPeer => u.raises (ls.map fun l => (l, 0x200, va))

/-- R28, R33, R205-R208, R235, R241: the checks of an access in their order: alignment; a window's bounds; a qualifier off the windows; the
reserved range; the page; its stamp; and in debug mode its regions. An access that none of them stops goes on. -/
def Sys2Proof.Rules.AccessChecks : Prop := ∀ (s : State) (f m : Nat) (en : Bool) (va : DWord) (n q : Nat) (perm : Perm) (fl : Flock) (wg : Workgroup),
  s.flock? f = some fl → fl.wgs[m]? = some wg → wg.ended = false → s.bad = [] → n ≠ 0 →
  let a := va.toNat
  (a % n ≠ 0 → s.checkAccess f m en va n q perm = .trap 0x04) ∧
  (a % n = 0 → 0x00FE000000000000 ≤ a → a < 0x00FF000000000000 →
    let o := a - 0x00FE000000000000
    s.checkAccess f m en va n q perm = if o + n ≤ fl.launch.scratch then .ok (.scratch m o) false else .trap 0x06) ∧
  (∀ k o, a % n = 0 → a = 0x00FD000000000000 + k * 2 ^ 19 + o → o < 2 ^ 19 → a < 0x00FE000000000000 → fl.wgs.length ≤ k →
    s.checkAccess f m en va n q perm = .trap 0x06) ∧
  (∀ k o wg', fl.wgs[k]? = some wg' → wg'.ended = false → a % n = 0 → a = 0x00FD000000000000 + k * 2 ^ 19 + o → o < 2 ^ 19 → a < 0x00FE000000000000 →
    s.checkAccess f m en va n q perm = if o + n ≤ fl.launch.scratch then .ok (.scratch k o) false else .trap 0x06) ∧
  (a % n = 0 → a < 0x00FD000000000000 ∨ 0x00FF000000000000 ≤ a → q ≠ 0 → s.checkAccess f m en va n q perm = .trap 0x05) ∧
  (a % n = 0 → 0x00FF000000000000 ≤ a → q = 0 → s.checkAccess f m en va n q perm = .trap 0x06) ∧
  (a % n = 0 → a < 0x00FD000000000000 → q = 0 → s.translateOnce fl.p a perm = .absent → s.checkAccess f m en va n q perm = .absent) ∧
  (a % n = 0 → a < 0x00FD000000000000 → q = 0 → s.translateOnce fl.p a perm = .refused → s.checkAccess f m en va n q perm = .trap 0x06) ∧
  ∀ l, a % n = 0 → a < 0x00FD000000000000 → q = 0 → s.translateOnce fl.p a perm = .leaf l → l.packed = false →
    (l.stamp ≠ 0 → l.stamp ≠ fl.launch.contract → en = true → s.checkAccess f m en va n q perm = .trap 0x08) ∧
    (l.stamp = 0 ∨ l.stamp = fl.launch.contract ∨ en = false →
      (fl.launch.debug = true → s.inRegions fl.p fl.seq a n (perm == .write || perm == .atomic) = false → s.checkAccess f m en va n q perm = .trap 0x0E) ∧
      (fl.launch.debug = false → s.peerAt l a = none →
        s.checkAccess f m en va n q perm = .ok (.page l) (decide (l.stamp ≠ 0 ∧ l.stamp ≠ fl.launch.contract))))

/-- R217, R221-R223: the translation of an access. With PTROOT.EN 0, or from the first window on, it is refused. Else it is the walk's or a cached one's,
and its page permits the access, lies in a part of the physical space and has a key slot of the partition, unless it is a peer's; check bits of a cached
one that fail give UNCORR, whatever is asked (R341, R342, log 87). A cached one is the
walk's, where no page has replicas or no walk has read a leaf entry, once an invalidation of its page or of ALL has completed that was written after
every change of an entry and of PTROOT (an invalidation ends what it names by start and size: log 42), or if there never was a change. A word looks each
page up once. -/
def Sys2Proof.Rules.Translations : Prop := ∀ (s : State) (p va : Nat) (perm : Perm),
  let m := (s.part p).mem
  let checked (l : Leaf) : Walk :=
    if s.bad.contains (.tlb p l.start) then .uncorr
    else if (perm = .read ∨ perm = .fetch → l.r = true) ∧ (perm = .write → l.w = true) ∧ (perm = .atomic → l.r = true ∧ l.w = true) ∧
      (l.packed = false → s.device.physOf (l.frame * 4096 + (va - l.start)) ≠ .nowhere) ∧ (s.peerAt l va ≠ none ∨ s.keyOf p l.key ≠ none) then .leaf l
    else .refused
  (m.ptroot.getLsbD 0 = false ∨ 0x00FD000000000000 ≤ va → s.translate p va perm = .refused) ∧
  (m.ptroot.getLsbD 0 = true → va < 0x00FD000000000000 →
    (s.cached p va = none → (∀ l, s.walk p va ≠ .leaf l) → s.translate p va perm = s.walk p va) ∧
    (∀ l, (s.cached p va = some l ∨ s.cached p va = none ∧ s.walk p va = .leaf l) → s.translate p va perm = checked l)) ∧
  (s.noReplicas = true ∨ m.walked = [] → ∀ l, s.cached p va = some l →
    (∀ i ∈ m.tlbDone, (∀ o ∈ s.oldEntries, o.since < i.since) → (∀ r ∈ m.oldRoots, r.2 < i.since) → i.page = none ∨ i.page = some (l.start, l.size) →
      s.walk p va = .leaf l) ∧
    (s.oldEntries = [] → m.oldRoots = [] → s.walk p va = .leaf l)) ∧
  (s.lookedUp va = none → s.translateOnce p va perm = s.translate p va perm) ∧
  (∀ l, s.lookedUp va = some l → s.translateOnce p va perm = checked l) ∧
  ∀ l v, s.issue ≠ none → s.lookup p v = .leaf l → s.lookedUp v = none → s.lookedUp va = none → l.start ≤ va → va < l.start + l.size →
    (s.look p v).lookedUp va = some l

/-- R136, R238, R242: a load or store of several threads accesses once for each executing thread in ascending order, or once if it is uniform; before
its chain issues it waits for the unsatisfied wait-qualified loads of its threads. -/
def Obligations.AccessesInOrder : Prop := ∀ (s : State) (c : Issue) (h : Head) (k : Fin 4) (q : Bool) (d a src : Reg) (off : Int),
  (∀ l ∈ c.exec h, s.waiting c l = true → c.going = false →
    (∀ x ∈ loadsOf h k d a off, Ready s c h [plain a 2] (regSpan d (spanOf x.2.1)) → Sys2Proof.Machine.exec x.1 s = .next (s.waits c)) ∧
    ∀ x ∈ storesOf h q a off src, Ready s c h [plain a 2, plain src (spanOf x.2)] [] → Sys2Proof.Machine.exec x.1 s = .next (s.waits c)) ∧
  (unwaited s c h →
  (∀ x ∈ loadsOf h k d a off, Ready s c h [plain a 2] (regSpan d (spanOf x.2.1)) →
    Sys2Proof.Machine.exec x.1 s = .next ((c.groups h d).foldl (fun s ls =>
      let va := c.address ls a off x.2.1
      s.access c ls va x.2.1 k.val .read fun at_ s => s.performLoad c ls va x.2.1 k.val x.2.2 d at_) s)) ∧
  (∀ x ∈ storesOf h q a off src, Ready s c h [plain a 2, plain src (spanOf x.2)] [] →
    Sys2Proof.Machine.exec x.1 s = .next ((if a.isW && src.isW then [c.exec h] else (c.exec h).map fun l => [l]).foldl (fun s ls =>
      let va := c.address ls a off x.2
      s.access c ls va x.2 (if q then 1 else 0) .write fun at_ s => s.performStore c ls va q (c.storeBytes (lowest ls) src x.2) at_) s)))

/-- What a byte of an access to a page may read, at place i from its first (R231, R262, R267): the byte at home; one of a copy that the core keeps, whose
lease has not ended; one of the block that the word has fetched already; or what stood there before a write of another agent that is less than
2,600 cycles old and, in the state after, has not entered the single order. -/
def Sys2Proof.Machine.State.mayRead (s after : State) (core : Nat) (sp : Spot) (home : Option Byte) (i : Nat) (b : Option Byte) : Prop :=
  b = home ∨
  (∃ x ∈ s.copies, x.core = core ∧ x.block = sp.block ∧ x.start = sp.unit ∧ x.key = sp.key ∧ s.clock core ≤ x.leaseEnd ∧ b = x.data[sp.at_ - sp.unit + i]?) ∨
  (∃ x, s.blockSeen sp = some x ∧ b = x[sp.at_ - sp.unit + i]?) ∨
  ∃ w ∈ after.late, w.block = sp.block ∧ w.key = sp.key ∧ s.cycle < w.since + 2600 ∧ w.start ≤ sp.at_ + i ∧ w.old[sp.at_ + i - w.start]? = b

/-- R24, R135, R211, R212, R239, R262, R263, R267, R380: a load that passes its checks. Its destination becomes empty and its value is in flight; a
wait-qualified load (1 wait-until-full, 2 wait-and-clear) of an empty granule waits in the target's bank, and wait-and-clear empties a full granule.
Through a page it reads the bytes at home, or older ones that the consistency rules still let the core read; what it has returned has entered.
In debug mode an unchecked load (3) of an empty granule is logged first, for each of its threads (R243, log 99). -/
def Sys2Proof.Rules.LoadResult : Prop := ∀ (s₀ : State) (c : Issue) (ls : List Nat) (va : DWord) (n : Nat) (sgn : Bool) (q : Fin 4) (d : Reg),
  n = 1 ∨ n = 2 ∨ n = 4 ∨ n = 8 ∨ n = 16 →
  (∀ w, s₀.unit? c.f c.m c.u = some w → ∀ r ∈ regSpan d (spanOf n), w.isFull (lowest ls) r = true) →
  let s := s₀
  let gone (u : State) : State := u.modUnit c.f c.m c.u fun w => w.empties [lowest ls] d (spanOf n)
  (∀ (tm off : Nat) (wg own : Workgroup) (fl : Flock), s.flock? c.f = some fl → s.wg? c.f tm = some wg → s.wg? c.f c.m = some own →
    let vals := extended n sgn ((List.range n).map fun k => cellGet wg.scratch (off + k))
    let full := wg.granules.getLsbD (off / 16)
    let s := if q = 3 ∧ fl.launch.debug = true ∧ full = false then ls.foldl (fun s l => s.sheepdog fl.p 3 fl.seq own.wgid c.pc c.u l va) s else s
    s₀.performLoad c ls va n q.val sgn d (.scratch tm off) =
      if (q = 1 ∨ q = 2) ∧ full = false then
        (gone s).modWg c.f tm fun wg => { wg with waits := wg.waits ++
          [{ m := c.m, u := c.u, lanes := ls, target := tm, granule := off / 16, addr := BitVec.ofNat 64 off, clear := q == 2
             size := n, signed := sgn, dest := d, keep := regSpan d (spanOf n), since := s.cycle, pc := c.pc, va := va }] }
      else
        let t := if q = 2 then (gone s).modWg c.f tm fun wg => { wg with granules := wg.granules &&& ~~~(BitVec.ofNat 24576 (2 ^ (off / 16))) } else gone s
        { t with landings := s.landings ++ [c.landing ls d (spanOf n) vals false false false] }) ∧
  ∀ (l : Leaf) (fl : Flock) (home : List Byte), s.flock? c.f = some fl → s.pageRead fl.p l va.toNat n = some home → home.length = n →
    ∃ (bs : List Byte) (u : State), Beside s u ∧ u.late.Sublist s.late ∧
      (s.spot fl.p l va.toNat n false = none → bs = home) ∧
      (∀ sp, s.spot fl.p l va.toNat n false = some sp →
        (∀ i, i < n → s.mayRead u (s.coreOf c.f c.m) sp home[i]? i bs[i]?) ∧
        (s.copyFor (s.coreOf c.f c.m) sp = none → s.blockSeen sp = none →
          (∀ w ∈ s.late, w.block ≠ sp.block ∨ w.key ≠ sp.key ∨ s.cycle ≥ w.since + 2600 ∨ sp.block = none ∧ (sp.at_ + n ≤ w.start ∨ w.start + w.old.length ≤ sp.at_)) →
          bs = home)) ∧
      s.performLoad c ls va n q.val sgn d (.page l) =
        { gone u with
          landings := s.landings ++ [match s.peerAt l va.toNat with
            | some a => { c.landing ls d (spanOf n) (extended n sgn bs) false false false with peer := some (a / 2 ^ 39), addr := va, since := s.cycle }
            | none => c.landing ls d (spanOf n) (extended n sgn bs) false false false] }

/-- R135, R211, R215, R240, R259: a store that passes its checks changes nothing but the bytes at its address, beside what stands around them, and,
set-full on a granule on which no load waits, that granule's bit. In a window; in a page of HBM, where it comes after the other agents' writes
that stand there (R267); in a page of host memory; and in another device's memory that accepts it, whose answer it awaits (R380, log 21). One to a packed
page changes its bytes of its block alone, where the block's chunks, links and map word stand apart (R231, R233). -/
def Sys2Proof.Rules.StoreResult : Prop := ∀ (s : State) (c : Issue) (ls : List Nat) (va : DWord) (q : Bool) (bs : List Byte) (fl : Flock),
  s.flock? c.f = some fl → s.bad = [] →
  (∀ (tm off : Nat), (∀ wg, s.wg? c.f tm = some wg → wg.ended = false ∧ ∀ w ∈ wg.waits, w.granule ≠ off / 16) →
    s.performStore c ls va q bs (.scratch tm off) = s.modWg c.f tm fun wg =>
      { wg with
        scratch := cellsWrite wg.scratch off bs
        granules := if q then wg.granules ||| BitVec.ofNat 24576 (2 ^ (off / 16)) else wg.granules }) ∧
  (∀ (l : Leaf) (key : Nat) (b : List Byte) (chunks : List Nat), l.packed = true → s.keyOf fl.p l.key = some key → key ≠ 0 → Memory.wf s.hbm = true →
    let j := (va.toNat - l.start) / 2048
    let o := (va.toNat - l.start) % 2048
    s.readBlock fl.p key l j = some b → b.length = 2048 → o + bs.length ≤ 2048 → s.ownChain fl.p key l j = some chunks → chunks.Nodup →
    (∀ x ∈ chunks, s.linkAt fl.p x / 128 ≠ l.mapAt j / 128 ∧ ∀ y ∈ chunks, s.chunkAt fl.p y / 256 ≠ l.mapAt j / 256 ∧ s.chunkAt fl.p y / 256 ≠ s.linkAt fl.p x / 256) →
    (s.performStore c ls va q bs (.page l)).readBlock fl.p key l j = some (b.take o ++ bs ++ b.drop (o + bs.length))) ∧
  ∀ (l : Leaf), l.packed = false →
  let t := s.performStore c ls va q bs (.page l)
  let phys := s.device.physOf (l.pa va.toNat)
  (∀ (key a : Nat), s.keyOf fl.p l.key = some key → phys = .hbm a →
    Beside (s.hbmWrite key a bs) t ∧ t.bad = [] ∧ (s.late = [] → t.late = []) ∧ (s.codeAt fl.p va.toNat bs.length = [] → t.oldCode = s.oldCode) ∧
      ∀ w ∈ t.late, ∃ v ∈ s.late, w = { v with old := w.old } ∧ w.old.length = v.old.length ∧ ∀ i, i < w.old.length →
        w.old[i]? = if v.block = none ∧ a ≤ v.start + i ∧ v.start + i < a + bs.length then bs[v.start + i - a]? else v.old[i]?) ∧
  (∀ (key a : Nat), s.keyOf fl.p l.key = some key → phys = .host a → Beside (s.hostPut a bs) t) ∧
  (∀ a, phys = .peer a → a / 2 ^ 39 ≠ s.device.rank → s.peerAccepts fl.p a bs.length true = true →
    Beside { s.peerPut a bs with landings := s.landings ++
      [{ c.landing ls (.v 0) 0 [] false false false with peer := some (a / 2 ^ 39), addr := va, since := s.cycle }] } t)

/-- R211, R212, R240: a set-full store on a granule on which loads wait. They take its bytes in their order, up to the first wait-and-clear load, which
empties it; each value is in flight to the registers of its load that no later write has taken. The others go on waiting. -/
def Sys2Proof.Rules.WaitingLoads : Prop := ∀ (s : State) (c : Issue) (ls : List Nat) (va : DWord) (bs : List Byte) (tm off : Nat) (wg : Workgroup),
  s.wg? c.f tm = some wg → wg.ended = false → s.bad = [] → (∀ q ∈ wg.waits, q.size ∈ [1, 2, 4, 8, 16]) →
  let mem := cellsWrite wg.scratch off bs
  let bit : BitVec 24576 := BitVec.ofNat 24576 (2 ^ (off / 16))
  let here := wg.waits.filter fun q => q.granule == off / 16
  let taken := (here.takeWhile fun q => !q.clear) ++ (here.dropWhile fun q => !q.clear).take 1
  let lands (q : WaitLoad) : Landing :=
    let vals := ((regSpan q.dest (spanOf q.size)).zip (extended q.size q.signed ((List.range q.size).map fun k => cellGet mem (q.addr.toNat + k)))).filter
      fun x => q.keep.contains x.1
    { f := c.f, m := q.m, u := q.u, lanes := q.lanes, dests := vals.map Prod.fst, vals := vals.map Prod.snd, pipeF := false, inv := false, ovf := false
      host := false, peer := none }
  ∃ clocks, s.performStore c ls va true bs (.scratch tm off) =
    { (s.modWg c.f tm fun wg =>
        { wg with
          scratch := mem
          granules := if taken.any WaitLoad.clear then wg.granules &&& ~~~bit else wg.granules ||| bit
          waits := taken.foldl List.erase wg.waits }) with
      clocks := clocks, landings := s.landings ++ taken.map lands }

/-- R4, R225, R227: reading after a write. Every byte inside the range reads as written and every other byte as before: in a byte memory, and in HBM
under the key written with. -/
def Sys2Proof.Rules.ReadAfterWrite : Prop :=
  (∀ (m : List Host.Cell) (a b : Nat) (bs : List Byte), Memory.wf m = true →
    cellGet (cellsWrite m a bs) b = if h : a ≤ b ∧ b - a < bs.length then bs[b - a]'h.2 else cellGet m b) ∧
  ∀ (s : State) (key a b : Nat) (bs : List Byte), Memory.wf s.hbm = true → key ≠ 0 →
    (s.hbmWrite key a bs).hbmByte key b = if h : a ≤ b ∧ b - a < bs.length then bs[b - a]'h.2 else s.hbmByte key b

/-- The atomic words with the new word each makes of the word found and its operand, whether host memory admits it, and the causes it
raises (R245, R246, R248). -/
def Sys2Proof.Machine.atomicsOf (n : Nat) (h : Head) (d a b : Reg) : List (Instr × Bool × (Word → Word → FRes ⊕ Word)) :=
  let f32' := fun x : Word => flushIn (contractOf n) .fp32 (f32 x)
  let int (f : Word → Word → Word) : Word → Word → FRes ⊕ Word := fun m x => .inr (f m x)
  [(.atomiAdd h d a b, true, int fun m x => wN (m.toNat + x.toNat)),
   (.atomiMin h d a b, false, int fun m x => if m.toInt ≤ x.toInt then m else x),
   (.atomiMax h d a b, false, int fun m x => if m.toInt ≤ x.toInt then x else m),
   (.atomiMinu h d a b, false, int fun m x => if m.toNat ≤ x.toNat then m else x),
   (.atomiMaxu h d a b, false, int fun m x => if m.toNat ≤ x.toNat then x else m),
   (.atomiAnd h d a b, false, int (· &&& ·)), (.atomiOr h d a b, false, int (· ||| ·)), (.atomiXor h d a b, false, int (· ^^^ ·)),
   (.atomfFadd h d a b, false, fun m x => .inl (finish (contractOf n) .fp32 (addExact (f32' m) (f32' x)))),
   (.atomfFmin h d a b, false, int fun m x => w32 (smaller (f32' m) (f32' x))),
   (.atomfFmax h d a b, false, int fun m x => w32 (larger (f32' m) (f32' x))),
   (.atomfXchg h d a b, true, int fun _ x => x)]
/-- What an atomic step leaves in flight (R24, R246, R248, R380). -/
def Sys2Proof.Machine.Issue.atomicLanding (c : Issue) (s : State) (ls : List Nat) (d : Reg) (at_ : Place) (va : DWord) (old : Word) (inv ovf : Bool) : Landing :=
  { c.landing ls d 1 [old] false inv ovf with
    host := s.isHost at_ va
    peer := match at_ with | .page l => (s.peerAt l va.toNat).map fun x => x / 2 ^ 39 | .scratch _ _ => none
    addr := va, since := s.cycle }
/-- An atomic step of one access at va that passes its checks, from a state u in which it has been admitted: it writes a word, or none, made of the
word found, whose old value is in flight to D with its causes. What it writes over has entered the single order (R244, R246, R266). -/
def Sys2Proof.Machine.AtomicStep (i : Instr) (s : State) (c : Issue) (ls : List Nat) (d : Reg) (va : DWord) (at_ : Place) (u : State) (new : Word → Option (Word × Bool × Bool)) : Prop :=
  ∃ t, Beside u t ∧ t.late.Sublist u.late ∧
    let old := wN (ofBytes (t.readAt c.f at_ va 4))
    let r := match new old with | some x => t.writeStep c.f c.m at_ va (leBytes 4 x.1.toNat) | none => t
    Sys2Proof.Machine.exec i s = .next { r.modUnit c.f c.m c.u fun w => w.empties [lowest ls] d 1 with landings := s.landings ++
      [c.atomicLanding s ls d at_ va old (match new old with | some x => x.2.1 | none => false) (match new old with | some x => x.2.2 | none => false)] }
/-- A word of several threads is that of its lowest thread, and then that of the others. -/
def Sys2Proof.Machine.InAscendingOrder (i : Instr) (s : State) (l : Nat) (rest : List Nat) (lanes : List Nat) : Prop :=
  let only (ls : List Nat) (s : State) : State := s.modIssue fun c => { c with lanes := ls }
  ∃ t u, Sys2Proof.Machine.exec i (only [l] s) = .next t ∧ Sys2Proof.Machine.exec i (only rest t) = .next u ∧
    Sys2Proof.Machine.exec i s = .next (only lanes u)
/-- R238, R244, R260: atomics and CAS of several threads: their steps are made in ascending order of the threads. -/
def Sys2Proof.Rules.AtomicsInOrder : Prop := ∀ (s : State) (c : Issue) (h : Head) (d a b : Reg) (sa sb : Src) (e : Reg) (l : Nat) (rest : List Nat),
  unwaited s c h → c.gone = [] → d.isW = false → c.exec h = l :: rest → rest ≠ [] →
  (Ready s c h [plain a 2, plain b] [d] → ∀ i ∈ (atomicsOf (s.contractNo c.f) h d a b).map Prod.fst ++ [.atomfBfadd2 h d a b, .atomfHadd2 h d a b],
    InAscendingOrder i s l rest c.lanes) ∧
  (Ready s c h [pair sa, one sb, plain e] [d] → InAscendingOrder (.cas h d sa sb e) s l rest c.lanes)

/-- R24, R244-R248: an atomic of one access that passes its checks writes the new word, and the old one is in flight to D with its causes for the
sticky bits. One that host memory does not admit raises PROTFAULT and does nothing else. -/
def Sys2Proof.Rules.AtomicWords : Prop := ∀ (s : State) (c : Issue) (h : Head) (d a b : Reg) (ls : List Nat), Ready s c h [plain a 2, plain b] [d] →
  unwaited s c h → c.groups h d = [ls] →
  let va := c.val64 (lowest ls) a
  let u := s.lookAt c.f va
  ∀ x ∈ atomicsOf (s.contractNo c.f) h d a b,
    ((x.2.1 = false ∨ s.device.atomicEnable = false) → u.atHost c.f va = true →
      Sys2Proof.Machine.exec x.1 s = .next (u.raises (ls.map fun l => (l, 0x06, va)))) ∧
    (∀ at_ masked, ((x.2.1 = true ∧ s.device.atomicEnable = true) ∨ u.atHost c.f va = false) →
      (u.lookAt c.f va).checkAccess c.f c.m (c.stamps ls) va 4 0 .atomic = .ok at_ masked →
      AtomicStep x.1 s c ls d va at_ ((u.lookAt c.f va).admitted c ls at_ masked) fun old => some (match x.2.2 old (c.snap.get (lowest ls) b) with
        | .inr new => (new, false, false)
        | .inl r => (w32 r.v, r.inv, r.ovf)))

/-- R246, R247: the packed atomic adds and CAS, of one access that passes its checks. CAS compares bit for bit, and writes only on a match. -/
def Sys2Proof.Rules.PackedAtomicsAndCas : Prop := ∀ (s : State) (c : Issue) (h : Head) (d a b : Reg) (sa sb : Src) (e : Reg) (ls : List Nat) (at_ : Place) (masked : Bool),
  unwaited s c h → c.groups h d = [ls] →
  let n := s.contractNo c.f
  let va := c.val64 (lowest ls) a
  let u := s.lookAt c.f va
  let wa := c.val64 (lowest ls) sa.reg
  let v := s.lookAt c.f wa
  (Ready s c h [plain a 2, plain b] [d] → u.atHost c.f va = true → ∀ i ∈ [Instr.atomfBfadd2 h d a b, .atomfHadd2 h d a b],
    Sys2Proof.Machine.exec i s = .next (u.raises (ls.map fun l => (l, 0x06, va)))) ∧
  (Ready s c h [pair sa, one sb, plain e] [d] → v.atHost c.f wa = true → s.device.atomicEnable = false →
    Sys2Proof.Machine.exec (.cas h d sa sb e) s = .next (v.raises (ls.map fun l => (l, 0x06, wa)))) ∧
  (Ready s c h [plain a 2, plain b] [d] → u.atHost c.f va = false → (u.lookAt c.f va).checkAccess c.f c.m (c.stamps ls) va 4 0 .atomic = .ok at_ masked →
    ∀ q ∈ [(Instr.atomfBfadd2 h d a b, true), (.atomfHadd2 h d a b, false)],
      let f := if q.2 then Fmt.bf16 else Fmt.fp16
      let lane (y : Word) (hi : Bool) : Val := flushIn (contractOf n) f (decode f (if hi then y.toNat / 2 ^ 16 else y.toNat % 2 ^ 16))
      AtomicStep q.1 s c ls d va at_ ((u.lookAt c.f va).admitted c ls at_ masked) fun old =>
        let o := bothLanes q.2 fun hi => finish (contractOf n) f (addExact (lane old hi) (lane (c.snap.get (lowest ls) b) hi))
        some (o.vals.headD 0, o.inv, o.ovf)) ∧
  (Ready s c h [pair sa, one sb, plain e] [d] → v.atHost c.f wa = false ∨ s.device.atomicEnable = true →
    (v.lookAt c.f wa).checkAccess c.f c.m (c.stamps ls) wa 4 0 .atomic = .ok at_ masked →
    AtomicStep (.cas h d sa sb e) s c ls d wa at_ ((v.lookAt c.f wa).admitted c ls at_ masked) fun old =>
      if old = c.val (lowest ls) sb then some (c.snap.get (lowest ls) e, false, false) else none)

/-- What letting the writes of some writers enter the single order makes of a state (R267, R268): none of theirs is left, and no older one to
a byte that such a write reached; copies of what they wrote are dropped, and nothing else changes. -/
def Sys2Proof.Machine.AcquiresFrom (test : Writer → Bool) (s t : State) : Prop :=
  Beside s t ∧ t.late.Sublist s.late ∧ t.copies.Sublist s.copies ∧ (∀ w ∈ t.late, test w.writer = false) ∧
  (∀ (i j : Nat) (v w : LateWrite), i < j → s.late[i]? = some v → s.late[j]? = some w → test w.writer = true → v.block = w.block → v.start < w.start + w.old.length →
    w.start < v.start + v.old.length → v ∉ t.late) ∧
  ((∀ w ∈ s.late, test w.writer = false) → t = s)
/-- The same of the writers of the classes of a mask. -/
def Sys2Proof.Machine.Acquires (mask : Nat) (s t : State) : Prop := AcquiresFrom (fun w => mask.testBit w.cls) s t
/-- R250-R252, R257, R266-R268: LDX is a plain load of a word and STX a plain store, each for one access that passes its checks; PREF
changes no byte, and nothing that a load reads (the model performs every access where it is issued: log 4). LDX through a page, and FENCE, first let the writes of the masked classes
enter the single order; before its chain issues, a FENCE waits for its threads' waiting loads (the model's reading: log 19). A write of another
agent is noted with the bytes that stood at home, in aligned units that cover it (log 79). -/
def Obligations.OrderedAccesses : Prop := ∀ (s : State) (c : Issue) (h : Head) (mask : Nat) (d : Reg) (a b : Src) (ls : List Nat) (at_ : Place) (masked : Bool),
  let va := c.val64 (lowest ls) a.reg
  let u := s.lookAt c.f va
  let v := u.admitted c ls at_ masked
  (unwaited s c h → Ready s c h [pair a] [d] → c.groups h d = [ls] → u.checkAccess c.f c.m (c.stamps ls) va 4 0 .read = .ok at_ masked →
    ∃ t, (match at_ with | .page _ => Acquires mask v t | .scratch _ _ => t = v) ∧
      Sys2Proof.Machine.exec (.ldx h mask d a) s = .next (t.performLoad c ls va 4 0 false d at_)) ∧
  (unwaited s c h → Ready s c h [pair a, one b] [] → (if a.reg.isW && b.reg.isW then [c.exec h] else (c.exec h).map fun l => [l]) = [ls] →
    u.checkAccess c.f c.m (c.stamps ls) va 4 0 .write = .ok at_ masked →
    Sys2Proof.Machine.exec (.stx h mask a b) s = .next (v.performStore c ls va false (c.storeBytes (lowest ls) b.reg 4) at_)) ∧
  (Ready s c h [] [] →
    (c.going = true ∨ unwaited s c h → ∃ t, Acquires mask s t ∧ Sys2Proof.Machine.exec (.fence h mask) s = .next t) ∧
    ∀ l ∈ c.exec h, s.waiting c l = true → c.going = false → Sys2Proof.Machine.exec (.fence h mask) s = .next (s.waits c)) ∧
  (Ready s c h [pair a, one b] [] → ∃ t, Sys2Proof.Machine.exec (.pref h a b) s = .next t ∧ Beside s t ∧ t.late = s.late ∧ t.copies = s.copies ∧
    t.clocks = s.clocks ∧ t.homes = s.homes) ∧
  ∀ (by_ : Writer) (key x n : Nat), 0 < n → ∃ new : List LateWrite, s.noteHbm by_ key x n = { s with late := s.late.filter s.isLate ++ new } ∧
    (∀ w ∈ new, w.writer = by_ ∧ w.since = s.cycle ∧ w.block = none ∧ w.key = key ∧ w.old.length = (if by_.cls = 4 then 8 else 16) ∧
      w.start % w.old.length = 0 ∧ w.old = (List.range w.old.length).map fun k => s.hbmByte key (w.start + k)) ∧
    ∀ k, x ≤ k → k < x + n → ∃ w ∈ new, w.start ≤ k ∧ k < w.start + w.old.length

/-- The KEY, V, PIN and USE of a tag entry (R213), and an entry of such fields. -/
def Sys2Proof.Machine.tagFields (e : DWord) : Nat × Bool × Bool × Nat := (e.toNat / 2 ^ 32, e.getLsbD 31, e.getLsbD 30, e.toNat % 2 ^ 30)
def Sys2Proof.Machine.tagOf (key : Nat) (v pin : Bool) (use : Nat) : DWord :=
  BitVec.ofNat 64 (key * 2 ^ 32 + v.toNat * 2 ^ 31 + pin.toNat * 2 ^ 30 + use)
/-- R213, R214, R253, R254: one thread's TAGQ and TAGW. A hit counts as a use; a miss changes nothing and suggests the first invalid slot, or none
while every entry is pinned; a write returns the old entry and clears V in another valid slot of its key; a slot that the workgroup lacks raises PROTFAULT. -/
def Sys2Proof.Rules.TagTable : Prop := ∀ (s : State) (c : Issue) (h : Head) (d : Reg) (a b : Src) (ls : List Nat) (wg : Workgroup),
  c.groups h d = [ls] → s.wg? c.f c.m = some wg → s.bad = [] →
  let use := (wg.tagUse.toNat + 1) % 2 ^ 30
  (Ready s c h [one a] [d] →
    let key := (c.val (lowest ls) a).toNat
    (∀ k e, wg.tags[k]? = some e → (tagFields e).1 = key ∧ (tagFields e).2.1 = true →
      (∀ j e', j < k → wg.tags[j]? = some e' → ¬((tagFields e').1 = key ∧ (tagFields e').2.1 = true)) →
      Sys2Proof.Machine.exec (.tagq h d a) s = .next ((s.modWg c.f c.m fun wg =>
        { wg with tagUse := wg.tagUse + 1, tags := wg.tags.set k (tagOf key true (tagFields e).2.2.1 use) }).write1 c (c.targets h d) d fun _ => wN (2 ^ 31 + k))) ∧
    ((∀ e ∈ wg.tags, ¬((tagFields e).1 = key ∧ (tagFields e).2.1 = true)) →
      (∀ k e, wg.tags[k]? = some e → (tagFields e).2.1 = false → (∀ j e', j < k → wg.tags[j]? = some e' → (tagFields e').2.1 = true) →
        Sys2Proof.Machine.exec (.tagq h d a) s = .next (s.write1 c (c.targets h d) d fun _ => wN (256 * k))) ∧
      ((∀ e ∈ wg.tags, (tagFields e).2.1 = true ∧ (tagFields e).2.2.1 = true) →
        Sys2Proof.Machine.exec (.tagq h d a) s = .next (s.write1 c (c.targets h d) d fun _ => 0x40000000)))) ∧
  (Ready s c h [one a, one b] (regSpan d 2) →
    let x := c.val (lowest ls) a
    let k := x.toNat % 2 ^ 8
    let key := (c.val (lowest ls) b).toNat
    (wg.tags.length ≤ k → Sys2Proof.Machine.exec (.tagw h d a b) s = .next (s.raises (ls.map fun l => (l, 0x06, BitVec.ofNat 64 k)))) ∧
    ∀ old, wg.tags[k]? = some old → Sys2Proof.Machine.exec (.tagw h d a b) s = .next ((s.modWg c.f c.m fun wg =>
      { wg with
        tagUse := wg.tagUse + 1
        tags := (wg.tags.map fun e => if x.getLsbD 8 = true ∧ (tagFields e).1 = key ∧ (tagFields e).2.1 = true then e &&& ~~~(0x80000000#64) else e).set k
          (tagOf key (x.getLsbD 8) (x.getLsbD 9) use) }).writes c (c.targets h d) d 2 fun _ => pairOf old.toNat))

/-- R214: with every entry valid and one not pinned, the suggested victim is the unpinned entry least used, the lowest slot of equals. -/
def Sys2Proof.Rules.SuggestedVictim : Prop := ∀ (tags : List DWord) (k : Nat) (e : DWord), (∀ x ∈ tags, (tagFields x).2.1 = true) → tags[k]? = some e →
  (victim tags = some k ↔ (tagFields e).2.2.1 = false ∧ ∀ j x, tags[j]? = some x → (tagFields x).2.2.1 = false →
    (tagFields e).2.2.2 < (tagFields x).2.2.2 ∨ ((tagFields e).2.2.2 = (tagFields x).2.2.2 ∧ k ≤ j))

/-- R211, R256: FEST of one access in a window: the old bits of n granules are in flight to D; action 2 empties them, and action 1 fills
them, here with no load waiting there; a range past SCRATCH raises PROTFAULT. An address not aligned to 16 raises ALIGN, and a global one QUALBAD. -/
def Obligations.GranuleBits : Prop := ∀ (s : State) (c : Issue) (h : Head) (d : Reg) (a b : Src) (ls : List Nat) (tm off : Nat) (masked : Bool) (wg : Workgroup)
    (l : Launch), unwaited s c h → Ready s c h [pair a, one b] [d] → c.groups h d = [ls] → s.wg? c.f tm = some wg → s.launchOf c.f = some l →
  let va := c.val64 (lowest ls) a.reg
  let x := (c.val (lowest ls) b).toNat
  let n := x / 2 ^ 8 % 2 ^ 5 + 1
  (va.toNat % 16 ≠ 0 → Sys2Proof.Machine.exec (.fest h d a b) s = .next (s.raises (ls.map fun l => (l, 0x04, va)))) ∧
  (va.toNat % 16 = 0 → va.toNat < 0x00FD000000000000 → Sys2Proof.Machine.exec (.fest h d a b) s = .next (s.raises (ls.map fun l => (l, 0x05, va)))) ∧
  let mask : BitVec 24576 := BitVec.ofNat 24576 ((2 ^ n - 1) * 2 ^ (off / 16))
  s.checkAccess c.f c.m (c.stamps ls) va 16 0 .write = .ok (.scratch tm off) masked → off % 16 = 0 → off + 16 * n ≤ 2 ^ 18 + 2 ^ 17 →
  let v := s.admitted c ls (.scratch tm off) masked
  (l.scratch < off + 16 * n → Sys2Proof.Machine.exec (.fest h d a b) s = .next (v.raises (ls.map fun l => (l, 0x06, va)))) ∧
  (off + 16 * n ≤ l.scratch → (∀ w ∈ wg.waits, w.granule < off / 16 ∨ off / 16 + n ≤ w.granule) →
    let t := v.modWg c.f tm fun wg =>
      { wg with granules := if x % 4 = 1 then wg.granules ||| mask else if x % 4 = 2 then wg.granules &&& ~~~mask else wg.granules }
    Sys2Proof.Machine.exec (.fest h d a b) s = .next
      { t.modUnit c.f c.m c.u fun w => w.empties [lowest ls] d 1 with landings := s.landings ++
        [c.landing ls d 1 [wN (wg.granules.toNat / 2 ^ (off / 16) % 2 ^ n)] false false false] })

/-! ## Matrix words and the matrix engine -/

/-- The bytes of a tile and of its scale array by format code: BF16 FP16 E4M3 E5M2 E2M1 NQ4 INT8 INT4 (R274). -/
def Sys2Proof.Machine.tileSize (fmt : Nat) : Nat := [8192, 8192, 4096, 4096, 2048, 2048, 4096, 2048].getD fmt 0
def Sys2Proof.Machine.scaleSize (fmt : Nat) : Nat := [0, 0, 8, 8, 8, 128, 24, 16].getD fmt 0
/-- Whether a contract admits a format code (R81). -/
def Sys2Proof.Machine.admits (n fmt : Nat) : Bool := if fmt < 2 then true else if fmt = 4 ∨ fmt = 5 then admitsFour n else admitsNarrow n
/-- A descriptor that the checks of R284 accept, for a tile and a scale array of some bytes: aligned, of a member that lives, within SCRATCH. -/
def Sys2Proof.Machine.DescFits (fl : Flock) (x : Word × Word) (tile scale : Nat) : Prop :=
  let off := x.1.toNat % 2 ^ 24
  let soff := x.2.toNat % 2 ^ 24
  let member := x.1.toNat / 2 ^ 25 % 8
  off % 256 = 0 ∧ (scale ≠ 0 → soff % 16 = 0 ∧ soff + scale ≤ fl.launch.scratch) ∧ off + tile ≤ fl.launch.scratch ∧
  (if x.1.getLsbD 24 then ∃ wg, fl.wgs[member]? = some wg ∧ wg.ended = false else member = 0)
/-- The pair that a source names in the lowest executing thread, as the chain found it (log 94). -/
def Sys2Proof.Machine.Issue.descriptor (c : Issue) (h : Head) (a : Src) : Word × Word := (c.val (lowest (c.readers h)) a, c.snap.get (lowest (c.readers h)) (a.reg.at 1))
/-- The state with an operation of the issuing workgroup accepted: it takes the next number and a place in the engine's queue, and counts
its token; its acceptance released the earlier accesses of the warps of a mask (R279, R282, R290). -/
def Sys2Proof.Machine.State.accepts (s : State) (c : Issue) (h : Head) (kind : MatKind) (z token : Bool) (tile : Fin 8) (a b : Word × Word) (k : Nat) (units : Word := 0) : State :=
  let t := s.live c (lowest (c.readers h))
  s.modWg c.f c.m fun wg =>
    { wg with
      opnum := wg.opnum + 1
      q3asked := wg.q3asked + token.toNat
      matQ := wg.matQ ++ [{ kind := kind, z := z, token := token, tile := tile.val, a := ⟨a.1, a.2⟩, b := ⟨b.1, b.2⟩, num := wg.opnum.toNat, k := k
                            u := c.u, lane := lowest (c.readers h), seq := t.seq, srseed := t.srseed, units := units, since := s.cycle, pc := c.pc
                            started := false, ovf := false, inv := false, sat := false }] }
/-- R242, R278, R279, R284, R286, R291, R293-R296: a matrix word whose checks pass, outside a gang and with room in the engine (16 operations of
the core, 64 tokens), is accepted once for its group and changes nothing else but, for MSTORESR, the SEQ of the lowest thread; before its chain
issues it is held without room, and waits for the unsatisfied wait-qualified loads of the thread that issues it, the lowest (the model's reading: log 19). -/
def Sys2Proof.Rules.MatrixWordsAccepted : Prop := ∀ (s : State) (c : Issue) (h : Head) (z t : Bool) (tile : Fin 8) (a b : Src) (k : Nat) (chain : Bool) (g : Guard)
    (fl : Flock) (wg : Workgroup),
  s.flock? c.f = some fl → s.wg? c.f c.m = some wg → tile.val < fl.launch.acc →
  let room := s.coreOps wg.core < 16 ∧ (t = true → wg.q3asked < 64)
  let n := fl.launch.contract
  let fmt (x : Word × Word) : Nat := x.1.toNat / 2 ^ 29
  let own (x : Word × Word) : Prop := DescFits fl x (tileSize (fmt x)) (scaleSize (fmt x))
  let takes (h : Head) (i : Instr) (u : State) : Prop :=
    (c.going = true ∨ s.waiting c (lowest (c.readers h)) = false ∧ room → Sys2Proof.Machine.exec i s = .next u) ∧
    (c.going = false → s.waiting c (lowest (c.readers h)) = false → ¬room → Sys2Proof.Machine.exec i s = .next (s.holds c .wait)) ∧
    (s.waiting c (lowest (c.readers h)) = true → c.going = false → Sys2Proof.Machine.exec i s = .next (s.waits c))
  let A := c.descriptor h a
  let B := c.descriptor h b
  (Ready s c h [pair a, pair b] [] → c.u = 32 ∨ c.snap.gang = 0 → (∀ l ∈ c.group, (c.snap.thread l).hold ∉ [Hold.stile, .stilePast, .stileBad]) → own A →
    (own B → admits n (fmt A) = true → admits n (fmt B) = true → takes h (.mma h z t tile a b) (s.accepts c h .mma z t tile A B 0)) ∧
    (fmt A = 0 → fmt B < 2 → B.1.getLsbD 28 = false → DescFits fl B (512 * (fmt B + 1)) 256 → admitsFour n = true →
      takes h (.mlut h z t tile a b) (s.accepts c h .mlut z t tile A B 0))) ∧
  (Ready s c h [] [] → takes h (.mzero h t tile) (s.accepts c h .mzero false t tile (0, 0) (0, 0) 0)) ∧
  (Ready s c h [pair a] [] →
    (DescFits fl A 16384 0 → takes h (.mload h true t tile a) (s.accepts c h .mload true t tile A (0, 0) 0) ∧
      takes h (.mstore h true t tile a) (s.accepts c h .mstore true t tile A (0, 0) 0)) ∧
    (own A → admits n (fmt A) = true → takes h (.mload h false t tile a) (s.accepts c h .mload false t tile A (0, 0) 0) ∧
      (fmt A ≠ 5 → takes h (.mstore h false t tile a) (s.accepts c h .mstore false t tile A (0, 0) 0)))) ∧
  ∀ q ∈ [((⟨chain, none⟩ : Head), Instr.mstoresr chain k t tile a, k), (⟨chain, some g⟩, .mstoresrGuarded chain g t tile a, 24)],
    Ready s c q.1 [pair a] [] → own (c.descriptor q.1 a) → fmt (c.descriptor q.1 a) ≤ 4 → admits n (fmt (c.descriptor q.1 a)) = true →
    takes q.1 q.2.1 ((s.accepts c q.1 .mstoresr false t tile (c.descriptor q.1 a) (0, 0) q.2.2).eachThread c
      ([lowest (c.readers q.1)].filter fun l => !c.gone.contains l)
      fun _ t => { t with seq := t.seq + 4096 })

/-- R33, R272, R284: the failing checks of MZERO and MLOAD, in order: a misaligned tile raises ALIGN, one past SCRATCH PROTFAULT, each with
the window address of a local one; a tile that the workgroup lacks raises PROTFAULT with its number. -/
def Sys2Proof.Rules.MatrixWordChecks : Prop := ∀ (s : State) (c : Issue) (h : Head) (m t : Bool) (tile : Fin 8) (a : Src) (fl : Flock) (wg : Workgroup),
  s.flock? c.f = some fl → s.wg? c.f c.m = some wg →
  (Ready s c h [] [] → fl.launch.acc ≤ tile.val →
    Sys2Proof.Machine.exec (.mzero h t tile) s = .next (s.raises ((c.exec h).map fun l => (l, 0x06, BitVec.ofNat 64 tile.val)))) ∧
  (Ready s c h [pair a] [] →
    let x := c.val (lowest (c.readers h)) a
    let off := x.toNat % 2 ^ 24
    x.getLsbD 24 = false → x.toNat / 2 ^ 25 % 8 = 0 →
    (off % 256 ≠ 0 → Sys2Proof.Machine.exec (.mload h m t tile a) s =
      .next (s.raises ((c.exec h).map fun l => (l, 0x04, BitVec.ofNat 64 (0x00FE000000000000 + off))))) ∧
    (off % 256 = 0 → fl.launch.scratch < off + 16384 → Sys2Proof.Machine.exec (.mload h true t tile a) s =
      .next (s.raises ((c.exec h).map fun l => (l, 0x06, BitVec.ofNat 64 (0x00FE000000000000 + off))))))

/-- R80, R280, R283, R286, R291, R293, R294: the first operation of a workgroup is performed in its core's turn on its tile, and only there: each
element of MMA is the contract's group accumulation of its row and column onto the old element (or +0 with Z), MLUT sums by the
model's table walk of R291 and R292; MLOAD gives FP32 bits, or the decoded and scaled elements of a format, rounded; and MZERO gives +0. Under contract 0 the terms are grouped and the sums ordered by a free choice. Out of its turn nothing changes. -/
def Sys2Proof.Rules.MatrixOperations : Prop := ∀ (s : State) (f m : Nat) (wg : Workgroup) (op : MatOp) (rest : List MatOp),
  s.subject.k = f → s.subject.m = m → s.wg? f m = some wg → wg.matQ = op :: rest → op.started = false → s.bad = [] → op.tile < wg.tiles.length →
  (s.matrixTurn wg.core ≠ some (f, m) → Sys2Proof.Machine.exec .matrixOpExecute s = .next s) ∧ (s.matrixTurn wg.core = some (f, m) →
  let n := s.contractNo f
  let old (i j : Nat) : Word := if op.z then 0 else wg.tileAt op.tile (64 * i + j)
  let A := s.view f m op.a op.a.elem
  let B := s.view f m op.b op.b.elem
  let gives (elem : Nat → Nat → Word) : Prop := ∃ t wg', Sys2Proof.Machine.exec .matrixOpExecute s = .next t ∧ t.wg? f m = some wg' ∧
    (∀ i j, i < 64 → j < 64 → wg'.tileAt op.tile (64 * i + j) = elem i j) ∧ (∀ k e, k ≠ op.tile → wg'.tileAt k e = wg.tileAt k e) ∧
    wg'.matQ = { op with started := true } :: rest ∧ wg'.scratch = wg.scratch ∧ wg'.warps = wg.warps
  let sums (i j den : Nat) (terms : List Val) : Word :=
    if n = 0 then looseAccumulate (contractOf 0) (s.fresh + (64 * i + j)) den (old i j) terms else groupAccumulate (contractOf n) den (old i j) terms
  (op.kind = .mma → gives fun i j => sums i j ((A.value i 0).2 * (B.value 0 j).2) ((List.range 64).map fun k => prod (A.value i k).1 (B.value k j).1)) ∧
  (op.kind = .mlut → gives fun i j =>
    mlutElem (contractOf n) (if n = 0 then some (s.fresh + (64 * i + j)) else none) (s.view f m op.a .bf16) (s.view f m op.b .bf16) (op.b.fmt + 1) (old i j) i j) ∧
  (op.kind = .mzero → gives fun _ _ => 0) ∧
  (op.kind = .mload → op.z = true → gives fun i j =>
    let a := op.a.offset + 4 * (if op.a.tr then 64 * j + i else 64 * i + j)
    let x := wN (ofBytes (cellsRead (s.view f m op.a .fp32).mem a 4))
    if x.toNat / 2 ^ 23 % 2 ^ 8 = 255 ∧ x.toNat % 2 ^ 23 ≠ 0 then 0x7FC00000 else x) ∧
  (op.kind = .mload → op.z = false → gives fun i j =>
    w32 (match A.value i j with
      | (.fin sg e x, den) => if e = 0 then .zero sg else (roundC false (contractOf n).saturate .fp32 .ne sg e den x).v
      | (v, _) => v)))

/-- The logical element that a tile's stored element k is, the delta of a square (R74), and the code of stored element k (R276, R295, R296); x gives the
logical elements, and mode the rounding of each. -/
def Sys2Proof.Machine.logicalAt (tr : Bool) (k : Nat) : Nat := if tr then 64 * (k % 64) + k / 64 else k
def Sys2Proof.Machine.tileDelta (t : TileView) (x : Nat → Val) (q : Nat) : Nat × Bool :=
  chooseDelta t.elem t.e (amaxOf (((List.range 4096).filter fun k => 4 * (k / 1024) + k % 64 / 16 == q).map fun k => x (logicalAt t.tr k)))
def Sys2Proof.Machine.codeStored (c : Contract) (t : TileView) (x : Nat → Val) (mode : Nat → RMode) (k : Nat) : Coded :=
  let zp := if t.elem.hasZero then (t.scaling (k / 64) (k % 64)).zero else 0
  let v := x (logicalAt t.tr k)
  let d := (tileDelta t x (4 * (k / 1024) + k % 64 / 16)).1
  if t.elem.hasDelta = false then elemCode c true t.elem 0 (mode (logicalAt t.tr k)) v
  else if d = 15 then { code := zp } else elemCode c true t.elem zp (mode (logicalAt t.tr k)) (v.scale (-((t.e : Int) - 127 + d)))
/-- R211, R281, R295, R296: a store of a tile, to the own scratchpad or another member's, transposed or not. MSTORE.F32 writes the elements, bits unchanged; MSTORE
and MSTORESR write the codes of a format and the deltas of its squares, MSTORESR with the random word of each element. Its flags say what happened in any element;
the granules that it covers become full; no other byte, no tile and no other workgroup changes. -/
def Sys2Proof.Rules.MatrixStore : Prop := ∀ (s : State) (f m : Nat) (wg wt : Workgroup) (op : MatOp) (rest : List MatOp),
  s.subject.k = f → s.subject.m = m → s.wg? f m = some wg → wg.matQ = op :: rest → op.started = false → s.bad = [] → op.kind = .mstore ∨ op.kind = .mstoresr →
  s.matrixTurn wg.core = some (f, m) →
  let tm := if op.a.remote then op.a.member else m
  s.wg? f tm = some wt → wt.ended = false → wt.waits = [] → Memory.wf wt.scratch = true →
  let plain : Bool := op.kind == .mstore && op.z
  let view := s.view f m op.a op.a.elem
  let x (k : Nat) : Val := decode .fp32 (wg.tileAt op.tile k).toNat
  let mode (k : Nat) : RMode :=
    if op.kind = .mstoresr then .sr op.k (s.randomFor f m op.u op.lane (op.seq + BitVec.ofNat 30 k) op.srseed).toNat else .ne
  let code := codeStored (contractOf (s.contractNo f)) view x mode
  let bits := op.a.elem.bits
  let n := if plain then 16384 else 512 * bits
  let byte (b : Nat) : Nat :=
    if plain then (wg.tileAt op.tile (logicalAt op.a.tr (b / 4))).toNat / 2 ^ (8 * (b % 4)) % 256
    else if bits = 4 then (code (2 * b)).code % 16 + 16 * ((code (2 * b + 1)).code % 16) else (code (b / (bits / 8))).code / 2 ^ (8 * (b % (bits / 8))) % 256
  let deltas : Bool := !plain && op.a.elem.hasDelta
  let delta (q : Nat) : Nat := (tileDelta view x q).1
  (deltas = true → op.a.soff + 8 ≤ op.a.offset ∨ op.a.offset + n ≤ op.a.soff) →
  ∃ t wg' wt', Sys2Proof.Machine.exec .matrixOpExecute s = .next t ∧ t.wg? f m = some wg' ∧ t.wg? f tm = some wt' ∧
    (∀ b, b < n → (cellGet wt'.scratch (op.a.offset + b)).toNat = byte b) ∧
    (deltas = true → ∀ b, b < 8 → (cellGet wt'.scratch (op.a.soff + b)).toNat = delta (2 * b) + 16 * delta (2 * b + 1)) ∧
    (∀ a, (a < op.a.offset ∨ op.a.offset + n ≤ a) → (deltas = true → a < op.a.soff ∨ op.a.soff + 8 ≤ a) → cellGet wt'.scratch a = cellGet wt.scratch a) ∧
    (∀ g, g < 24576 → wt'.granules.getLsbD g = (wt.granules.getLsbD g || decide (op.a.offset / 16 ≤ g ∧ g ≤ (op.a.offset + n - 1) / 16) ||
      (deltas && decide (op.a.soff / 16 ≤ g ∧ g ≤ (op.a.soff + 7) / 16)))) ∧
    wt'.tiles = wt.tiles ∧ wg'.tiles = wg.tiles ∧ (∀ k, k ≠ tm → k ≠ m → t.wg? f k = s.wg? f k) ∧
    wg'.matQ = { op with
      started := true
      ovf := !plain && (List.range 4096).any fun k => (code k).ovf
      inv := !plain && (List.range 4096).any fun k => (code k).inv
      sat := deltas && (List.range 16).any fun q => (tileDelta view x q).2 } :: rest

/-- R282: an operation that has been performed completes: it leaves the queue, and appends its token, OPNUM in [31:16], OVF INV SAT in
[10:8], KIND in [7:4] and the tile in [3:0], to q3 if it asked for one. -/
def Sys2Proof.Rules.MatrixCompletion : Prop := ∀ (s : State) (f m : Nat) (wg : Workgroup) (op : MatOp) (rest : List MatOp),
  s.subject.k = f → s.subject.m = m → s.wg? f m = some wg → wg.matQ = op :: rest → op.started = true →
  let kind : Nat := match op.kind with | .mma => 0 | .mlut => 1 | .mzero => 2 | .mload => 3 | .mstore => 4 | .mstoresr => 5
  Sys2Proof.Machine.exec .matrixOpComplete s = .next (s.modWg f m fun wg =>
    { wg with
      matQ := rest
      q3 := if op.token then wg.q3 ++ [wN (2 ^ 16 * op.num + 2 ^ 10 * op.ovf.toNat + 2 ^ 9 * op.inv.toNat + 2 ^ 8 * op.sat.toNat + 2 ^ 4 * kind + op.tile)]
            else wg.q3 })

/-- R288, R289: gang arrivals of MMA and MLUT whose checks pass. An arrival while a round of an overlapping mask is open, of another operation than its round's, or of a
warp that has arrived there, raises GANGBAD. The first arrival opens a round, unless four are open, and a later one joins it: the arrival is registered, and the group is held
at the stile; one that completes the mask has the operation accepted once, if there is room, closes the round and releases the held threads, which pass in their own
turn. A group held there stays held until its round closes; released it passes, and it raises GANGBAD once its round has failed. (The arrival registered
at the first attempt, and the turns after a release, are the model's reading: log 18.) -/
def Obligations.GangArrivals : Prop := ∀ (s : State) (c : Issue) (h : Head) (z t : Bool) (tile : Fin 8) (a b : Src) (fl : Flock) (wg : Workgroup) (lut : Bool),
  s.flock? c.f = some fl → s.wg? c.f c.m = some wg → Ready s c h [pair a, pair b] [] →
  let i : Instr := if lut then .mlut h z t tile a b else .mma h z t tile a b
  let holds (k : Hold) : Prop := ∃ l ∈ c.group, (c.snap.thread l).hold = k
  let bad : State := s.raises ((c.exec h).map fun l => (l, 0x0D, 0))
  (holds .stilePast → Sys2Proof.Machine.exec i s = .next s) ∧
  (holds .stileBad → ¬holds .stilePast → Sys2Proof.Machine.exec i s = .next bad) ∧
  (holds .stile → ¬holds .stilePast → ¬holds .stileBad → Sys2Proof.Machine.exec i s = .next (s.holds c .stile)) ∧
  (¬holds .stile → ¬holds .stilePast → ¬holds .stileBad → s.waiting c (lowest (c.readers h)) = false → tile.val < fl.launch.acc →
  let A := c.descriptor h a
  let B := c.descriptor h b
  let fmt (x : Word × Word) : Nat := x.1.toNat / 2 ^ 29
  let n := fl.launch.contract
  DescFits fl A (tileSize (fmt A)) (scaleSize (fmt A)) →
  (if lut then fmt A = 0 ∧ fmt B < 2 ∧ B.1.getLsbD 28 = false ∧ DescFits fl B (512 * (fmt B + 1)) 256 ∧ admitsFour n = true
   else DescFits fl B (tileSize (fmt B)) (scaleSize (fmt B)) ∧ admits n (fmt A) = true ∧ admits n (fmt B) = true) →
  c.u < 32 → c.snap.gang.getLsbD c.u = true → (c.snap.thread (lowest c.group)).trapMode = false →
  let bit : Word := BitVec.ofNat 32 (2 ^ c.u)
  let key := [lut.toNat, tile.val, z.toNat, t.toNat, A.1.toNat, A.2.toNat, B.1.toNat, B.2.toNat]
  let others := wg.rounds.filter fun r => r.mask ≠ c.snap.gang
  let joins (r : Round) : State := (s.modWg c.f c.m fun wg => { wg with rounds := others ++ [{ r with arrived := r.arrived ||| bit }] }).holds c .stile
  ((∃ r ∈ others, r.mask &&& c.snap.gang ≠ 0) → Sys2Proof.Machine.exec i s = .next bad) ∧
  ((∀ r ∈ others, r.mask &&& c.snap.gang = 0) →
    (others = wg.rounds → c.snap.gang ≠ bit → Sys2Proof.Machine.exec i s =
      .next (if c.going = false ∧ 4 ≤ wg.rounds.length then s.holds c .wait else joins ⟨c.snap.gang, key, 0⟩)) ∧
    ∀ r, wg.rounds.find? (fun r => r.mask == c.snap.gang) = some r →
      (r.op ≠ key ∨ r.arrived.getLsbD c.u = true → Sys2Proof.Machine.exec i s = .next bad) ∧
      (r.op = key → r.arrived.getLsbD c.u = false →
        (r.arrived ||| bit ≠ c.snap.gang → Sys2Proof.Machine.exec i s = .next (joins r)) ∧
        (r.arrived ||| bit = c.snap.gang → Sys2Proof.Machine.exec i s = .next
          (if c.going = false ∧ ¬(s.coreOps wg.core < 16 ∧ (t = true → wg.q3asked < 64)) then s.holds c .wait
           else (s.accepts c h (if lut then .mlut else .mma) z t tile A B 0 c.snap.gang).modWg c.f c.m fun wg =>
            { wg with
              rounds := others
              warps := wg.warps.zipIdx.map fun q => if c.snap.gang.getLsbD q.2 then
                { q.1 with threads := q.1.threads.map fun t => if t.hold = .stile then { t with hold := .stilePast } else t } else q.1 })))))

/-! ## Engine words -/

/-- An engine word does not wait for an earlier load of the thread whose sources it reads: its chain issues, or the thread has none (R242, R269). -/
def Sys2Proof.Machine.settled (s : State) (c : Issue) (l : Nat) : Prop := c.going = true ∨ s.waiting c l = false

/-- R242, R269, R305-R308: POST raises a timeline counter, and PROTFAULT for counter 0; TLWAIT holds its group until its counter has
reached the value, and then its core's clock follows the furthest one: the stores that it acquires are seen after it (R264, R268, log 90), and the engines' writes
have entered with the raise; TLREAD has the value in flight. A raise never lowers a counter and touches no other. POST waits for its thread's loads first
(the model's reading: log 19), and each reads the lowest executing thread of the group (log 94). -/
def Sys2Proof.Rules.TimelineWords : Prop :=
  (∀ (s : State) (c : Issue) (h : Head) (d : Reg) (a b : Src) (fl : Flock), s.flock? c.f = some fl →
    let k := (c.val (lowest (c.readers h)) a).toNat % 1024
    let now := (s.part fl.p).counter k
    (ReadyAt s c h [one a, pair b] lowest [] → settled s c (lowest (c.readers h)) → Sys2Proof.Machine.exec (.post h a b) s = .next
      (if k = 0 then s.raises ((c.exec h).map fun l => (l, 0x06, 0)) else s.raise fl.p k (c.val64 (lowest (c.readers h)) b.reg))) ∧
    (ReadyAt s c h [one a, plain d 2] lowest [] → Sys2Proof.Machine.exec (.tlwait h d a) s = .next
      (if (c.val64 (lowest (c.readers h)) d).toNat ≤ now.toNat then s.raiseClock (s.coreOf c.f c.m) s.clockMax else if c.going then s else s.holds c .wait)) ∧
    (ReadyAt s c h [one a] lowest (regSpan d 2) → Sys2Proof.Machine.exec (.tlread h d a) s = .next
      (s.flies c ((c.targets h d).map fun l => [l]) d 2 fun _ => pairOf now.toNat))) ∧
  ∀ (s : State) (p k j : Nat) (n : DWord), p < s.partitions.length →
    (((s.raise p k n).part p).counter j).toNat = if j = k then max ((s.part p).counter k).toNat n.toNat else ((s.part p).counter j).toNat

/-- R313, R314: the buffer table: BWAIT holds its group until its entry is FULL (2) or FREE (0), BSTATE has the state in flight, and BREL
makes a FULL entry FREE and leaves any other; it waits for its thread's loads first (the model's reading: log 19). BWAIT.FULL acquires the writes of the packet that
made its entry FULL (R268). -/
def Sys2Proof.Rules.BufferWords : Prop := ∀ (s : State) (c : Issue) (h : Head) (d : Reg) (a : Src) (fl : Flock), s.flock? c.f = some fl →
  let k := (c.val (lowest (c.readers h)) a).toNat % 4096
  let now := (s.part fl.p).buffer k
  (ReadyAt s c h [one a] lowest [] →
    Sys2Proof.Machine.exec (.bwaitFull h a) s = .next (if now = 2 then s.enterOps fl.p fun op => (s.part fl.p).eng.filled.contains (k, op)
      else if c.going then s else s.holds c .wait) ∧
    Sys2Proof.Machine.exec (.bwaitFree h a) s = .next (if now = 0 ∨ c.going = true then s else s.holds c .wait) ∧
    (settled s c (lowest (c.readers h)) → Sys2Proof.Machine.exec (.brel h a) s = .next
      (if now = 2 then s.modPart fl.p fun q => { q with eng := { q.eng with buffers := assocSet 0 k 0 q.eng.buffers, filled := q.eng.filled.filter fun x => x.1 ≠ k } } else s))) ∧
  (ReadyAt s c h [one a] lowest [d] →
    Sys2Proof.Machine.exec (.bstate h d a) s = .next (s.flies c ((c.targets h d).map fun l => [l]) d 1 fun _ => [wN now])) ∧
  ∀ (p : Nat) (ops : WriteOp → Bool), AcquiresFrom (fun w => w.p == p && w.op ≠ .none && ops w.op) s (s.enterOps p ops)

/-- EXPECTED, ARRIVED, PHASE and ERROR of the barrier object at an offset of a workgroup's scratchpad (R303). -/
def Sys2Proof.Machine.State.object (s : State) (f m off : Nat) : List Nat :=
  [0, 4, 8, 12].map fun k => ofBytes (cellsRead (((s.wg? f m).map Workgroup.scratch).getD []) (off + k) 4)
/-- The completion test: ARRIVED has reached a non-zero EXPECTED (R303). -/
def Sys2Proof.Machine.objectDone (e a p : Nat) : Nat × Nat × Nat := if 0 < e ∧ e ≤ a then (0, a - e, (p + 1) % 2 ^ 32) else (e, a, p)
/-- R303, R304: the barrier words at an aligned object below SCRATCH. BOINIT, BOEXP and BOARR write the object in one step, and every one but
BOWAIT has the old PHASE in flight; BOWAIT holds its group while PHASE is v, and then acquires the writes that the phases since v counted (R268); a misaligned offset
raises ALIGN, and one past SCRATCH PROTFAULT. Each waits for its thread's loads first (the model's reading: log 19). -/
def Obligations.BarrierWords : Prop := ∀ (s : State) (c : Issue) (h : Head) (d : Reg) (a : Src) (fl : Flock) (wg : Workgroup) (e n p r : Nat),
  s.flock? c.f = some fl → s.wg? c.f c.m = some wg → s.bad = [] →
  settled s c (lowest (c.readers h)) →
  let off := (c.val (lowest (c.readers h)) a).toNat
  let v := (c.snap.get (lowest (c.readers h)) (a.reg.at 1)).toNat
  s.object c.f c.m off = [e, n, p, r] →
  let writes (init : Bool) (q : Nat × Nat × Nat) (err : Nat) : State := s.modWg c.f c.m fun wg =>
    { wg with
      counted := if init then wg.counted.filter fun x => x.1 ≠ off else wg.counted
      scratch := cellsWrite wg.scratch off (leBytes 4 q.1 ++ leBytes 4 q.2.1 ++ leBytes 4 q.2.2 ++ leBytes 4 err) }
  let answers (t : State) : State := t.flies c ((c.targets h d).map fun l => [l]) d 1 fun _ => [wN p]
  let bad (cause : Nat) : Host.Outcome State Fault Refusal := .next (s.raises ((c.exec h).map fun l => (l, cause, BitVec.ofNat 64 (0x00FE000000000000 + off))))
  (ReadyAt s c h [pair a] lowest [d] → ∀ q ∈ [(Instr.boinit h d a, writes true (v, 0, 0) 0), (.boarr h d a, writes false (objectDone e ((n + v) % 2 ^ 32) p) r),
      (.boexp h d a, writes false (objectDone ((e + v) % 2 ^ 32) n p) r)],
    (off % 16 = 0 → off + 16 ≤ fl.launch.scratch → Sys2Proof.Machine.exec q.1 s = .next (answers q.2)) ∧
    (off % 16 ≠ 0 → Sys2Proof.Machine.exec q.1 s = bad 0x04) ∧ (off % 16 = 0 → fl.launch.scratch < off + 16 → Sys2Proof.Machine.exec q.1 s = bad 0x06)) ∧
  (ReadyAt s c h [one a] lowest [d] →
    (off % 16 = 0 → off + 16 ≤ fl.launch.scratch → Sys2Proof.Machine.exec (.botest h d a) s = .next (answers s)) ∧
    (off % 16 ≠ 0 → Sys2Proof.Machine.exec (.botest h d a) s = bad 0x04) ∧
    (off % 16 = 0 → fl.launch.scratch < off + 16 → Sys2Proof.Machine.exec (.botest h d a) s = bad 0x06)) ∧
  (ReadyAt s c h [pair a] lowest [] →
    (off % 16 = 0 → off + 16 ≤ fl.launch.scratch → Sys2Proof.Machine.exec (.bowait h a) s = .next (if c.going = false ∧ p = v then s.holds c .wait
      else s.enterOps fl.p fun op => wg.counted.any fun q => q.1 == off && q.2.2 == op && decide ((q.2.1 + 2 ^ 32 - v) % 2 ^ 32 < (p + 2 ^ 32 - v) % 2 ^ 32))) ∧
    (off % 16 ≠ 0 → Sys2Proof.Machine.exec (.bowait h a) s = bad 0x04) ∧
    (off % 16 = 0 → fl.launch.scratch < off + 16 → Sys2Proof.Machine.exec (.bowait h a) s = bad 0x06))

/-- The record that an operation keeps when it is accepted: the one that its handle's read gives, if it is read; the error of a refused read; or
none of both, to be read later (R298). -/
def Sys2Proof.Machine.State.recordIs (s : State) (p k : Nat) (st : Option Stamped) (r : Option (List Byte)) (masked : Bool) (err : Nat) : Prop :=
  match s.readLayout p k st with
  | .ok (bs, x) => r = some bs ∧ masked = x ∧ err = 0
  | .absent _ => r = none ∧ masked = false ∧ err = 0
  | .err e => r = none ∧ masked = false ∧ err = e

/-- R178, R242, R298, R300, R302: QPUSH collects the words of the highest thread; the fourth submits a command, with its layout record, while the core
holds fewer than 32 commands, and else blocks, as every word does before its chain issues while that thread waits for a load. (The
model's reading: the group's highest executing thread, log 94; every word waits for its loads, logs 19 and 73; the record is read here, a refusal is kept
and an absent one is read later, log 26.) -/
def Sys2Proof.Rules.QueuePush : Prop := ∀ (s : State) (c : Issue) (h : Head) (a : Src) (wg : Workgroup) (fl : Flock), s.wg? c.f c.m = some wg → s.flock? c.f = some fl →
  ReadyAt s c h [one a] highest [] →
  let top := highest (c.readers h)
  let words := c.snap.q0 ++ [c.val top a]
  let w0 := words.headD 0
  let tok := w0.getLsbD 13
  let room := s.coreCommands wg.core < 32 ∧ (tok = true → wg.q1asked < 32)
  (settled s c top → words.length < 4 → Sys2Proof.Machine.exec (.qpush h a) s = .next (s.modUnit c.f c.m c.u fun w => { w with q0 := words })) ∧
  (words.length = 4 → c.going = true ∨ s.waiting c top = false ∧ room → ∃ (cmd : CopyCmd) (t : State),
    cmd.words = words ∧ cmd.stampMask = (c.snap.thread top).trapen.getLsbD 2 ∧ cmd.row = 0 ∧ cmd.part = 0 ∧ cmd.moved = 0 ∧ cmd.finished = false ∧ cmd.fault = none ∧
    cmd.num = wg.copyNum ∧ cmd.u = c.u ∧ cmd.lane = top ∧ cmd.pc = c.pc ∧ (fl.launch.debug = false → Beside s t) ∧
    (cmd.reserved = false → s.recordIs fl.p (w0.toNat % 4096) (some ⟨fl.launch.contract, cmd.stampMask⟩) cmd.record cmd.masked cmd.error) ∧
    Sys2Proof.Machine.exec (.qpush h a) s = .next ((t.modUnit c.f c.m c.u fun w => { w with q0 := [] }).modWg c.f c.m fun wg =>
      { wg with q1asked := wg.q1asked + tok.toNat, copyNum := wg.copyNum + 1, copies := wg.copies ++ [cmd] })) ∧
  (c.going = false → s.waiting c top = true ∨ words.length = 4 ∧ ¬room → Sys2Proof.Machine.exec (.qpush h a) s = .next (s.waits c))

/-- R242, R298, R315: XFORM checks its job word, then its barrier object, then the alignment of its block, and submits a transform that has not
started, with its layout records; a stochastic one advances SEQ by the destination's element count, or not at all where the destination's record is
not read then (the model's choice: log 27). Before its chain issues, it waits for its thread's loads (log 19); the records are read here (log 26). -/
def Sys2Proof.Rules.XformWord : Prop := ∀ (s : State) (c : Issue) (h : Head) (a b : Src) (fl : Flock) (wg : Workgroup), s.flock? c.f = some fl → s.wg? c.f c.m = some wg →
  ReadyAt s c h [pair a, pair b] lowest [] →
  let l := lowest (c.readers h)
  (c.going = false → s.waiting c l = true → Sys2Proof.Machine.exec (.xform h a b) s = .next (s.waits c)) ∧ (settled s c l →
  let w0 := (c.val l a).toNat
  let w1 := (c.snap.get l (a.reg.at 1)).toNat
  let jcb := (c.val64 l b.reg).toNat
  let off := 16 * (w1 % 2 ^ 15)
  let op := w0 / 2 ^ 24 % 16
  let k := w1 / 2 ^ 16 % 32
  let illegal := w0 / 2 ^ 28 ≠ 0 ∨ w1 / 2 ^ 21 ≠ 0 ∨ 10 < op ∨ 24 < k
  let bar := w1.testBit 15
  (illegal → Sys2Proof.Machine.exec (.xform h a b) s = .next (s.raises ((c.exec h).map fun l => (l, 0x01, 0)))) ∧
  (¬illegal → bar = true → fl.launch.scratch < off + 16 → Sys2Proof.Machine.exec (.xform h a b) s =
    .next (s.raises ((c.exec h).map fun l => (l, 0x06, BitVec.ofNat 64 (0x00FE000000000000 + off))))) ∧
  (¬illegal → (bar = true → off + 16 ≤ fl.launch.scratch) → jcb % 64 ≠ 0 → Sys2Proof.Machine.exec (.xform h a b) s =
    .next (s.raises ((c.exec h).map fun l => (l, 0x04, BitVec.ofNat 64 jcb)))) ∧
  (¬illegal → (bar = true → off + 16 ≤ fl.launch.scratch) → jcb % 64 = 0 →
    ∃ (st : Stream) (t : State) (src dst : Option (List Byte)) (x y : Bool) (e g : Nat),
    let stamp : Option Stamped := some ⟨fl.launch.contract, (s.live c l).trapen.getLsbD 2⟩
    s.recordIs fl.p (w0 % 4096) stamp src x e ∧ s.recordIs fl.p (w0 / 4096 % 4096) stamp dst y g ∧
    st.srcRec = src.map parseLayout ∧ st.dstRec = dst.map parseLayout ∧ st.refusal = (if e ≠ 0 then e else g) ∧ st.masked = (x || y) ∧
    st.p = fl.p ∧ st.op = op ∧ st.k = k ∧ st.contract = fl.launch.contract ∧ st.jcb = jcb ∧ st.src = w0 % 4096 ∧ st.dst = w0 / 4096 % 4096 ∧
    st.wg = some (c.f, c.m) ∧ st.num = s.streamNum ∧ st.u = c.u ∧ st.lane = l ∧ st.pc = c.pc ∧ st.bar = (if bar then some off else none) ∧ st.task = none ∧ st.pos = 0 ∧
    st.started = false ∧ st.finished = false ∧ st.die = s.device.coreDie wg.core ∧ (fl.launch.debug = false → Beside s t) ∧
    let count := match st.dstRec with | some d => d.ext0 * d.ext1 * d.ext2 | none => 0
    Sys2Proof.Machine.exec (.xform h a b) s = .next
      { (if k ≠ 0 ∧ (op = 1 ∨ op = 2 ∨ op = 9) then t.eachThread c ([l].filter fun l => !c.gone.contains l) fun _ t => { t with seq := t.seq + BitVec.ofNat 30 count } else t) with
        streams := s.streams ++ [st], streamNum := s.streamNum + 1 }))

/-! ## Encodings and the step -/

/-- An event, whose operands stand in State.subject, completes in a state with a property. -/
def Sys2Proof.Machine.Yields (i : Instr) (s : State) (P : State → Prop) : Prop := ∃ t, Sys2Proof.Machine.exec i s = .next t ∧ P t

/-- R36-R58, R355: words written out from the formats: IADD v3, v1, v2; NOP; MOVL w7 with its literal; a guarded BRA; LDW at a negative offset;
a branch and the end of a crook program. -/
def Obligations.EncodingSanity : Prop :=
  decodeWord 0x00046110 0 = some (.iadd ⟨false, none⟩ (.v 3) ⟨.v 1, false⟩ ⟨.v 2, false⟩) ∧
  decodeWord 0x01280000 0 = some (.nop ⟨false, none⟩) ∧
  decodeWord 0x0087E000 0xDEADBEEF = some (.movl ⟨false, none⟩ (.w 7) 0xDEADBEEF#32) ∧
  decodeWord 0x4F03FFFE 0 = some (.bra ⟨false, some ⟨3, true⟩⟩ (-2)) ∧
  decodeWord 0xBF5084FC 0 = some (.ldw ⟨true, none⟩ 0 (.v 4) (.v 4) (-1)) ∧
  decodeCrook 0x78180005 = some (.crkBf 3 5) ∧ decodeCrook 0x98000000 = some .crkHalt ∧
  decodeTableWord 32 0x01180000 = some (.exit ⟨false, none⟩)

/-- Every well-formed thread word and crook operation decodes from its encoding, which has 32 bits. -/
def Obligations.EncodingRoundTrip : Prop := ∀ (i : Instr) (w : Nat), i.wf = true →
  (encodeWord i = some w → w < 2 ^ 32 ∧ decodeWord w (encodeLiteral i) = some i) ∧
  (encodeCrook i = some w → w < 2 ^ 32 ∧ decodeCrook w = some i)

/-- R58, R59: a word that decodes is the encoding of its instruction, so no bit that must be zero is ignored; a reserved major opcode
decodes to nothing. -/
def Obligations.WordsHaveOneMeaning : Prop := ∀ (w lit : Nat) (i : Instr), w < 2 ^ 32 → lit < 2 ^ 32 →
  (decodeWord w lit = some i → i.wf = true ∧ encodeWord i = some w ∧ decodeWord w (encodeLiteral i) = some i) ∧
  (decodeCrook w = some i → i.wf = true ∧ encodeCrook i = some w) ∧
  (w / 2 ^ 18 % 2 ^ 7 ∈ [0x00, 0x27, 0x3B, 0x3C, 0x3D, 0x3E, 0x3F, 0x66, 0x67, 0x7B, 0x7C, 0x7D, 0x7E, 0x7F] → decodeWord w lit = none)

/-- A step takes the first turn of the agenda: an event is exec with its operands in State.subject, a crook turn is exec of the operation that the
run has reached; then the cycle passes. -/
def Sys2Proof.Rules.StepRunsEvents : Prop := ∀ (s : State) (rest : List Turn), s.device.frozen = false →
  (∀ (i : Instr) (on : Subject), s.agenda = .event i on :: rest →
    (∀ t, Sys2Proof.Machine.exec i { s with agenda := rest, subject := on } = .next t → Sys2Proof.Machine.step s = .next t.endTurn) ∧
    (∀ x, Sys2Proof.Machine.exec i { s with agenda := rest, subject := on } = .fault x → Sys2Proof.Machine.step s = .fault x)) ∧
  (∀ (p : Nat) (r : CrookRun) (ws : Program) (w : Word) (i : Instr), s.agenda = .crook p :: rest → (s.part p).sched.run = some r →
    (s.part p).sched.active = some ws → ws[r.op]? = some w → decodeCrook w.toNat = some i →
    ∀ t, Sys2Proof.Machine.exec i { s with agenda := rest, subject := { p := p } } = .next t → Sys2Proof.Machine.step s = .next t.endTurn)

/-- R20-R22, R142: a slice's cycle. A group whose chain is one word that decodes to i issues by exec of i, with its PC moved past the word (and past
the literal of a MOVL); what the word puts off follows, TRAP first; and the step of a slice with one warp of one group is that, once the L2 has served
the fetch, with the phases and the time limit that follow at once. -/
def Sys2Proof.Rules.StepRunsDecodedWord : Prop :=
  (∀ (s : State) (f m u pc w lit : Nat) (lanes : List Nat) (snap : Warp) (i : Instr) (t : State) (d : Issue),
    s.fetch f pc = .word w → w < 2 ^ 31 → decodeWord w lit = some i →
    (opOf w = 0x21 → pc % 3 ≠ 2 ∧ s.fetch f (pc + 1) = .word lit) → (opOf w ≠ 0x21 → lit = 0) → lanes ≠ [] → s.unit? f m u = some snap →
    let next := if opOf w = 0x21 then pc + 2 else pc + 1
    let c := Issue.start f m u lanes pc next snap
    Sys2Proof.Machine.exec i ((s.beginChain f m u lanes next).withIssue c) = .next t → t.issue = some d →
    (d.blocked = true → attempt Sys2Proof.Machine.exec s f m u lanes pc = .blocked) ∧
    (d.blocked = false → ∀ h, d.held = some h → attempt Sys2Proof.Machine.exec s f m u lanes pc = .held h t) ∧
    (d.blocked = false → d.held = none → d.traps = [] → d.strays = [] →
      let last (t : State) (ds : List Deferred) : State := ds.foldl (fun s x => s.applyDeferred { c with going := true } x) t
      attempt Sys2Proof.Machine.exec s f m u lanes pc = .issues (last
        ((lanes.foldl (fun s l => last s (d.deferred.filter fun x => x.trapIn l)) { t with issue := none }).modUnit f m u fun w => w.hasIssued lanes)
        (d.deferred.filter fun x => !lanes.any x.trapIn)))) ∧
  (∀ (s : State) (rest : List Turn) (core sl k f m u : Nat) (w : Warp) (g : Group) (t0 t : State),
    let s0 : State := { s with agenda := rest }
    let s1 : State := { s0 with sliceLast := assocSet 0 (16 * core + sl) (k + 1) s.sliceLast }
    s.agenda = .slice core sl :: rest → s.device.frozen = false → s.sliceWarps core sl = [(k, f, m, u)] → s.unit? f m u = some w → w.groups = [g] →
    (∀ l ∈ g.lanes, ∀ fl n left again, (w.thread l).hold ≠ .hurdle fl n left again) →
    attempt Sys2Proof.Machine.exec s0 f m u g.lanes g.pc = .issues t0 → attempt Sys2Proof.Machine.exec (s1.serveFetch f g.pc) f m u g.lanes g.pc = .issues t →
    Beside s1 (s1.serveFetch f g.pc) ∧ Sys2Proof.Machine.step s = .next ((t.settleFlock f).startClock f).endTurn)

/-- R139, R325: the groups of a warp: running threads are in one group exactly when they agree in PC and trap mode, and in whether a JOIN, a WSYNC or
the stile has let them go on (a reading: logs 16 and 18); and the groups stand by rising PC. -/
def Sys2Proof.Rules.GroupsOfAWarp : Prop := ∀ w : Warp,
  let past (t : Thread) : Bool := t.hold == .joinPast || t.hold == .wsyncPast || t.hold == .stilePast || t.hold == .stileBad
  (∀ l, l < w.threads.length → (w.thread l).life = .live → ∃ g ∈ w.groups, l ∈ g.lanes) ∧
  (∀ g ∈ w.groups, g.lanes ≠ [] ∧ ∀ l, l ∈ g.lanes ↔ l < w.threads.length ∧ (w.thread l).life = .live ∧ (w.thread l).pc.toNat = g.pc ∧
    (w.thread l).trapMode = g.mode ∧ past (w.thread l) = g.past) ∧
  w.groups.Pairwise fun a b => a.pc < b.pc ∨ (a.pc = b.pc ∧ (a.mode = false ∧ b.mode = true ∨ a.mode = b.mode ∧ a.past = true ∧ b.past = false))

/-- R19, R221, R261, R336: a fetch. At or beyond the code object's length, or where the page refuses it, PROTFAULT; without a translation it waits for one;
else it takes the word that stands there, or one that a store has replaced since the launch's task issued. -/
def Sys2Proof.Rules.FetchedWord : Prop := ∀ (s : State) (f pc : Nat) (fl : Flock), s.flock? f = some fl → fl.launch.code + 4 * pc < 2 ^ 64 →
  let va := fl.launch.code + 4 * pc
  (fl.launch.codelen ≤ pc → s.fetch f pc = .trap 0x06 (BitVec.ofNat 64 va)) ∧
  (pc < fl.launch.codelen → s.translate fl.p va .fetch = .refused → s.fetch f pc = .trap 0x06 (BitVec.ofNat 64 va)) ∧
  (pc < fl.launch.codelen → s.translate fl.p va .fetch = .absent → s.fetch f pc = .absent (BitVec.ofNat 64 va)) ∧
  ∀ (l : Leaf) (bs : List Byte), pc < fl.launch.codelen → s.translate fl.p va .fetch = .leaf l → s.bad = [] → s.pageRead fl.p l va 4 = some bs →
    ∃ w, s.fetch f pc = .word w ∧
      (w = ofBytes bs ∨ ∃ o ∈ s.oldCode, o.p = fl.p ∧ o.va = va ∧ fl.launch.issuedAt ≤ o.since ∧ w = o.value)

/-- R23, R25, R26: for every thread word, with the registers that R56 counts as its writes: no executing thread, no effect; an executing thread whose
destination is empty makes the chain wait; and for IADD, an empty source blocks when its trap bit is 0 and raises EMPTYREAD when it is 1. The registers
of a thread in which another word of the chain traps count too (the model's reading: log 94). -/
def Sys2Proof.Rules.GuardsAndEmptyRegisters : Prop :=
  (∀ (i : Instr) (r : Roles) (s : State) (c : Issue), rolesOf i = some r → s.issue = some c →
    let passes (l : Nat) : Prop := ∀ g, r.guard = some g → (c.snap.thread l).g.getLsbD g.index.val ≠ g.sense
    ((∀ l ∈ c.lanes, ¬passes l) → Sys2Proof.Machine.exec i s = .next s) ∧
    ((∃ l ∈ c.lanes, passes l ∧ ∃ d ∈ r.writes, c.snap.isFull l d = false) → Sys2Proof.Machine.exec i s = .next (s.waits c))) ∧
  (∀ (s : State) (c : Issue) (h : Head) (d : Reg) (a b : Src), s.issue = some c → c.lanes.Nodup → s.bad = [] → c.exec h ≠ [] →
    (∀ w, s.unit? c.f c.m c.u = some w → ∀ l ∈ c.exec h, w.isFull l d = true) → (∀ l ∈ c.readers h, c.snap.isFull l d = true) →
    (∀ l ∈ c.readers h, c.snap.isFull l b.reg = true) →
    let bad := (c.readers h).filter fun l => !c.snap.isFull l a.reg
    let good := (c.exec h).filter fun l => c.snap.isFull l a.reg
    bad ≠ [] →
    (a.trap = false → Sys2Proof.Machine.exec (.iadd h d a b) s = .next (s.waits c)) ∧
    (a.trap = true → d.isW = true → Sys2Proof.Machine.exec (.iadd h d a b) s = .next (s.raises ((c.readers h).map fun l => (l, 0x03, 0)))) ∧
    (a.trap = true → d.isW = false → Sys2Proof.Machine.exec (.iadd h d a b) s =
      .next ((s.raises (bad.map fun l => (l, 0x03, 0))).write1 c good d fun l => wN ((c.val l a).toNat + (c.val l b).toNat))))

/-! ## Traps -/

/-- R32, R326, R328-R334: taking a trap. Outside trap mode the thread records cause, PC (the index after the chain for TRAP) and address, enters
trap mode and goes to TRAPVEC.ENTRY; with entry 0 it stops and its flock starts to abort. In trap mode its records stay: it is held for a herder
that can take it, which is told; with no such herder its flock starts to abort. -/
def Sys2Proof.Rules.TakingATrap : Prop := ∀ (s : State) (f m u lane cause pc next : Nat) (addr : DWord) (fl : Flock) (wg : Workgroup) (t : Thread),
  s.flock? f = some fl → fl.status = .resident → s.wg? f m = some wg → s.thread? f m u lane = some t →
  let entry := t.trapvec.toNat % 2 ^ 24
  let recorded : Thread := { t with trapcause := wN cause, trappc := wN (if 0x20 ≤ cause then next else pc), trapaddr := addr }
  let puts (q : Thread) : State := s.modThread f m u lane fun _ => q
  let aborts (q : State) : State := q.modFlock f fun fl => { fl with status := .aborting cause m u lane addr pc }
  (t.trapMode = false → entry ≠ 0 →
    s.takeTrap f m u lane cause pc next addr = puts { recorded with trapMode := true, pc := BitVec.ofNat 24 entry, hold := .none }) ∧
  (t.trapMode = false → entry = 0 →
    s.takeTrap f m u lane cause pc next addr = aborts (puts { recorded with life := .stopped, pc := BitVec.ofNat 24 pc })) ∧
  (t.trapMode = true → u = 32 →
    s.takeTrap f m u lane cause pc next addr = aborts (puts { t with life := .stopped, pc := BitVec.ofNat 24 pc })) ∧
  (t.trapMode = true → u ≠ 32 → ∃ x : HeldTrap, x.cause = cause ∧ x.addr = addr ∧
    let held := puts { t with life := .held x, pc := BitVec.ofNat 24 pc, hold := .none }
    s.takeTrap f m u lane cause pc next addr =
      if ∃ h, wg.herder = some h ∧ (h.thread 0).live = true ∧ (h.thread 0).trapvec.toNat % 2 ^ 24 ≠ 0
      then held.modWg f m fun wg => { wg with notices := wg.notices ++ [.nested u lane] } else aborts held)

/-- R333-R335: a running herder outside trap mode takes its first notice: NESTED with the PC, cause, unit and lane of the held thread in TRAPADDR, or
XFTHRESH with the address of the job control block; a TRET from NESTED releases the thread that was held, which goes on as by TRET itself. -/
def Sys2Proof.Rules.HerderNotices : Prop := ∀ (s : State) (f m u lane : Nat) (wg : Workgroup) (h : Warp) (rest : List Notice),
  s.subject.k = f → s.subject.m = m → s.wg? f m = some wg → wg.herder = some h → (h.thread 0).life = .live → (h.thread 0).trapMode = false → h.threads ≠ [] →
  let entry := (h.thread 0).trapvec.toNat % 2 ^ 24
  let enters (cause : Nat) (addr : DWord) : State := (s.modWg f m fun wg => { wg with notices := rest }).modThread f m 32 0 fun t =>
    { t with trapcause := wN cause, trappc := t.pc.setWidth 32, trapaddr := addr, trapMode := true, pc := BitVec.ofNat 24 entry, hold := .none }
  (entry ≠ 0 → ∀ q x, wg.notices = .nested u lane :: rest → s.thread? f m u lane = some q → q.life = .held x → Sys2Proof.Machine.exec .nestedNotice s =
    .next (enters 0x10 (BitVec.ofNat 64 (q.pc.toNat * 2 ^ 32 + x.cause * 2 ^ 16 + u * 2 ^ 5 + lane)))) ∧
  (entry ≠ 0 → ∀ a, wg.notices = .xfthresh a :: rest → Sys2Proof.Machine.exec .xfthreshNotice s = .next (enters 0x11 a)) ∧
  (entry = 0 → ∀ a, wg.notices = .xfthresh a :: rest →
    Sys2Proof.Machine.exec .xfthreshNotice s = .next (s.modWg f m fun wg => { wg with notices := rest })) ∧
  ∀ (c : Issue) (t q : Thread) (x : HeldTrap), c.f = f → c.m = m → c.u = 32 → s.thread? f m 32 0 = some t → t.trapcause = 0x10 → u < 32 → lane < 32 →
    t.trapaddr.toNat % 2 ^ 10 = u * 2 ^ 5 + lane → s.thread? f m u lane = some q → q.life = .held x → q.trapcause ≠ 0x07 →
    ((s.applyDeferred c (.tret 0)).thread? f m u lane = some { q with life := .live, trapMode := false, pc := q.trappc.setWidth 24 }) ∧
    ((s.applyDeferred c (.tret 0)).thread? f m 32 0 = some { t with trapMode := false, pc := t.trappc.setWidth 24 })

/-! ## Reset and the memories -/

/-- R9, R217, R309, R360, R377 (Reset columns): the registers after a whole-device reset, and no flock, task or fault record, and no started partition. -/
def Sys2Proof.Rules.ResetState : Prop :=
  let s := State.reset
  s.partitions.length = 16 ∧ s.flocks = [] ∧ s.streams = [] ∧ s.landings = [] ∧ s.device.frozen = false ∧ s.device.pwrlim = 2400 ∧
  s.device.belladdr = 0 ∧ s.device.fwstat = 0 ∧ s.device.rank = 0 ∧ s.device.joined = false ∧
  ∀ p, p < 16 → let q := s.part p
    q.window = [] ∧ q.faults = [] ∧ q.started = false ∧ q.sq.enable = false ∧ q.sq.base = 0 ∧ q.sq.log2 = 4 ∧ q.sq.write = 0 ∧ q.sq.read = 0 ∧ q.sq.quota = 16 ∧
    q.nextSeq = 1 ∧ q.mem.ptroot = 0 ∧ q.mem.avail = 0 ∧ (∀ k, q.counter k = 0) ∧ (∀ k, q.buffer k = 0) ∧ (∀ k, nth 0 q.eng.bqdesc k = 0) ∧
    q.sched.active = none ∧ q.sched.sdlog2 = 8 ∧ q.sched.grant = 0 ∧ (∀ k, nth 0 q.sched.g k = 0) ∧ q.expbase = 0 ∧ (∀ b, nth none q.buffers b = none)

/-- The memories of the reset state, and of a state in which one instruction has been placed, have the canonical form: the byte memories, every
scratchpad, and the firmware cores' own. -/
def Sys2Proof.Rules.ResetMemories : Prop :=
  State.reset.memoriesWf = true ∧ State.reset.scratchWf = true ∧ State.reset.coresWf = true ∧
  ∀ (s : State) (nbits w : Nat), s.memoriesWf = true → s.scratchWf = true → s.coresWf = true →
    (s.withFetchWord nbits w).memoriesWf = true ∧ (s.withFetchWord nbits w).scratchWf = true ∧ (s.withFetchWord nbits w).coresWf = true

/-- Every step keeps the canonical form of the four byte memories, of every scratchpad and of the firmware cores' memories. -/
def Obligations.StepKeepsMemories : Prop := ∀ (s t : State), s.memoriesWf = true → s.scratchWf = true → Sys2Proof.Machine.step s = .next t →
  t.memoriesWf = true ∧ t.scratchWf = true ∧ (s.coresWf = true → t.coresWf = true)

/-- A store to a byte memory in canonical form keeps the form, writes its bytes, and leaves every other address. -/
def Sys2Proof.Rules.MemoryWrites : Prop := ∀ (m : List Host.Cell) (a : Nat) (bs : List Byte), Memory.wf m = true →
  Memory.wf (cellsWrite m a bs) = true ∧ cellsRead (cellsWrite m a bs) a bs.length = bs ∧
  (∀ b, b < a ∨ a + bs.length ≤ b → cellGet (cellsWrite m a bs) b = cellGet m b) ∧
  ∀ n, Memory.wf n = true → (∀ b, cellGet n b = cellGet m b) → n = m

/-! ## Crook operations -/

/-- The run of a partition's interpreter set, and nothing else. -/
def Sys2Proof.Machine.State.runs (s : State) (p : Nat) (r : Option CrookRun) : State :=
  s.modPart p fun q => { q with sched := { q.sched with run := r } }
/-- An operation of a cost that makes g of the run and goes on at an index: within the program the run stands there; at its end the next candidate
starts, for 2 cycles, and after the last one the decision acts. An operation beyond the budget of 2,048 cycles is not executed (R357, R358). -/
def Sys2Proof.Machine.Interprets (i : Instr) (cost : Nat) (g : CrookRun → CrookRun) (jump : CrookRun → Nat → Nat) : Prop :=
  ∀ (s : State) (r : CrookRun) (prog : Program),
    let p := s.subject.p
    (s.part p).sched.run = some r → (s.part p).sched.active = some prog → r.overBudget = false →
    let after := { g r with cycles := r.cycles + cost }
    (2048 < r.cycles + cost → Sys2Proof.Machine.exec i s = .next (s.runs p (some { r with overBudget := true }))) ∧
    (r.cycles + cost ≤ 2048 →
      (jump r prog.length < prog.length → Sys2Proof.Machine.exec i s = .next (s.runs p (some { after with op := jump r prog.length }))) ∧
      (prog.length ≤ jump r prog.length → r.cand + 1 < r.cands.length → r.cycles + cost + 2 ≤ 2048 →
        Sys2Proof.Machine.exec i s = .next (s.runs p (some { after with cand := r.cand + 1, op := 0, cycles := r.cycles + cost + 2 }))) ∧
      (prog.length ≤ jump r prog.length → r.cand + 1 < r.cands.length → 2048 < r.cycles + cost + 2 →
        Sys2Proof.Machine.exec i s = .next (s.runs p (some { after with overBudget := true }))) ∧
      (prog.length ≤ jump r prog.length → r.cands.length ≤ r.cand + 1 → Sys2Proof.Machine.exec i s = .next ((s.runs p none).actRun p after)))

/-- R355-R358: the 19 operations of the interpreter. -/
def Sys2Proof.Rules.CrookOperations : Prop := ∀ (d a b f : Fin 16) (imm : Int) (off : Nat) (v : Fin 4),
  let alu (i : Instr) (cost : Nat) (x : CrookRun → Word) : Prop := Interprets i cost (fun r => { r with k := r.k.set d (x r) }) fun r _ => r.op + 1
  alu (.crkLdf d f) 1 (fun r => (r.fields.getD r.cand []).getD f.val 0) ∧
  alu (.crkLdg d f) 1 (fun r => if f = 13 then wN r.cand else r.globals.getD f.val 0) ∧
  alu (.crkLdi d imm) 1 (fun _ => wI imm) ∧
  alu (.crkAdd d a b) 1 (fun r => wN (r.k[a].toNat + r.k[b].toNat)) ∧
  alu (.crkSub d a b) 1 (fun r => wI (r.k[a].toNat - r.k[b].toNat)) ∧
  alu (.crkMul d a b) 4 (fun r => wN (r.k[a].toNat * r.k[b].toNat)) ∧
  alu (.crkMin d a b) 1 (fun r => wI (min r.k[a].toInt r.k[b].toInt)) ∧
  alu (.crkMax d a b) 1 (fun r => wI (max r.k[a].toInt r.k[b].toInt)) ∧
  alu (.crkAnd d a b) 1 (fun r => r.k[a] &&& r.k[b]) ∧
  alu (.crkOr d a b) 1 (fun r => r.k[a] ||| r.k[b]) ∧
  alu (.crkShl d a b) 1 (fun r => wN (r.k[a].toNat * 2 ^ (r.k[b].toNat % 32))) ∧
  alu (.crkShr d a b) 1 (fun r => wN (r.k[a].toNat / 2 ^ (r.k[b].toNat % 32))) ∧
  alu (.crkClt d a b) 1 (fun r => if r.k[a].toInt < r.k[b].toInt then 1 else 0) ∧
  alu (.crkCeq d a b) 1 (fun r => if r.k[a] = r.k[b] then 1 else 0) ∧
  Interprets (.crkBf a off) 1 id (fun r _ => if r.k[a] = 0 then r.op + off else r.op + 1) ∧
  Interprets (.crkBnf a off) 1 id (fun r _ => if r.k[a] ≠ 0 then r.op + off else r.op + 1) ∧
  Interprets (.crkScore a) 1 (fun r => if r.kind = 2 then r else { r with scores := r.scores.set r.cand r.k[a].toInt }) (fun r _ => r.op + 1) ∧
  Interprets (.crkVerdict v) 1 (fun r => if r.kind = 2 then { r with verdict := v.val } else r) (fun r _ => r.op + 1) ∧
  Interprets .crkHalt 1 id (fun _ n => n)

/-! ## Threads, workgroups and flocks between chains -/

/-- Results in flight land (R24, R34): their registers are full with their values, and their causes stick; a register so written is sound again
(R342; the model's reading: log 78). -/
def Sys2Proof.Machine.State.lands (s : State) (l : Landing) (d : Reg) (n : Nat) : State :=
  (s.modUnit l.f l.m l.u fun w =>
    let w := w.writes l.lanes d n fun _ => l.vals
    { w with threads := w.threads.zipIdx.map fun q => if l.lanes.contains q.2 then
        { q.1 with trapen := q.1.trapen ||| (if l.inv then 0x10000 else 0) ||| (if l.ovf then 0x20000 else 0) } else q.1 }).mend
    fun b => l.lanes.all fun k => b.outside l.f l.m l.u k ((regSpan d n).zip l.vals)

/-- R24, R96, R248: RESULT_LAND lands a result but for a host AtomicOp, which HOST_ATOMIC_COMPLETION lands; a random word reaches its QPOP, or is
converted and in flight for its CVTSR. -/
def Sys2Proof.Rules.ResultsLand : Prop := ∀ (s : State),
  (∀ (l : Landing) (d : Reg) (n : Nat), s.landings[s.subject.k]? = some l → l.dests = regSpan d n →
    let t := { s with landings := s.landings.eraseIdx s.subject.k }.lands l d n
    (l.host = false → Sys2Proof.Machine.exec .resultLand s = .next t) ∧
    (l.host = true → Sys2Proof.Machine.exec .resultLand s = .next s) ∧
    (l.host = true → s.subject.on = true → Sys2Proof.Machine.exec .hostAtomicCompletion s = .next t)) ∧
  (∀ (r : RandomRequest), s.randoms[s.subject.k]? = some r → r.drop = false →
    let t := { s with randoms := s.randoms.eraseIdx s.subject.k }
    let x := s.randomFor r.f r.m r.u r.lane r.seq r.srseed
    (r.convert = none → Sys2Proof.Machine.exec .randomWordDelivery s = .next ((t.modUnit r.f r.m r.u fun w =>
      w.writes r.lanes r.dest 1 fun _ => [x]).mend fun b => r.lanes.all fun k => b.outside r.f r.m r.u k [(r.dest, x)])) ∧
    (∀ a k e4m3, r.convert = some (a, k, e4m3) → let o := convertStochastic (s.contractNo r.f) k e4m3 a x
      Sys2Proof.Machine.exec .randomWordDelivery s = .next { t with landings := s.landings ++
        [{ f := r.f, m := r.m, u := r.u, lanes := r.lanes, dests := [r.dest], vals := o.vals, pipeF := true, inv := o.inv, ovf := o.ovf
           host := false, peer := none }] }))

/-- R129, R144, R149, R153: JOINLIM_EXPIRY releases the threads at a JOIN whose oldest has waited JOINLIM cycles; an ended thread ceases to exist once its
registers are full; a workgroup ends when its units are gone, no matrix operation or tile copy is left and every peer has answered its stores (R380: so a store that a peer
refuses can still abort the flock), and its flock retires with the last one. -/
def Sys2Proof.Rules.ThreadsAndWorkgroupsEnd : Prop := ∀ (s : State) (f m u : Nat), s.subject.k = f → s.subject.m = m → s.subject.u = u →
  let atJoin (t : Thread) : Bool := t.life == .live && (match t.hold with | .join _ => true | _ => false)
  let waited (w : Warp) (t : Thread) : Bool := t.life == .live && (match t.hold with | .join c => decide (c + w.joinlim.toNat ≤ s.cycle) | _ => false)
  Sys2Proof.Machine.exec .joinlimExpiry s = .next (s.modUnit f m u fun w =>
    let frees (t : Thread) : Bool := atJoin t && w.threads.any fun o => waited w o && o.pc == t.pc && o.trapMode == t.trapMode
    { w with threads := w.threads.map fun t => if frees t then { t with hold := .joinPast } else t }) ∧
  Sys2Proof.Machine.exec .threadCease s = .next (s.modThread f m u s.subject.lane fun t =>
    if t.life = .ending ∧ (List.range 24).all t.full.getLsbD then { t with life := .ended } else t) ∧
  ∀ (fl : Flock) (wg : Workgroup), s.flock? f = some fl → fl.wgs[m]? = some wg → fl.status = .resident →
    let gone (w : Warp) : Prop := ∀ t ∈ w.threads, t.life = .ended ∨ t.life = .absent
    let named := ∃ q ∈ fl.wgs.zipIdx, ∃ op ∈ q.1.matQ, op.a.target q.2 = m ∨ op.b.target q.2 = m
    let done := (∀ w ∈ wg.warps, gone w) ∧ (∀ h, wg.herder = some h → gone h) ∧ wg.matQ = [] ∧ wg.copies = [] ∧ ¬named ∧
      ∀ l ∈ s.landings, l.f = f → l.m = m → l.dests = [] → l.peer = none
    (¬done → Sys2Proof.Machine.exec .workgroupEnd s = .next s) ∧
    (done → Yields .workgroupEnd s fun t => ∃ fl' wg', t.flock? f = some fl' ∧ fl'.wgs[m]? = some wg' ∧ wg'.ended = true ∧ wg'.scratch = [] ∧ wg'.tiles = [] ∧
      wg'.tags = [] ∧ (∀ k, k ≠ m → fl'.wgs[k]? = fl.wgs[k]?) ∧
      (fl'.status = .retired ∨ fl'.status = .resident) ∧ (fl'.status = .retired ↔ ∀ k w, fl.wgs[k]? = some w → k = m ∨ w.ended = true) ∧ t.partitions = s.partitions)

/-- What an abort does to the flocks of a task: each is aborted or had retired. -/
def Sys2Proof.Machine.State.stopped (t : State) (p seq : Nat) : Prop :=
  ∀ g fl, t.flock? g = some fl → fl.p = p → fl.seq = seq → fl.status = .aborted ∨ fl.status = .retired

/-- R248, R336, R339, R340, R362, R380: an abort stops every flock of its task, faults the task (FLOCKFAULT with the cause, or the cause's own fault), and
leaves one record of KIND 7 with the thread that caused it; a time limit does so with TIMEOUT and WARP 0xFE, and not before it has passed, and an access
to a peer without an answer does so after 2^22 cycles, and not before. -/
def Sys2Proof.Rules.Aborts : Prop := ∀ (s : State) (p seq : Nat) (task : Task), p < s.partitions.length → s.task? p seq = some task →
  task.isFaulted = false → task.done = false →
  let recorded (t : State) (detail lane warp lanes : Nat) (va : DWord) : Prop := ∃ r ∈ (t.part p).faults, r.fid = (s.part p).nextFid ∧ r.kind = 7 ∧ r.seq = seq ∧
    r.detail = detail ∧ r.lane = lane ∧ r.warp = warp ∧ r.lanes = wN lanes ∧ r.va = va
  let faulted (t : State) (cause detail : Nat) : Prop := ∃ q, t.task? p seq = some q ∧ q.status = .faulted cause detail
  (∀ (f m u lane cause pc : Nat) (addr : DWord) (fl : Flock), s.flock? f = some fl → fl.p = p → fl.seq = seq → s.subject.k = f →
    fl.status = .aborting cause m u lane addr pc → pc < 2 ^ 24 → cause < 0x40 →
    Yields .flockAbort s fun t => t.stopped p seq ∧ recorded t cause (if u = 32 then 0 else lane) u pc addr ∧
      (cause = 0x07 → faulted t 0x0B 0) ∧ (cause = 0x13 → faulted t 0x0D 0) ∧ (cause ≠ 0x07 → cause ≠ 0x13 → faulted t 0x09 cause) ∧
      t.memoryPart = s.memoryPart) ∧
  (∀ l, s.subject.p = p → s.subject.k = seq → task.launch = some l →
    (l.limit = 0 ∨ task.ticked < 1024 * l.limit → Sys2Proof.Machine.exec .timeLimitExpiry s = .next s) ∧
    (0 < l.limit → 1024 * l.limit ≤ task.ticked →
      Yields .timeLimitExpiry s fun t => t.stopped p seq ∧ recorded t 0x13 0 0xFE 0 0 ∧ faulted t 0x0D 0 ∧ t.memoryPart = s.memoryPart)) ∧
  (∀ (k : Nat) (l : Landing) (fl : Flock), s.landings[k]? = some l → s.subject.k = k → s.flock? l.f = some fl → fl.p = p → fl.seq = seq → fl.status = .resident →
    (l.host = true → s.subject.on = false → Yields .hostAtomicCompletion s fun t => t.stopped p seq ∧ faulted t 0x0B 0) ∧
    (l.peer ≠ none → l.since + 2 ^ 22 ≤ s.cycle → Yields .peerAccessTimeout s fun t => t.stopped p seq ∧ faulted t 0x0B 0) ∧
    (s.cycle < l.since + 2 ^ 22 → Sys2Proof.Machine.exec .peerAccessTimeout s = .next s))

/-- R155, R158, R159: a warp that a pool's sorter has formed, placed: a flock of one workgroup of one warp, whose lanes stand at the TARGET of their
records with v0 to v5 from them, and whose other lanes hold no thread. -/
def Sys2Proof.Machine.State.placesWarp (s t : State) (p : Nat) (q : Pool) (l : Launch) (wgid : Nat) (rs : List ContRecord) : Prop :=
  ∃ (fl : Flock) (wg : Workgroup) (w : Warp), t.flocks = s.flocks ++ [fl] ∧ fl.p = p ∧ fl.seq = q.seq ∧ fl.launch = l ∧ fl.wgs = [wg] ∧ wg.wgid = wgid ∧
    wg.warps = [w] ∧ wg.herder = none ∧ w.threads.length = 32 ∧
    (∀ (k : Nat) (r : ContRecord), rs[k]? = some r → k < 32 → (w.thread k).life = .live ∧ (w.thread k).pc = BitVec.ofNat 24 (r.words.getD 0 0).toNat ∧
      (w.thread k).g = 0 ∧ ∀ j : Fin 24, (w.thread k).v[j] = if j.val < 6 then r.words.getD (j.val + 2) 0 else 0) ∧
    (∀ k, rs.length ≤ k → k < 32 → (w.thread k).life = .absent) ∧
    (t.part p).pools = [{ q with warps := [] }]
/-- R159, R353: the records of a bin form one warp when the oldest has waited the flush timeout, or when no thread is left that could add to the pool;
its WGID counts the warps formed before it (the count starts at 0: log 83). A warp so formed is placed by the DISPATCH that chooses its task, where it fits. -/
def Sys2Proof.Rules.PoolWarps : Prop := ∀ (s : State) (p seq : Nat) (q : Pool) (task : Task) (l : Launch), s.subject.p = p → s.subject.k = seq → p < s.partitions.length →
  (s.part p).pools = [q] → q.seq = seq → s.task? p seq = some task → task.launch = some l → task.status = .issued → l.pool ≠ none →
  (∀ target, let rs := q.records.filter fun r => r.target = target
    let formed := s.modPart p fun u => { u with pools := [{ q with formed := q.formed + 1, warps := q.warps ++ [(q.formed % 2 ^ 23, rs)],
                                                                   records := q.records.filter fun r => r.target ≠ target }] }
    rs ≠ [] → rs.length ≤ 32 →
    (s.subject.m = target → (∀ r, rs.head? = some r → r.arrived + l.flush ≤ s.cycle) → Sys2Proof.Machine.exec .poolFlushTimeout s = .next formed) ∧
    (s.subject.m = target → (∀ r, rs.head? = some r → s.cycle < r.arrived + l.flush) → Sys2Proof.Machine.exec .poolFlushTimeout s = .next s) ∧
    (s.poolDry p seq = true → q.records = rs → Sys2Proof.Machine.exec .poolDrain s = .next formed)) ∧
  (s.poolDry p seq = false → Sys2Proof.Machine.exec .poolDrain s = .next s) ∧
  ∀ wgid rs, q.warps = [(wgid, rs)] → l.m = 1 → l.s = 1 → s.placesFor p l ≠ [] → s.foldedFlocks p seq = [] → (s.part p).window = [task] →
    (s.part p).sched.run = none → (s.part p).sched.shadow = none → (s.part p).sched.active = none → (s.part p).sched.preempts = [] → s.overGrant p = false →
    (∀ r ∈ (s.part p).faults, r.decide = false) → Yields .dispatch s fun t => s.placesWarp t p q l wgid rs

/-- R344-R346, R361: a flock that has stopped and has nothing in flight is folded at the address given: its image stands there, its cores are free, and a
pre-emption is counted, that of a halt too (R331); HALTRES lets a halted flock be placed again and answers its record, unless that still waits for the ring. In the image, the flock's sequence number and size stand at bytes 0 and 8, and a
live thread's v registers, full bits, guards and PC at bytes 0, 96, 100 and 104 of its record. -/
def Sys2Proof.Rules.Folding : Prop :=
  (∀ (s : State) (f : Nat) (fl : Flock) (halt : Option (Nat × Word)), s.subject.k = f → s.flock? f = some fl → fl.status = .folding halt → s.drained f fl = true →
    s.memoriesWf = true →
    let folded := { fl with status := .folded s.subject.x.toNat halt, preempted := fl.preempted + 1 }
    Yields .foldAreaWrite s fun t => t.flock? f = some folded ∧ folded.onCores = false ∧ (∀ g, g ≠ f → t.flock? g = s.flock? g) ∧
      t.hbmRead s.firmwareKey s.subject.x.toNat (foldBytes folded halt).length = foldBytes folded halt) ∧
  (∀ (s : State) (p f base code : Nat) (fid : Word) (fl : Flock), s.subject.p = p → s.subject.x.setWidth 32 = fid → s.flock? f = some fl → fl.p = p →
    fl.status = .folded base (some (code, fid)) →
    ((∀ r ∈ (s.part p).waitingRecs, r.fid ≠ fid) → Yields .haltres s fun t => t.flock? f = some { fl with status := .folded base none } ∧
      (∀ r ∈ (t.part p).faults, r.fid = fid → r.pending = false)) ∧
    ((∃ r ∈ (s.part p).waitingRecs, r.fid = fid) → Sys2Proof.Machine.exec .haltres s = .next s)) ∧
  (∀ (fl : Flock) (halt : Option (Nat × Word)), fl.seq < 2 ^ 64 → fl.launch.m * fl.launch.s < 2 ^ 32 → fl.hurdles.length = 16 →
    field (foldBytes fl halt) 0 8 = fl.seq ∧ field (foldBytes fl halt) 8 4 = fl.launch.m * fl.launch.s ∧ field (foldBytes fl halt) 80 4 = (if halt = none then 0 else 1)) ∧
  ∀ (t : Thread), t.life = .live → (foldThread t).length = 160 ∧ (∀ j : Fin 24, field (foldThread t) (4 * j.val) 4 = t.v[j].toNat) ∧
    field (foldThread t) 96 4 = t.full.toNat ∧ field (foldThread t) 100 2 = t.g.toNat ∧ field (foldThread t) 104 4 = t.pc.toNat ∧
    field (foldThread t) 108 4 = t.trapvec.toNat ∧ field (foldThread t) 120 4 = t.seq.toNat ∧ field (foldThread t) 144 4 = t.arrived.toNat

/-! ## Tile copies and transforms -/

/-- Nibble n of a byte memory, the low nibble of a byte first (R72). -/
def Sys2Proof.Machine.nibbleOf (m : List Host.Cell) (n : Nat) : Nat := (cellGet m (n / 2)).toNat / 16 ^ (n % 2) % 16
/-- One row of a tile copy (R298, R300, R301): whether tensor row O1 + r is in bounds, its in-bounds columns (first, count), and the nibble at which
they start in the tensor and in the scratchpad. -/
structure Sys2Proof.Machine.CopyRow where
  inside : Bool
  first : Nat
  count : Nat
  tensor : Nat
  tile : Nat
def Sys2Proof.Machine.copyRowOf (w : Nat → Nat) (l : Layout) (r : Nat) : CopyRow :=
  let o0 : Int := (BitVec.ofNat 32 (w 2)).toInt
  let i1 : Int := (BitVec.ofNat 24 (w 3)).toInt + r
  let i2 := w 3 / 2 ^ 24
  let first := (-o0).toNat
  let count := (min (l.box0 : Int) (l.ext0 - o0) - first).toNat
  { inside := decide (0 ≤ i1) && decide (i1 < l.ext1) && decide (i2 < l.ext2) && decide (0 < count), first := first, count := count
    tensor := 2 * (l.base + i2 * l.stride2 + i1.toNat * l.stride1) + (o0 + first).toNat * l.nibs
    tile := 2 * (16 * (w 1 % 2 ^ 15) + r * ((l.box0 * l.nibs / 2 + 15) / 16 * 16)) + first * l.nibs }
/-- The runs of nibbles that a tile copy moves, in the order of its rows: tensor nibble, tile nibble, count. A row's in-bounds elements are one run, or two
that meet at a multiple of 2 KiB of the tensor. -/
def Sys2Proof.Machine.copyRunsOf (w : Nat → Nat) (l : Layout) : List (Nat × Nat × Nat) :=
  (List.range l.box1).flatMap fun r =>
    let q := copyRowOf w l r
    let n := q.count * l.nibs
    let k := min n (4096 - q.tensor % 4096)
    if q.inside then (q.tensor, q.tile, k) :: (if k < n then [(q.tensor + k, q.tile + k, n - k)] else []) else []
/-- The bytes that rows count: each row's in-bounds elements rounded up to a byte (R301). -/
def Sys2Proof.Machine.realCount (w : Nat → Nat) (l : Layout) : Nat :=
  (((List.range l.box1).filter fun r => (copyRowOf w l r).inside).map fun r => ((copyRowOf w l r).count * l.nibs + 1) / 2).sum
/-- A command that the checks of R300 pass: no reserved bit, a good record of global memory with whole-byte rows, the tile and the object in the allocation. -/
def Sys2Proof.Machine.copyFits (fl : Flock) (w : Nat → Nat) (l : Layout) : Prop :=
  w 0 < 2 ^ 28 ∧ (w 0).testBit 15 = false ∧ w 1 < 2 ^ 30 ∧ l.bad = false ∧ (l.nibs = 1 → l.box0 % 2 = 0) ∧ l.base < 0x00FD000000000000 ∧
  16 * (w 1 % 2 ^ 15) + (l.box0 * l.nibs / 2 + 15) / 16 * 16 * l.box1 ≤ fl.launch.scratch ∧
  ((w 0).testBit 14 = true → 16 * (w 1 / 2 ^ 15) + 16 ≤ fl.launch.scratch)

/-- R300, R301: the first command of a workgroup. A reserved bit ends it with BOUNDS. A command to the scratchpad whose checks and reads pass has
each in-bounds element's nibbles stand in its tile and every other nibble keep its value; a command to the tensor whose checks and writes
pass makes the writes of its in-bounds elements in the order of the rows, and no other (a row that crosses a multiple of 2 KiB, in two writes); each has then moved the real byte count and is
finished. A command that goes the other way, is held by a fault or is finished is left as it is. The model's readings: the record read at acceptance is
kept, and one whose translation was absent is read with the first work (log 26). -/
def Sys2Proof.Rules.TileCopyMoves : Prop := ∀ (s : State) (f m : Nat) (fl : Flock) (wg : Workgroup) (c : CopyCmd) (rest : List CopyCmd),
  s.subject.k = f → s.subject.m = m → s.flock? f = some fl → s.wg? f m = some wg → wg.copies = c :: rest →
  let w (k : Nat) : Nat := (c.words.getD k 0).toNat
  let out := (w 0).testBit 12
  let i : Instr := if out then .tileCopyToTensor else .tileCopyToScratchpad
  let st : Option Stamped := some ⟨fl.launch.contract, c.stampMask⟩
  (∀ j ∈ [Instr.tileCopyToTensor, .tileCopyToScratchpad], c.finished = true ∨ c.fault ≠ none ∨ j ≠ i → Sys2Proof.Machine.exec j s = .next s) ∧
  (c.finished = false → c.fault = none →
    (2 ^ 28 ≤ w 0 ∨ (w 0).testBit 15 = true ∨ 2 ^ 30 ≤ w 1 →
      Sys2Proof.Machine.exec i s = .next (s.modCopy f m fun c => { c with error := 0x02, finished := true })) ∧
    ∀ (bs : List Byte) (u : Nat → State),
    (c.record = some bs ∧ u 0 = s) ∨ (c.record = none ∧ (∃ x, s.readLayout fl.p (w 0 % 2 ^ 12) st = .ok (bs, x)) ∧
      u 0 = s.served fl.p ((s.part fl.p).eng.ltbase.toNat + 64 * (w 0 % 2 ^ 12)) 64) →
    let l := parseLayout bs
    let runs := copyRunsOf w l
    copyFits fl w l → fl.launch.debug = false → c.row = 0 → c.part = 0 → c.moved = 0 → c.error = 0 → Memory.wf wg.scratch = true → s.bad = [] →
    (out = false → ∀ (data : Nat → List Nat),
      (∀ (j ta sa n : Nat), runs[j]? = some (ta, sa, n) → (data j).length = n ∧ (∀ x ∈ data j, x < 16) ∧
        u (j + 1) = (u j).served fl.p (ta / 2) ((ta + n - 1) / 2 - ta / 2 + 1) ∧ ∃ y, (u (j + 1)).readNibs fl.p st ta n = .ok (data j, y)) →
      Yields i s fun t => ∃ wg' c', t.wg? f m = some wg' ∧ wg'.copies = c' :: rest ∧ c'.finished = true ∧ c'.error = 0 ∧ c'.moved = realCount w l ∧
        t.memoryPart = s.memoryPart ∧
        (∀ (j ta sa n k : Nat), runs[j]? = some (ta, sa, n) → k < n → nibbleOf wg'.scratch (sa + k) = (data j).getD k 0) ∧
        ∀ x, (∀ q ∈ runs, x < q.2.1 ∨ q.2.1 + q.2.2 ≤ x) → nibbleOf wg'.scratch x = nibbleOf wg.scratch x) ∧
    (out = true →
      (∀ (j ta sa n : Nat), runs[j]? = some (ta, sa, n) →
        ∃ y, (u j).writeNibs fl.p st ta ((List.range n).map fun k => nibbleOf wg.scratch (sa + k)) (c.writer f m fl) = (u (j + 1), .ok y)) →
      Yields i s fun t => ∃ wg' c', t.wg? f m = some wg' ∧ wg'.copies = c' :: rest ∧ c'.finished = true ∧ c'.error = 0 ∧ c'.moved = realCount w l ∧
        wg'.scratch = wg.scratch ∧ t.memoryPart = (u runs.length).memoryPart))

/-- R301-R303: TILE_COPY_COMPLETE of a command that is finished. A copy to the scratchpad fills the granules of its tile in which it has
written no byte, and the last one of a row that stopped part-way, with an error too (a reading of R211 and R301: log 25); the barrier
object takes the bytes by the completion test, or completes its phase with the first error's code, and its phase counts the writes of the command that
have not entered the single order (R268); q1 takes TAG, ERR and the count, and q1ops the command's number; the
command leaves the queue, and no other byte of the scratchpad changes. -/
def Sys2Proof.Rules.TileCopyCompletes : Prop := ∀ (s : State) (f m : Nat) (fl : Flock) (wg : Workgroup) (c : CopyCmd) (rest : List CopyCmd),
  s.subject.k = f → s.subject.m = m → s.flock? f = some fl → s.wg? f m = some wg → wg.copies = c :: rest →
  let w (k : Nat) : Nat := (c.words.getD k 0).toNat
  let boff := 16 * (w 1 / 2 ^ 15 % 2 ^ 15)
  let reports := (w 0).testBit 14 = true ∧ boff + 16 ≤ fl.launch.scratch
  (c.finished = false → Sys2Proof.Machine.exec .tileCopyComplete s = .next s) ∧
  (c.finished = true → wg.ended = false → c.error < 256 → Memory.wf wg.scratch = true → s.bad = [] → ∀ e n p r, s.object f m boff = [e, n, p, r] →
    Yields .tileCopyComplete s fun t => ∃ wg', t.wg? f m = some wg' ∧ wg'.copies = rest ∧
      wg'.q1 = wg.q1 ++ (if (w 0).testBit 13 then [wN (w 0 / 2 ^ 16 % 2 ^ 12 * 2 ^ 20 + (if c.error ≠ 0 then 2 ^ 19 else 0) + c.moved % 2 ^ 19)] else []) ∧
      wg'.q1ops = wg.q1ops ++ (if (w 0).testBit 13 then [c.num] else []) ∧
      (¬reports → wg'.counted = wg.counted) ∧
      (reports → wg'.counted = (wg.counted ++ [(boff, p, WriteOp.copy f m c.num)]).filter fun q => t.late.any fun w => w.writer.op == q.2.2) ∧
      (reports → let masked := if c.masked then 512 else 0
        (c.error = 0 → let q := objectDone e ((n + c.moved) % 2 ^ 32) p; t.object f m boff = [q.1, q.2.1, q.2.2, r ||| masked]) ∧
        (c.error ≠ 0 → t.object f m boff = [0, 0, (p + 1) % 2 ^ 32, (if r % 256 = 0 then r ||| c.error else r) ||| masked ||| 256])) ∧
      (∀ a, ¬(reports ∧ boff ≤ a ∧ a < boff + 16) → cellGet wg'.scratch a = cellGet wg.scratch a) ∧
      (∀ bs, c.record = some bs → wg.waits = [] →
        let l := parseLayout bs
        let first := w 1 % 2 ^ 15
        let per := (l.box0 * l.nibs / 2 + 15) / 16
        let row (g : Nat) : Nat := (g - first) / per
        let done (g : Nat) : Nat :=
          if row g < c.row then (if (copyRowOf w l (row g)).inside then (copyRowOf w l (row g)).count * l.nibs else 0) else if row g = c.row then c.part else 0
        let start (g : Nat) : Nat := (copyRowOf w l (row g)).tile
        copyFits fl w l → first + per * l.box1 ≤ 24576 → ∀ g, wg'.granules.getLsbD g = (wg.granules.getLsbD g || decide ((w 0).testBit 12 = false ∧ first ≤ g ∧ g < first + per * l.box1 ∧
          (done g = 0 ∨ 32 * g + 32 ≤ start g ∨ start g + done g ≤ 32 * g ∨ (row g = c.row ∧ c.part ≠ 0 ∧ (start g + c.part - 1) / 32 = g))))))

/-- What one destination element adds to a segment: its n nibbles, and what it counts: saturated, flushed, NaN (R318). -/
def Sys2Proof.Machine.Adds (r : XRes Segment) (g : Segment) (n code : Nat) (sat ftz nan masked : Bool) : Prop :=
  r = .ok { g with
    nibs := g.nibs ++ (List.range n).map fun k => code / 16 ^ k % 16
    counts := { elems := g.counts.elems + 1, sats := g.counts.sats + sat.toNat, ftzs := g.counts.ftzs + ftz.toNat, nans := g.counts.nans + nan.toNat }
    masked := g.masked || masked }
/-- Whether a code of a type is a NaN, and whether it stands for zero (R73-R76). -/
def Sys2Proof.Machine.nanOf (f : Elem) (x : Nat) : Bool :=
  match f with
  | .bf16 => decide (0x7F80 < x % 2 ^ 15) | .fp16 => decide (0x7C00 < x % 2 ^ 15) | .fp32 => decide (0x7F800000 < x % 2 ^ 31)
  | .e4m3 => decide (x % 2 ^ 7 = 0x7F) | .e5m2 => decide (0x7C < x % 2 ^ 7) | _ => false
def Sys2Proof.Machine.zeroOf (f : Elem) (zp x : Nat) : Bool :=
  match f with
  | .bf16 | .fp16 => decide (x % 2 ^ 15 = 0) | .fp32 => decide (x % 2 ^ 31 = 0) | .e4m3 | .e5m2 => decide (x % 2 ^ 7 = 0) | .e2m1 => decide (x % 2 ^ 3 = 0)
  | _ => decide (x = zp)
/-- An element made from a value. -/
def Sys2Proof.Machine.AddsValue (r : XRes Segment) (g : Segment) (f : Elem) (zp : Nat) (v : Val) (c : Coded) (masked : Bool) : Prop :=
  Adds r g (f.bits / 4) c.code c.clamped (!v.isNan && !v.isZero && zeroOf f zp c.code) (nanOf f c.code) masked
/-- R72-R76, R84, R315-R318: the destination element (i0, i1, i2) of each transform opcode, from the source elements and scales that it reads. COPY, TRANS
of an unscaled type, PACK, UNPACK and GATHER move bits; CAST, DEQUANT, QUANT, MXIN and MXOUT convert the exact source value, divided by the chosen
scale where one is chosen; SCATADD adds with one rounding to nearest even. The delta and the MX scale of a new square or block come from its largest magnitude.
The model's readings: every element of a square of delta 15 is code 0, or the zero point (log 96); the zero points of QUANT are those that stand in the
array, and an infinite amax clamps (log 29); COPY counts NaNs, and FTZS flushed sources too (log 30). -/
def Sys2Proof.Rules.TransformElements : Prop := ∀ (s : State) (t : Stream) (src dst : Layout) (j i0 i1 i2 row code : Nat) (x : Bool) (g : Segment),
  let c := contractOf t.contract
  let r := s.xElem t src dst j i0 i1 i2 row g
  let mode : RMode := if t.k ≠ 0 then s.xMode t j else .ne
  let se : Int := (dst.se : Int) - 127
  (∀ a n, (t.op, a, n) ∈ [(0, src.nibAddr i0 i1 i2, src.nibs), (5, src.nibAddr i0 i1 i2, 1), (6, src.nibAddr i0 i1 i2, 1), (7, src.nibAddr i0 row i2, src.nibs)] →
    s.xNum t src.base a n = .ok (code, x) → code < 2 ^ (4 * n) → n ≤ dst.nibs → Adds r g dst.nibs code false false (nanOf dst.elem code) x) ∧
  (t.op = 4 → dst.elem.hasDelta = false → s.xNum t src.base (src.nibAddr i1 i0 i2) src.nibs = .ok (code, x) → code < 2 ^ (4 * src.nibs) →
    Adds r g dst.nibs code false false (nanOf dst.elem code) x) ∧
  (t.op = 1 → ∀ f, src.elem.fmt = some f → s.xNum t src.base (src.nibAddr i0 i1 i2) src.nibs = .ok (code, x) →
    AddsValue r g dst.elem 0 (decode f code) (elemCode c false dst.elem 0 mode (src.operand c (decode f code))) x) ∧
  (src.scl = 0 → s.xNum t src.base (src.nibAddr i0 i1 i2) src.nibs = .ok (code, x) →
    (src.elem = .nq4 → ∀ a b y z, s.xNum t src.sbase (2 * (src.sbase + src.sub i0 i1 i2)) 2 = .ok (a, y) →
      s.xNum t src.sbase (2 * (src.part2 + 4 * src.square i0 i1 i2)) 8 = .ok (b, z) →
      s.sourceValue t src true i0 i1 i2 = .ok (exactOf (elemValue .nq4 code { sub := a, super := wN b }).1 255, x || y || z)) ∧
    ∀ d y, s.xNum t src.sbase (2 * src.sbase + src.square i0 i1 i2) 1 = .ok (d, y) →
    (src.elem ∈ [Elem.e4m3, .e5m2, .e2m1] → s.sourceValue t src true i0 i1 i2 = .ok ((elemValue src.elem code { e := src.se, delta := d }).1, x || y)) ∧
    (src.elem.hasZero = true → ∀ z w, s.xNum t src.sbase (2 * src.part2 + src.square i0 i1 i2 * src.nibs) src.nibs = .ok (z, w) →
      s.sourceValue t src true i0 i1 i2 = .ok ((elemValue src.elem code { e := src.se, delta := d, zero := z }).1, x || y || w))) ∧
  (∀ (v : Val), s.sourceValue t src true i0 i1 i2 = .ok (v, x) →
    (t.op = 3 → AddsValue r g dst.elem 0 v (elemCode c false dst.elem 0 .ne (src.operand c v)) x) ∧
    (t.op = 2 ∨ t.op = 9 → ∀ d z y rest, g.chosen = (dst.square i0 i1 i2, d) :: rest →
      (if dst.elem.hasZero then s.xNum t dst.sbase (dst.zeroAt (dst.square i0 i1 i2)) dst.nibs = .ok (z, y) else z = 0 ∧ y = false) →
      AddsValue r g dst.elem z v (if d = 15 then { code := z } else elemCode c false dst.elem z mode ((src.operand c v).scale (-(se + d)))) (x || y)) ∧
    (t.op = 10 → ∀ e rest, g.chosen = (dst.block i0 i1 i2, e) :: rest →
      AddsValue r g dst.elem 0 v (elemCode c false dst.elem 0 .ne (if e = 255 then .nan else (src.operand c v).scale (127 - e))) x)) ∧
  (t.op = 8 → ∀ f old y, dst.elem.fmt = some f → src.elem = dst.elem → dst.elem ∈ [Elem.bf16, .fp16, .fp32] →
    s.xNum t src.base (src.nibAddr i0 i1 i2) src.nibs = .ok (code, x) → s.xNum t dst.base (dst.nibAddr i0 row i2) dst.nibs = .ok (old, y) →
    let o := fadd c f (decode f old) (decode f code)
    ∃ ftz, Adds r g dst.nibs (encode f o.v) (o.ovf && c.saturate) ftz (nanOf dst.elem (encode f o.v)) (x || y)) ∧
  (∀ (f : Elem) (m : Nat) (e : Int), m ≠ 0 → let top : Int := Nat.log2 m + e - f.emax
    chooseDelta f dst.se (.fin false m e) = (if top - se < 0 then (0, false) else if 14 < top - se then (14, true) else ((top - se).toNat, false)) ∧
    (∀ vs, vs.any Val.isNan = false → amaxOf vs = .fin false m e →
      chooseMx f vs = (if top + 127 < 0 then (0, false) else if 254 < top + 127 then (254, true) else ((top + 127).toNat, false))) ∧
    chooseDelta f dst.se (.fin false 0 e) = (15, false) ∧ ∀ vs, vs.any Val.isNan = true → chooseMx f vs = (255, false))

/-- The events of the opcodes, in order of their codes. -/
def Sys2Proof.Machine.xformEvents : List Instr :=
  [.xformCopy, .xformCast, .xformQuant, .xformDequant, .xformTrans, .xformPack, .xformUnpack, .xformGather, .xformScatadd, .xformMxin, .xformMxout]
/-- R315, R316, R318, R319: a turn of a stream that has its active place and its records, out of debug mode: the elements from its position to the end of the row, or to
the next 2 KiB of destination, are converted; the scales chosen for them and then their nibbles are written, a COPY's scale bytes after its last
element, and the counts are added to the job control block; the position advances. When that was the last element, the event of the stream's
opcode makes the same turn. Where a turn ends, and that a COPY's scale bytes move in its last one, are the model's readings (log 28). -/
def Sys2Proof.Rules.TransformTurns : Prop := ∀ (s : State) (k : Nat) (st : Stream) (src dst : Layout) (g : Segment) (row crossed : Nat) (u1 u2 u3 u4 : State) (b1 b2 b3 b4 b5 : Bool)
    (i : Instr), s.subject.k = k → s.streams[k]? = some st → xformEvents[st.op]? = some i → st.active = true → st.penned = false → st.finished = false → st.fault = none →
  st.need = 0 → st.started = true → st.layouts = some (src, dst) → transformCheck st src dst = 0 → st.contract ≠ 0 → s.streamDebug st = false →
  let w := if st.op = 8 then src else dst
  let total := w.ext0 * w.ext1 * w.ext2
  let i0 := st.pos % w.ext0
  let i1 := st.pos / w.ext0 % w.ext1
  let i2 := st.pos / w.ext0 / w.ext1
  let at_ := dst.nibAddr i0 (if st.op = 8 then row else i1) i2
  let n := max 1 (min (w.ext0 - i0) ((4096 - at_ % 4096) / dst.nibs))
  st.pos < total → (if st.op = 7 ∨ st.op = 8 then s.rowIndex st i1 = .ok (row, b5) ∧ row < (if st.op = 7 then src.ext1 else dst.ext1) else row = i1 ∧ b5 = false) →
  s.xElems st src dst i1 i2 row st.pos i0 n { chosen := st.chosen } = (g, .ok ()) → s.writeScales st dst.sbase g.scales = .ok (u1, b1) → u1.xWrite st dst.base at_ g.nibs = .ok (u2, b2) →
  (if st.op = 0 ∧ st.pos + n = total then u2.copyScales st src dst = .ok (u3, b3) else u3 = u2 ∧ b3 = false) →
  u3.addCounts st g.counts = .ok (u4, crossed, b4) → crossed ||| st.flags = st.flags →
  let ended (v : State) : State := v.modStream k fun _ => { st with
    turnAt := s.cycle
    pos := st.pos + n, chosen := g.chosen, flags := st.flags ||| crossed, finished := decide (total ≤ st.pos + n)
    masked := st.masked || b5 || g.masked || b1 || b2 || b3 || b4 }
  ∃ v, Beside u4 v ∧ Sys2Proof.Machine.exec .transformTurn s = .next (ended v) ∧ (total ≤ st.pos + n → Sys2Proof.Machine.exec i s = .next (ended v))

/-- R262, R265, R303, R318, R319: a stream that is done writes STATUS, reports its bytes or its error to its barrier object, and leaves; a stream that waits for
chunks resumes once CHKAVAIL holds enough; a reclaimed chain's one chunk joins the free list; a logical clock ticks. When a chain is reclaimed and how a
clock is kept are the model's readings (logs 45, 46), as is that a completion has the writes to the job control block enter the single order (log 79). -/
def Sys2Proof.Rules.TransformsEnd : Prop :=
  (∀ (s : State) (k f m : Nat) (st : Stream) (src dst : Layout) (u : State) (b : Bool), s.subject.k = k → s.streams[k]? = some st → st.layouts = some (src, dst) →
    st.fault = none → st.need = 0 → st.wg = some (f, m) → st.task = none → st.noStatus = false → s.streamDebug st = false →
    (st.finished = false → Sys2Proof.Machine.exec .transformComplete s = .next s) ∧
    (st.finished = true →
      ∀ lf, s.translate st.p (st.jcb + 52) .write = .leaf lf →
      let masked := st.masked || (decide (lf.stamp ≠ 0 ∧ lf.stamp ≠ st.contract) && !st.stampMask)
      let status := st.error + 2 ^ 8 + (if st.error ≠ 0 then 2 ^ 9 else 0) + st.flags * 2 ^ 10 + (if masked then 2 ^ 13 else 0)
      s.xWriteBytes { st with masked := masked } 2 (st.jcb + 52) (leBytes 4 status) = .ok (u, b) → (∀ fl, s.flock? f = some fl → fl.status = .resident) →
      let bytes := (dst.ext0 * dst.nibs + 1) / 2 * dst.ext1 * dst.ext2
      let u := u.enterBytes st.p st.jcb 64
      let t := { u with streams := u.streams.eraseIdx k }
      Sys2Proof.Machine.exec .transformComplete s = .next
        (match st.bar with | some off => { u.barrierArrive f m off bytes st.error masked st.u st.lane st.pc st.writeOp with streams := u.streams.eraseIdx k } | none => t))) ∧
  (∀ (s : State) (k : Nat) (st : Stream), s.subject.k = k → s.streams[k]? = some st → 0 < st.need →
    Sys2Proof.Machine.exec .poolemptyResume s = .next
      (if st.need ≤ (s.part st.p).mem.avail then s.modStream k fun t => { t with need := 0, penned := false } else s)) ∧
  (∀ (s : State) (p c last since : Nat), s.subject.p = p → s.reclaims = [⟨p, [c], last, since⟩] → (s.part p).mem.avail = 0 →
    let passed := ∀ q, q < 8 * s.device.clusters → last < assocGet 0 s.clocks q + s.cycle / 32
    (¬passed → Sys2Proof.Machine.exec .packedChainReclaim s = .next s) ∧
    (passed → Sys2Proof.Machine.exec .packedChainReclaim s = .next
      ({ s with reclaims := [] }.modPart p fun q => { q with mem := { q.mem with avail := 1, tail := c, head := c } }))) ∧
  ∀ (s : State) (k : Nat), s.subject.k = k → Yields .logicalClockAdvance s fun t => t.clocks = assocSet 0 k (assocGet 0 s.clocks k + 1) s.clocks ∧
    t = { s with clocks := t.clocks }

/-! ## Bulk queues -/

/-- A packet without a reserved bit and with an OP of the table (R312). -/
def Sys2Proof.Machine.packetLegal (n : Nat → Nat → Nat) : Prop :=
  n 0 1 = 1 ∧ 1 ≤ n 1 1 ∧ n 1 1 ≤ 4 ∧ n 2 2 ≤ 1 ∧ n 4 2 / 2 ^ 12 % 4 = 0 ∧ n 6 2 = 0 ∧ n 56 2 < 1024 ∧ n 58 6 = 0
/-- A queue that has completed a packet: READ and the count have advanced, TL stands at least at COUNTBASE plus the count, the packet has
interrupted if it does, and a queue whose EN was cleared is closed (R309, R311, R312). -/
def Sys2Proof.Machine.State.counted (s : State) (p q : Nat) (b : BulkQueue) (irq : Bool) : State :=
  let t := s.modQueue p q fun b =>
    { b with read := b.read + 1, done := b.done + 1, begun := false, moved := 0, ending := 0, irq := false, halts := false }
  let t := if b.tl = 0 then t else (t.enterOps p (· == .bulk q b.read)).raise p b.tl (BitVec.ofNat 64 (b.countbase + b.done + 1))
  let t := if irq then t.modPart p fun u => { u with bulkIrq := u.bulkIrq + 1 } else t
  if b.closing then t.modPart p fun u => { u with eng := { u.eng with bulk := u.eng.bulk.set q none, bqdesc := u.eng.bqdesc.modify q fun x => x &&& ~~~1 } } else t
/-- The bytes of one region stand at the other's, moved in ascending runs, each within a row and a block of 2 KiB of either and, where the destination
follows its source, before the first byte that the move itself writes (a reading: log 84); every read and write of the runs passes. -/
def Sys2Proof.Machine.Moves (s : State) (by_ : Writer) (p : Nat) (a b : Region) (t : State) : Prop :=
  ∃ (m : Nat) (u : Nat → State) (pos : Nat → Nat), u 0 = s ∧ pos 0 = 0 ∧ u m = t ∧ pos m = a.rows * a.rowbytes ∧
    ∀ j, j < m → pos j < a.rows * a.rowbytes ∧ pos (j + 1) = pos j + moveRun a b (pos j) ∧
      ∃ bs, (u j).spaceRead p a.target a.peer (a.byteAt (pos j)) (moveRun a b (pos j)) = .ok bs ∧
        ((u j).spaceServed p a.target (a.byteAt (pos j)) (moveRun a b (pos j))).spaceWrite by_ p b.target b.peer (b.byteAt (pos j)) bs = (u (j + 1), .ok ())
/-- The rows of a packet from an address, with a pitch. -/
def Sys2Proof.Machine.packetRows (base rowbytes rows pitch : Nat) : Region :=
  { kind := 2, mode := 3, buf := 0, offset := 0, rowbytes := rowbytes, rows := rows, pitch := pitch, inplace := false, handle := 0, base := base, target := 0, peer := 0 }
/-- Word 0 of a queue's slot set to 0, and READ advanced in its descriptor. -/
def Sys2Proof.Machine.PacketDone (s : State) (p q : Nat) (b : BulkQueue) (t : State) : Prop :=
  ∃ u x y, s.writeVa p none (b.ring + 64 * (b.read.toNat % 2 ^ b.log2)) (List.replicate 4 0) (b.writer p q) = (u, .ok x) ∧
    u.writeVa p none (b.desc + 24) (leBytes 4 (b.read + 1).toNat) (b.writer p q) = (t, .ok y)

/-- R310-R313: the packet at READ of a bound queue. COPY and FILL start when the buffers they name are FREE or FULL as they need, move their rows, leave
the buffers FULL or FREE; SIGNAL raises its counter, WAIT holds the queue until its counter has the value; each then completes, with an interrupt if it
asks for one; an illegal packet completes without effect and stops the queue with an interrupt. The model's readings: a packet's writes enter the single
order before its queue's counter is raised (log 79); a SIGNAL of counter 0 raises nothing (log 104); a FILL whose ROWBYTES is no multiple of 4 cuts its
pattern at the row's end (log 103); a clear of EN that waits takes effect when an error stops the queue (log 93). -/
def Sys2Proof.Rules.BulkPackets : Prop := ∀ (s : State) (p q : Nat) (b : BulkQueue) (bs : List Byte) (x : Bool), s.subject.p = p → s.subject.k = q →
  s.queue? p q = some b → b.bound = true → b.stopped = false → b.fault = none → b.ending = 0 →
  s.readVa p none (b.ring + 64 * (b.read.toNat % 2 ^ b.log2)) 64 = .ok (bs, x) →
  let n (off k : Nat) : Nat := field bs off k
  let w := s.served p (b.ring + 64 * (b.read.toNat % 2 ^ b.log2)) 64
  let ends (v : State) : State := v.counted p q b (n 2 2 % 2 == 1)
  let ctr := n 56 2
  (n 0 1 ≠ 0 → ¬packetLegal n → ∀ v, PacketDone w p q b v → Sys2Proof.Machine.exec .bulkQueueError s =
    .next (if b.closing then v.counted p q b true else (v.counted p q b true).modQueue p q fun b => { b with stopped := true })) ∧
  (n 0 1 = 0 → ∀ i ∈ [Instr.bulkCopy, .bulkFill, .bulkSignal, .bulkWait, .bulkQueueError], Sys2Proof.Machine.exec i s = .next s) ∧
  (packetLegal n →
    (n 1 1 = 3 → ∀ v, PacketDone (if ctr = 0 then w else w.raise p ctr (BitVec.ofNat 64 (n 48 8))) p q b v →
      Sys2Proof.Machine.exec .bulkSignal s = .next (ends v)) ∧
    (n 1 1 = 4 → n 48 8 ≤ ((s.part p).counter ctr).toNat → ∀ v, PacketDone w p q b v → Sys2Proof.Machine.exec .bulkWait s = .next (ends v)) ∧
    (n 1 1 = 4 → ((s.part p).counter ctr).toNat < n 48 8 → Sys2Proof.Machine.exec .bulkWait s = .next (w.modQueue p q fun b => { b with begun := true })) ∧
    (n 1 1 ≤ 2 → b.begun = false → 0 < n 24 4 → 0 < n 28 4 →
      let i : Instr := if n 1 1 = 1 then .bulkCopy else .bulkFill
      let h := n 4 2 % 2 ^ 12
      let fills := (n 4 2).testBit 15
      let drains := (n 4 2).testBit 14 && n 1 1 == 1
      let st := (s.part p).buffer h
      (fills = true ∧ st ≠ 0 ∨ drains = true ∧ st ≠ 2 → Sys2Proof.Machine.exec i s = .next w) ∧
      ((fills = true → st = 0) → (drains = true → st = 2) → ∀ (u v : State),
        let begun := w.modQueue p q fun b => { b with begun := true, moved := 0 }
        let first := if fills then begun.setBuffer p h 1 else if drains then begun.setBuffer p h 3 else begun
        (if n 1 1 = 1 then Moves first (b.writer p q) p (packetRows (n 16 8) (n 24 4) (n 28 4) (n 32 8)) (packetRows (n 8 8) (n 24 4) (n 28 4) (n 40 8)) u
         else ∃ r : Nat → State, r 0 = first ∧ r (n 28 4) = u ∧ ∀ k, k < n 28 4 →
           ∃ y, (r k).writeVa p none (n 8 8 + k * n 40 8) ((List.range (n 24 4)).map fun j => bs.getD (48 + j % 4) 0) (b.writer p q) = (r (k + 1), .ok y)) →
        let full := if fills then u.fillBuffer p h (.bulk q b.read) else u
        PacketDone (if drains then full.setBuffer p h 0 else full) p q b v → Sys2Proof.Machine.exec i s = .next (ends v))))

/-- R309, R310: a write of BQDESCq. EN set on a queue that is not served, or that an error has stopped, reads the descriptor, writes COUNTBASE and binds the
queue; EN set again is ignored while the queue runs (but takes back a clear that waits for the packet in progress: log 93); EN cleared closes the
queue, or, while a packet is in progress, once that completes. The model's readings (log 43): LOG2 clamped to 4 to 16, TL's bits above 9 ignored, and a
stopped queue bound again at the DESC that it has. -/
def Sys2Proof.Rules.BulkQueueBinding : Prop := ∀ (s : State) (p q : Nat) (x : DWord), s.subject.p = p → s.subject.k = q → s.subject.x = x → p < s.partitions.length → q < 16 →
  (s.part p).eng.bqdesc.length = 16 → (s.part p).eng.bulk.length = 16 →
  let old := (s.part p).eng.bqdesc.getD q 0
  let new := if old.getLsbD 0 then old else x &&& 0x00FFFFFFFFFFFFC1
  let desc := new.toNat / 64 % 2 ^ 50 * 64
  (x.getLsbD 0 = true → (old.getLsbD 0 = false ∨ ∃ b, s.queue? p q = some b ∧ b.stopped = true) → ∀ bs y u z, s.readVa p none desc 64 = .ok (bs, y) →
    let tl := field bs 18 2 % 1024
    (s.served p desc 64).writeVa p none (desc + 8) (leBytes 8 ((s.part p).counter tl).toNat) = (u, .ok z) →
    Sys2Proof.Machine.exec .bqdescEnable s = .next (u.modPart p fun w => { w with eng := { w.eng with
      bqdesc := w.eng.bqdesc.set q new
      bulk := w.eng.bulk.set q (some {
        desc := desc, bound := true, ring := field bs 0 8, log2 := max 4 (min 16 (field bs 17 1)), tl := tl, countbase := ((s.part p).counter tl).toNat
        read := wN (field bs 24 4), done := 0, begun := false, moved := 0, stopped := false, closing := false, fault := none }) } })) ∧
  (x.getLsbD 0 = true → old.getLsbD 0 = true → ∀ b, s.queue? p q = some b → b.stopped = false →
    Sys2Proof.Machine.exec .bqdescEnable s = .next (if b.closing then s.modQueue p q fun b => { b with closing := false } else s)) ∧
  (x.getLsbD 0 = false → old.getLsbD 0 = true → ∀ b, s.queue? p q = some b →
    Sys2Proof.Machine.exec .bqdescDisable s = .next
      (if b.begun ∧ ¬b.stopped then s.modQueue p q fun b => { b with closing := true }
       else s.modPart p fun w => { w with eng := { w.eng with bulk := w.eng.bulk.set q none, bqdesc := w.eng.bqdesc.set q (old &&& ~~~1) } })) ∧
  (x.getLsbD 0 = false → old.getLsbD 0 = false →
    Sys2Proof.Machine.exec .bqdescDisable s = .next (s.modPart p fun w => { w with eng := { w.eng with bqdesc := w.eng.bqdesc.set q (x &&& 0x00FFFFFFFFFFFFC0) } }))

/-! ## The task window -/

/-- The event that decodes a record, by its OP and FLAGS (R186, R386). -/
def Sys2Proof.Machine.recordEvent (op flags : Nat) : Instr :=
  if op = 7 then [Instr.collRun, .collCreate, .collDestroy].getD (flags % 4) .illegalRecord
  else [Instr.illegalRecord, .taskRun, .taskPool, .taskCopy, .taskXform, .taskOffload, .taskRecall, .illegalRecord, .taskWait, .taskSignal, .taskAlloc, .taskFree
        , .taskFence, .taskRepeat, .taskEndrep, .taskMark].getD op .illegalRecord
/-- A header without a field outside its range (R185, R186, R189, R192, R198, R201, R202, R321, R386). -/
def Sys2Proof.Machine.headerLegal (op flags tlc arg ptr seq : Nat) : Prop :=
  let aligned (n : Nat) : Prop := ptr < 2 ^ 56 ∧ ptr % n = 0
  (if 3 ≤ op ∧ op ≤ 7 then tlc < 1024 else tlc = 0) ∧
  match op with
  | 1 => flags ≤ 1 ∧ arg = 0 ∧ aligned 64
  | 2 => flags ≤ 1 ∧ aligned 64
  | 3 => flags = 0 ∧ arg = 0 ∧ ptr = 0
  | 4 => flags < 64 ∧ flags % 32 ≤ 24 ∧ arg / 2 ^ 24 % 16 ≤ 10 ∧ aligned 64
  | 5 | 6 => flags = 0 ∧ arg < 4096 ∧ ptr = 0
  | 7 => if flags % 4 = 0 then flags < 8 ∧ arg < 2 ^ 23 ∧ aligned 32 else flags < 3 ∧ arg < 64 ∧ ptr = 0
  | 8 => flags = 0 ∧ arg < 1024 ∧ (arg = 0 → ptr < seq)
  | 9 => flags ≤ 1 ∧ 0 < arg ∧ arg < 1024
  | 10 => flags ≤ 1 ∧ arg < 256 ∧ 0 < ptr ∧ ptr ≤ 2 ^ 32
  | 11 => flags = 0 ∧ arg < 256 ∧ ptr = 0
  | 12 | 14 => flags = 0 ∧ arg = 0 ∧ ptr = 0
  | 13 => flags = 0 ∧ ptr = 0
  | 15 => flags = 0 ∧ aligned 16
  | _ => False
/-- The decoder of a partition may take a record, which reads as bs (R181, R193, R202, R204). -/
structure Sys2Proof.Machine.Decodes (s : State) (p : Nat) (bs : List Byte) : Prop where
  here : p < s.partitions.length
  enabled : (s.part p).sq.enable = true
  sound : (s.part p).sq.faulted = false
  ahead : 0 < ((s.part p).sq.write - (s.part p).sq.read).toInt
  window : ∀ t ∈ (s.part p).window, t.isFaulted = false
  reads : ∃ x, s.readVa p none ((s.part p).sq.base.toNat + 128 * ((s.part p).sq.read.toNat % 2 ^ (s.part p).sq.log2)) 128 = .ok (bs, x)
/-- The fields OP, FLAGS, TLC, ARG and PTR of a record (R185). -/
def Sys2Proof.Machine.recordHead (bs : List Byte) : List Nat := [field bs 0 1, field bs 1 1, field bs 2 2, field bs 4 4, field bs 8 8]
/-- A task has taken the last window entry with the next sequence number, and nothing but its partition and what stands around the bytes of memory has changed (R193). -/
def Sys2Proof.Machine.Enters (s t : State) (p : Nat) (bs : List Byte) (status : TaskStatus) (P : Task → Partition → Prop) : Prop :=
  ∃ k, (t.part p).window = (s.part p).window ++ [k] ∧ (t.part p).nextSeq = (s.part p).nextSeq + 1 ∧ (t.part p).sq.read = (s.part p).sq.read + 1 ∧
    k.seq = (s.part p).nextSeq ∧ k.index = (s.part p).sq.read.toNat ∧ [k.op, k.flags, k.tlc, k.arg, k.ptr] = recordHead bs ∧ k.status = status ∧
    k.placed = 0 ∧ k.moved = 0 ∧ k.ended = none ∧ (∃ v, Beside s v ∧ t = v.modPart p fun _ => t.part p) ∧ P k (t.part p)

/-- R183, R185, R186, R202, R407, R408: a record that the decoder may take: with the window at its quota it stalls, which STALLFULL shows; in the body of a
REPEAT of 0 it is passed over, record by record (a reading: log 39); a header field outside its range or an OP that is not listed faults with BADOP, and one that no page maps with MEMFAULT. -/
def Sys2Proof.Rules.RecordsRefused : Prop := ∀ (s : State) (p : Nat) (bs : List Byte), s.subject.p = p →
  let q := s.part p
  let op := field bs 0 1
  let i := recordEvent op (field bs 1 1)
  let legal := headerLegal op (field bs 1 1) (field bs 2 2) (field bs 4 4) (field bs 8 8) q.nextSeq
  let full := q.sq.quota ≤ q.window.length
  let w := s.served p (q.sq.base.toNat + 128 * (q.sq.read.toNat % 2 ^ q.sq.log2)) 128
  (Decodes s p bs →
    (0 < q.skipping → Sys2Proof.Machine.exec i s = .next (w.modPart p fun q => { q with
      skipping := if op = 13 then q.skipping + 1 else if op = 14 then q.skipping - 1 else q.skipping
      sq := { q.sq with read := q.sq.read + 1 } })) ∧
    (q.skipping = 0 → full → Sys2Proof.Machine.exec i s = .next s ∧ (s.part p).stallsFull = true) ∧
    (q.skipping = 0 → ¬full → ¬legal → Yields i s fun t => Enters s t p bs (.faulted 0x01 0) fun k u => k.regions = [] ∧ u.buffers = q.buffers ∧ u.free = q.free) ∧
    ∀ j flags, recordEvent j flags ≠ i → Sys2Proof.Machine.exec (recordEvent j flags) s = .next s) ∧
  (q.sq.enable = true → q.sq.faulted = false → 0 < (q.sq.write - q.sq.read).toInt → (∀ t ∈ q.window, t.isFaulted = false) → q.window.length < q.sq.quota →
    p < s.partitions.length → ∀ va, s.readVa p none (q.sq.base.toNat + 128 * (q.sq.read.toNat % 2 ^ q.sq.log2)) 128 = .absent va →
    Yields .illegalRecord s fun t => Enters s t p (List.replicate 128 0) (.faulted 0x0B 0) fun k u => k.regions = [] ∧ u.buffers = q.buffers)

/-- R194, R197, R198, R201, R202, R354: the records without slots. WAIT, SIGNAL, FENCE and MARK enter the window, MARK with a new epoch; ALLOC binds its logical
buffer to the first free handle of its class, and stalls without one, which STALLFREE shows; FREE unbinds it, and faults with UNBOUND if it is not bound; REPEAT opens a body and ENDREP goes back to it while
passes are left; a fifth nested REPEAT (one of 0 passes too: log 83), and an ENDREP without one, fault with REPNEST. -/
def Sys2Proof.Rules.RecordsWithoutSlots : Prop := ∀ (s : State) (p : Nat) (bs : List Byte), s.subject.p = p → Decodes s p bs →
  let q := s.part p
  let op := field bs 0 1
  let arg := field bs 4 4
  let i := recordEvent op (field bs 1 1)
  headerLegal op (field bs 1 1) (field bs 2 2) arg (field bs 8 8) q.nextSeq → (∀ k, k < 96 → bs.getD (16 + k) 0 = 0) →
  q.skipping = 0 → q.window.length < q.sq.quota →
  (op ∈ [8, 9, 12, 15] → Yields i s fun t => Enters s t p bs .decoded fun k u => k.news = [] ∧ k.superseded = [] ∧ (∀ r ∈ k.regions, r = none) ∧
    u.epoch = (if op = 15 then wN arg else q.epoch) ∧ u.buffers = q.buffers ∧ u.free = q.free ∧ u.repeats = q.repeats) ∧
  (op = 10 → ∀ h rest, 0 < q.totals.getD (classOf (field bs 8 8)) 0 → q.free[classOf (field bs 8 8)]? = some (h :: rest) → arg < q.buffers.length →
    Yields i s fun t => Enters s t p bs .decoded fun k u =>
      k.news = [{ buf := arg, handle := h, size := field bs 8 8, prev := (q.buffers.getD arg none).map Binding.handle, copy := false, zero := field bs 1 1 == 1 }] ∧
      k.superseded = ((q.buffers.getD arg none).map Binding.handle).toList ∧
      u.buffers = q.buffers.set arg (some ⟨field bs 8 8, h⟩) ∧ u.free = q.free.set (classOf (field bs 8 8)) rest) ∧
  (op = 10 → 0 < q.totals.getD (classOf (field bs 8 8)) 0 → q.free[classOf (field bs 8 8)]? = some [] →
    Yields i s fun t => Beside s t ∧ s.stallsFree p = true) ∧
  (op = 11 → (∀ b, q.buffers.getD arg none = some b → Yields i s fun t => Enters s t p bs .decoded fun k u => k.superseded = [b.handle] ∧
      u.buffers = q.buffers.set arg none ∧ u.free = q.free) ∧
    (q.buffers.getD arg none = none → Yields i s fun t => Enters s t p bs (.faulted 0x03 0) fun _ u => u.buffers = q.buffers)) ∧
  (op = 13 → (4 ≤ q.repeats.length → Yields i s fun t => Enters s t p bs (.faulted 0x08 0) fun _ u => u.repeats = q.repeats) ∧
    (q.repeats.length < 4 → ∃ v, Beside s v ∧ Sys2Proof.Machine.exec i s = .next (v.modPart p fun q =>
      { q with
        skipping := if arg = 0 then 1 else 0
        repeats := if arg = 0 then q.repeats else q.repeats ++ [(q.sq.read, arg - 1)]
        sq := { q.sq with read := q.sq.read + 1 } }))) ∧
  (op = 14 → (q.repeats = [] → Yields i s fun t => Enters s t p bs (.faulted 0x08 0) fun _ _ => True) ∧
    ∀ outer start left, q.repeats = outer ++ [(start, left)] → ∃ v, Beside s v ∧ Sys2Proof.Machine.exec i s = .next (v.modPart p fun q =>
      { q with
        repeats := if left = 0 then outer else outer ++ [(start, left - 1)]
        sq := { q.sq with read := if left = 0 then q.sq.read + 1 else start + 1 } }))

/-- The regions of a record as the decoder binds them (R194-R196): a fixed slot as its space entry gives it; a logical slot at the version its buffer had, or,
for a write that renames it, at the new handle. -/
def Sys2Proof.Machine.boundAt (q : Partition) (new : Option (Nat × Nat)) (x : Option Region) : Option Region :=
  x.map fun r =>
    if r.kind = 2 then r
    else
      let old := ((q.buffers.getD r.buf none).map Binding.handle).getD 0
      let h := match new with | some (buf, h) => if buf = r.buf ∧ r.writes ∧ ¬r.inplace then h else old | none => old
      { r with handle := h, base := ((q.config.map PartConfig.hvbase).getD 0) + h / 8 }
/-- The slots that R321, R322 and R386 ask of an engine task or a COLL, by its OP and FLAGS; size is what a slot's buffer holds. -/
def Sys2Proof.Machine.slotsFit (op flags arg : Nat) (size : Region → Nat) (rs : List (Option Region)) : Prop :=
  let slot (k : Nat) (P : Region → Prop) : Prop := ∃ r, rs[k]? = some (some r) ∧ P r
  let rest (n : Nat) : Prop := ∀ r ∈ rs.drop n, r = none
  let sameBytes : Prop := ∀ a b, rs[0]? = some (some a) → rs[1]? = some (some b) → a.rows * a.rowbytes = b.rows * b.rowbytes
  match op with
  | 3 => slot 0 (·.mode = 1) ∧ slot 1 (·.mode ≠ 1) ∧ rest 2 ∧ sameBytes
  | 4 => slot 0 (·.mode = 1) ∧ slot 1 (·.mode ≠ 1) ∧ (if arg / 2 ^ 24 % 16 = 7 ∨ arg / 2 ^ 24 % 16 = 8 then slot 2 (·.mode = 1) ∧ rest 3 else rest 2)
  | 5 => slot 0 (fun r => r.mode = 1 ∧ r.kind = 1 ∧ r.whole (size r) = true) ∧ slot 1 (fun r => r.mode = 2 ∧ r.kind = 2) ∧ rest 2 ∧ sameBytes
  | 6 => slot 0 (fun r => r.mode = 1 ∧ r.kind = 2) ∧ slot 1 (fun r => r.mode = 2 ∧ r.kind = 1 ∧ r.inplace = false ∧ r.whole (size r) = true) ∧ rest 2 ∧ sameBytes
  | 7 => if flags % 4 = 0 then ∀ r, some r ∈ rs → r.kind = 1 ∨ r.target = 0
         else if flags % 4 = 1 then slot 0 (fun r => r.mode = 3 ∧ (r.kind = 1 ∨ r.target = 0) ∧ 68 ≤ (r.rows - 1) * r.pitch + r.rowbytes ∧
           (if r.kind = 1 then r.offset else r.base + r.offset) % 64 = 0) ∧ rest 1
         else rest 0
  | _ => True
/-- R189, R192, R194-R197, R321-R323, R386: RUN, POOL, COPY, XFORM, OFFLOAD, RECALL and COLL records whose header, slots and launch descriptor are legal enter
the window. Their slots are bound; one write that renames its buffer takes the first free handle of its class, to be copied from the old version
unless it covers the buffer, and supersedes that. RUN and POOL hold their launch, POOL opens its pool (from the decode on: log 36), OFFLOAD its recall
link; slots that do not fit fault with BADREGION, as does a RECALL whose two slots differ in bytes (log 102), or a CREATE's region that is not aligned to 64
or cannot hold a descriptor (log 65). -/
def Sys2Proof.Rules.RecordsWithSlots : Prop := ∀ (s : State) (p : Nat) (bs : List Byte) (rs : List (Option Region)) (j : Nat) (new : Option (Region × Binding × Nat × List Nat)),
  s.subject.p = p → Decodes s p bs →
  let q := s.part p
  let op := field bs 0 1
  let flags := field bs 1 1
  let arg := field bs 4 4
  let i := recordEvent op flags
  1 ≤ op → op ≤ 7 → headerLegal op flags (field bs 2 2) arg (field bs 8 8) q.nextSeq → q.skipping = 0 → q.window.length < q.sq.quota →
  q.pools = [] → q.links = [] → q.buffers.length = 256 → q.free.length = 5 →
  s.checkSlots p true ((List.range 6).map fun k => field bs (16 + 16 * k) 16) = .ok rs →
  let renewed (r : Region) : Prop := r.kind = 1 ∧ r.mode ≠ 1 ∧ r.inplace = false
  (match new with
    | none => ∀ r, some r ∈ rs → ¬renewed r
    | some (r, b, h, rest) => rs[j]? = some (some r) ∧ renewed r ∧ (∀ k r', rs[k]? = some (some r') → k ≠ j → ¬renewed r') ∧ r.buf < 256 ∧
        q.buffers.getD r.buf none = some b ∧ 0 < q.totals.getD (classOf b.size) 0 ∧ q.free[classOf b.size]? = some (h :: rest)) →
  let size (r : Region) : Nat := ((q.buffers.getD r.buf none).map Binding.size).getD 0
  let version (r : Region) (b : Binding) (h : Nat) : NewVersion :=
    { buf := r.buf, handle := h, size := b.size, prev := some b.handle, copy := !(r.mode == 2 && r.whole b.size), zero := false }
  let entered (t : State) (launch : Option Launch) : Prop := Enters s t p bs .decoded fun k u =>
    k.launch = launch ∧ k.regions = rs.map (boundAt q (new.map fun x => (x.1.buf, x.2.2.1))) ∧
    k.news = (new.map fun x => version x.1 x.2.1 x.2.2.1).toList ∧ k.superseded = (new.map fun x => x.2.1.handle).toList ∧
    u.buffers = (match new with | some (r, b, h, _) => q.buffers.set r.buf (some ⟨b.size, h⟩) | none => q.buffers) ∧
    u.free = (match new with | some (_, b, _, rest) => q.free.set (classOf b.size) rest | none => q.free)
  (op ≤ 2 → ∀ lb x l, s.readVa p none (field bs 8 8) 64 = .ok (lb, x) →
    parseLaunch lb (op == 2) (flags % 2 == 1) q.sched.debug (arg % 2 ^ 12) (q.sq.img.toNat + 4096 * (q.nextSeq % 1024)) = (l, none) →
    Yields i s fun t => entered t (some l) ∧ (t.part p).pools = (if op = 2 then [{ number := arg % 2 ^ 12, seq := q.nextSeq, records := [], formed := 0 }] else [])) ∧
  (3 ≤ op → slotsFit op flags arg size rs → (op = 4 → contractPresent (arg / 2 ^ 28) = true) →
    Yields i s fun t => entered t none ∧ (op ≠ 5 → (t.part p).links = []) ∧
      (op = 5 → ∀ a b, rs[0]? = some (some a) → rs[1]? = some (some b) → (t.part p).links =
        [{ entry := arg, handle := ((q.buffers.getD a.buf none).map Binding.handle).getD 0, size := a.rows * a.rowbytes, region := b, task := q.nextSeq }])) ∧
  (3 ≤ op → ¬slotsFit op flags arg size rs → Yields i s fun t => Enters s t p bs (.faulted 0x02 0) fun k u => k.regions = [] ∧ u.buffers = q.buffers ∧ u.free = q.free)

/-- A task completes, with its timeline counter raised to its sequence number (R306); the engines' writes for it enter the single order with that
(a reading: log 79). -/
def Sys2Proof.Machine.State.finishes (s : State) (p : Nat) (t : Task) (g : Task → Task) : State :=
  let u := s.modTask p t.seq fun k => { g k with status := .completed }
  (if t.tlc = 0 then u else u.raise p t.tlc (BitVec.ofNat 64 t.seq)).enterTask p t.seq
/-- R195, R198, R306, R322, R323, R324: what the copy engines do for an issued task. A copy-forward initialises a new version from the one before, once no older
writer of that is left; a zero-fill clears an ALLOC's version, and its task completes; COPY, OFFLOAD and RECALL move their bytes and complete,
OFFLOAD with its entry FREE; an XFORM task ends as its stream did. A translation fault holds the task under the next identifier. -/
def Sys2Proof.Rules.EngineTasks : Prop := ∀ (s : State) (p seq : Nat) (t : Task), s.subject.p = p → s.subject.k = seq → p < s.partitions.length →
  s.task? p seq = some t → (∀ o ∈ (s.part p).window, o.seq = seq → o = t) → t.fault = none →
  let q := s.part p
  let va (h : Nat) : Nat := ((q.config.map PartConfig.hvbase).getD 0) + h / 8
  let whole (h n : Nat) : Region := { packetRows (va h) n 1 0 with kind := 1, handle := h }
  let faulted (u : State) (a detail : Nat) : State := (u.raiseFault p { FaultRec.blank 5 (.task seq) with seq := seq, va := BitVec.ofNat 64 a, detail := detail }).modTask p seq
    fun k => { k with fault := some q.nextFid }
  (∀ (v : NewVersion) (h : Nat), t.status = .issued ∨ t.status = .decoded → t.news = [v] → v.copy = true → v.prev = some h → 0 < v.size →
    (∀ o ∈ q.window, o.seq < seq → o.done = false → ∀ r, some r ∈ o.regions → ¬(r.kind = 1 ∧ r.handle = h ∧ r.mode ≠ 1)) →
    (∀ u, Moves s (.task p seq) p (whole h v.size) (whole v.handle v.size) u →
      Sys2Proof.Machine.exec .copyForward s = .next ((u.enterTask p seq).modTask p seq fun k => { k with news := k.news.map fun w => if w.handle = v.handle then { w with copy := false } else w })) ∧
    (∀ a, let k := moveRun (whole h v.size) (whole v.handle v.size) 0
      s.readVa p none (va h) k = .absent a → Sys2Proof.Machine.exec .copyForward s = .next (faulted (s.served p (va h) k) a 1))) ∧
  (∀ (v : NewVersion), t.status = .issued → t.news = [v] → v.zero = true → ∀ u y, s.writeVa p none (va v.handle) (List.replicate v.size 0) (.task p seq) = (u, .ok y) →
    Sys2Proof.Machine.exec .allocZeroFill s = .next (u.finishes p t id)) ∧
  (∀ (a b : Region), t.status = .issued → t.op ∈ [3, 5, 6] → t.moved = 0 → t.regions[0]? = some (some a) → t.regions[1]? = some (some b) →
    0 < a.rows → 0 < a.rowbytes → 0 < b.rowbytes → a.rows * a.rowbytes = b.rows * b.rowbytes →
    let k := moveRun a b 0
    let from_ := a.base + a.offset
    let w := s.spaceServed p a.target from_ k
    (∀ u, Moves s (.task p seq) p a b u → Sys2Proof.Machine.exec .taskEngineStreamComplete s =
        .next ((if t.op = 5 then u.setBuffer p (t.arg % 4096) 0 else u).finishes p t fun k => { k with moved := a.rows * a.rowbytes })) ∧
    (∀ x, s.spaceRead p a.target a.peer from_ k = .absent x → Sys2Proof.Machine.exec .taskEngineStreamComplete s = .next (faulted w x 1)) ∧
    (∀ e, s.spaceRead p a.target a.peer from_ k = .err e → e ≠ 0 → e ≠ 4 →
      Sys2Proof.Machine.exec .taskEngineStreamComplete s = .next (w.modTask p seq fun k => { k with status := .faulted 0x0A e }))) ∧
  (t.status = .issued → t.op = 4 → ∀ e, t.ended = some e → Sys2Proof.Machine.exec .taskEngineStreamComplete s = .next
    (if e = 0 then s.finishes p t id else s.modTask p seq fun k => { k with status := if e = 4 then .faulted 0x0B 0 else .faulted 0x0A e }))

/-- R197, R201, R204: tasks retire from the oldest on while they have completed, at most four at a time: counter 0 is raised to the last one's number, and the
versions superseded return to their free lists; a task that has not completed stops them. A MARK writes its time, epoch and number as it retires. A fault of
the oldest task discards every task of the window: the decoder stands at its record with its bindings, REPEATs, epoch and number as they were before it (a
reading: log 38), and SQSTAT and the fault registers describe it. -/
def Sys2Proof.Rules.WindowRetires : Prop := ∀ (s : State) (p : Nat), s.subject.p = p → p < s.partitions.length →
  let q := s.part p
  (q.window = [] → Sys2Proof.Machine.exec .taskRetire s = .next s ∧ Sys2Proof.Machine.exec .taskFaultRecovery s = .next s) ∧
  (∀ t rest, q.window = t :: rest → t.status ≠ .completed → Sys2Proof.Machine.exec .taskRetire s = .next s) ∧
  (∀ gone rest, q.window = gone ++ rest → gone ≠ [] → gone.length ≤ 4 → (∀ t ∈ gone, t.status = .completed ∧ t.op ≠ 15) →
    (gone.length = 4 ∨ ∀ o, rest.head? = some o → o.status ≠ .completed) →
    Yields .taskRetire s fun u => (u.part p).window = rest ∧
      ((u.part p).counter 0).toNat = gone.foldl (fun n t => max n (BitVec.ofNat 64 t.seq).toNat) (q.counter 0).toNat ∧
      u.memoryPart = s.memoryPart ∧ (u.part p).buffers = q.buffers ∧ (u.part p).sq = q.sq ∧
      ∀ t ∈ gone, ∀ h, h ∈ t.superseded → q.leaving = [] → (∀ b, some b ∈ q.buffers → b.handle ≠ h) → (∀ o ∈ rest, o.binds h = false) →
        ∀ l, q.free[h % 8]? = some l → ∃ l', (u.part p).free[h % 8]? = some l' ∧ h ∈ l') ∧
  (∀ t rest u x, q.window = t :: rest → t.status = .completed → t.op = 15 → (∀ o, rest.head? = some o → o.status ≠ .completed) →
    s.writeVa p none t.ptr (leBytes 8 s.cycle ++ leBytes 4 t.arg ++ leBytes 4 (t.seq % 2 ^ 32)) (.task p t.seq) = (u, .ok x) →
    Yields .taskRetire s fun v => (v.part p).window = rest ∧ v.memoryPart = u.memoryPart) ∧
  (∀ t rest cause detail, q.window = t :: rest → t.status = .faulted cause detail → (∀ k f, s.flock? k = some f → f.p ≠ p) →
    Yields .taskFaultRecovery s fun u => let r := u.part p
      r.window = [] ∧ r.buffers = t.before ∧ r.repeats = t.repeats ∧ r.epoch = t.epoch ∧ r.skipping = t.skipping ∧ r.nextSeq = t.seq ∧
      r.sq.faulted = true ∧ r.sq.cause = cause ∧ r.sq.detail = detail ∧ r.sq.fseq = BitVec.ofNat 64 t.seq ∧ r.sq.fidx = wN t.index ∧ r.sq.read = wN t.index ∧
      u.memoryPart = s.memoryPart)

/-- R183, R184, R204, R349: the stream control block. ENABLE is taken once the partition's lists are complete, and held before; RESUME leaves the fault at the
record, or, to skip, after it, and is ignored without a fault; a write of SQWRITE past the ring is clamped to it and sets OVERRUN. -/
def Sys2Proof.Rules.StreamControl : Prop := ∀ (s : State) (p : Nat), s.subject.p = p → p < s.partitions.length →
  let q := s.part p
  let sets (f : StreamBlock → StreamBlock) (held : Bool) : State := s.modPart p fun q => { q with sq := f q.sq, enableHeld := held }
  Sys2Proof.Machine.exec .sqctlEnable s = .next
    (if s.subject.on = true ∧ q.started = false then sets id true else sets (fun b => { b with enable := s.subject.on }) false) ∧
  (∀ skip : Bool, Sys2Proof.Machine.exec (if skip then .sqctlResumeSkip else .sqctlResumeRetry) s = .next
    (if q.sq.faulted then sets (fun b => { b with faulted := false, cause := 0, detail := 0, read := if skip then b.read + 1 else b.read }) q.enableHeld else s)) ∧
  let x : Word := s.subject.x.setWidth 32
  let lowest : Word := match q.repeats with | (i, _) :: _ => i | [] => q.sq.read
  Sys2Proof.Machine.exec .sqwriteWrite s = .next
    (if (2 ^ q.sq.log2 : Int) < (x - lowest).toInt then sets (fun b => { b with write := lowest + wN (2 ^ b.log2), overrun := true }) q.enableHeld
     else sets (fun b => { b with write := x }) q.enableHeld)

/-! ## Control blocks and fault commands -/

/-- The writable registers of a VF's BAR0 without behaviour of their own: offset, the bits that a write sets, and whether it takes only while the partition is
idle (R182, R184, R217, R309, R360, R377). -/
def Sys2Proof.Machine.plainRegisters : List (Nat × DWord × Bool) :=
  [(0x0000, 0x00FFFFFFFFFFF000, true), (0x0058, 0xFFFFFFFFFFFFF000, true), (0x0060, 0x00FFFFFFFFC00000, true),
   (0x1000, 0x000FFFFFFFFFF7FF, false), (0x1020, 0x000FFFFFFFFFF000, false), (0x1028, 0x000FFFFFFFFFF000, false), (0x1030, 0xFFFFFFFF, false),
   (0x1040, 0xFFFFFFFF, false), (0x2000, 0x00FFFFFFFFFFF000, false), (0x2008, 0xFFF, false), (0x2018, 0x3FF, false), (0x3000, 0x00FFFFFFFFFFFFC0, false),
   (0x3078, 1, false), (0x3080, 0x00FFFFFFFFFFFFE0, false), (0x3088, 0x1F, false), (0x4008, 0xFFFFFFFFFFFFFFFF, false)] ++
  (List.range 8).map fun k => (0x3020 + 8 * k, 0xFFFFFFFF, false)
/-- R8, R182, R184, R217, R309, R360, R376-R378: REGISTER_WRITE. A plain register reads back the bits written, its reserved bits 0, and every other register
and partition reads as before, but for the entries that an index selects and for SQSTAT.STALLFREE; the base registers of the stream take a write only while
the partition is idle. LOG2 clamps; sticky bits and counters clear where 1 is written; a read-only register keeps its value. MBCMD starts a
command while the mailbox is not BUSY. The power limit clamps to its range, and BELLADDR keeps its low bits 0. A write of FREEZE (0x020, RW1S) is
the event FREEZE_WRITE, and this one leaves it alone. The root core sets L2WAYS only to ways that no other partition has (choice: log 49). SDSIZE.LOG2
and MBARG read back as written (choice: log 83). -/
def Sys2Proof.Rules.RegisterWrites : Prop := ∀ (s : State) (p off : Nat) (x : DWord), p < s.partitions.length → p < 16 → s.subject.x = x →
  let q := s.part p
  q.sched.g.length = 8 →
  let i := Instr.registerWrite
  let idle := q.sq.enable = false ∧ q.window = []
  let only (t : State) : Prop := t = s.modPart p fun _ => t.part p
  ((s.subject.k = p + 1 ∧ s.subject.m = off) ∨ (s.subject.k = 0 ∧ s.subject.m = 0x10000 * (p + 1) + off ∧ s.subject.on = false) → off < 0x10000 →
    (∀ mask needsIdle, (off, mask, needsIdle) ∈ plainRegisters → (needsIdle = true → idle) → Yields i s fun t => only t ∧ t.vfReg p off = (x &&& mask).toNat ∧
      (∀ o, o ∉ [off, 0x0028, 0x2010, 0x2020] → t.vfReg p o = s.vfReg p o) ∧ ∀ k, k ≠ 1 → (t.vfReg p 0x0028).testBit k = (s.vfReg p 0x0028).testBit k) ∧
    (∀ mask, (off, mask, true) ∈ plainRegisters → ¬idle → Sys2Proof.Machine.exec i s = .next s) ∧
    (off = 0x0008 → idle → Yields i s fun t => only t ∧ t.vfReg p off = max 4 (min 20 (x.toNat % 32))) ∧
    (∀ o bit, (o, bit) ∈ [(0x0028, 3), (0x1018, 1), (0x1050, 1), (0x3010, 2)] → off = o →
      Yields i s fun t => only t ∧ ∀ k, (t.vfReg p o).testBit k = ((s.vfReg p o).testBit k && !(k == bit && x.getLsbD bit))) ∧
    (off = 0x3018 ∨ off = 0x3098 → Yields i s fun t => only t ∧ ∀ k, (t.vfReg p off).testBit k = ((s.vfReg p off).testBit k && !x.getLsbD k)) ∧
    (off ∈ [0x0018, 0x0020, 0x0040, 0x0048, 0x0050, 0x1038, 0x2020, 0x2028, 0x3090, 0x30A0, 0x4010] → Sys2Proof.Machine.exec i s = .next s) ∧
    (off = 0x4000 → q.mbstat.getLsbD 0 = true → Sys2Proof.Machine.exec i s = .next s) ∧
    (off = 0x4000 → q.mbstat.getLsbD 0 = false → 1 ≤ x.toNat % 256 → x.toNat % 256 ≤ 7 →
      Sys2Proof.Machine.exec i s = .next (s.modPart p fun q => { q with mbcmd := x, mbstat := 1 }))) ∧
  (s.subject.k = 0 → s.subject.m = 0x10000 * (p + 1) + 0x1008 → s.subject.on = true →
    let taken := ∃ r, r ≠ p ∧ r < s.partitions.length ∧ ∃ a b w, a < 4 ∧ b < 4 ∧ w < 16 ∧ x.getLsbD (16 * a + w) = true ∧ (s.part r).mem.l2ways.getLsbD (16 * b + w) = true
    (¬taken → Sys2Proof.Machine.exec i s = .next (s.modPart p fun q => { q with mem := { q.mem with l2ways := x } })) ∧ (taken → Sys2Proof.Machine.exec i s = .next s)) ∧
  (s.subject.k = 0 →
    (s.subject.m = 0x018 → Sys2Proof.Machine.exec i s = .next { s with device := { s.device with belladdr := x &&& 0xFFFFFFFFFFFFFF00 } }) ∧
    (s.subject.m = 0x028 → Sys2Proof.Machine.exec i s = .next { s with device := { s.device with pwrlim := max 1200 (min 2400 (x.toNat % 4096)) } }) ∧
    (∀ o ∈ [0x000, 0x008, 0x010, 0x020, 0x030, 0x038, 0x050, 0x060, 0x100, 0x140], s.subject.m = o → Sys2Proof.Machine.exec i s = .next s))

/-- R222, R234, R313, R380: TLBINV, CHKPUSH, BTVAL and EXPBASE. An invalidation sets BUSY, and LOST while one is already in progress; a page's with SIZE 7 is
ignored; its completion clears BUSY, and ends older leaf entries (logs 42, 87). A chunk below CHKSIZE joins the tail of the free
list, and one at or above it is ignored. BTVAL sets the entry that BTIDX names. EXPBASE drops the entries cached. -/
def Sys2Proof.Rules.BlockEvents : Prop := ∀ (s : State) (p : Nat), s.subject.p = p → p < s.partitions.length →
  let q := s.part p
  let x := s.subject.x
  let memory (f : MemBlock → MemBlock) : State := s.modPart p fun q => { q with mem := f q.mem }
  let begins (page : Option (Nat × Nat)) := memory fun m => if m.tlbWork = none then { m with tlbWork := some ⟨s.cycle, page⟩ } else { m with tlbLost := true }
  let size := 2 ^ pageBits (x.toNat / 2 ^ 8 % 8)
  Sys2Proof.Machine.exec .tlbinvAll s = .next (begins none) ∧
  (x.getLsbD 11 = false → Sys2Proof.Machine.exec .tlbinvPage s =
    .next (if x.toNat / 2 ^ 8 % 8 = 7 then s else begins (some (x.toNat / 2 ^ 12 % 2 ^ 44 * 4096 / size * size, size)))) ∧
  (q.mem.tlbWork = none → Sys2Proof.Machine.exec .tlbinvComplete s = .next s) ∧
  (∀ i, q.mem.tlbWork = some i → Sys2Proof.Machine.exec .tlbinvComplete s = .next
    ({ memory fun m => { m with
        tlbWork := none, tlbDone := if i.page = none then [i] else m.tlbDone ++ [i]
        walked := m.walked.filter fun w => decide (i.since < w.since) || (match i.page with | none => false | some z => z ≠ (w.start, w.size))
        oldRoots := m.oldRoots.filter fun r => i.page ≠ none || decide (i.since ≤ r.2) } with
      bad := s.bad.filter fun b => match b with | .tlb r start => r ≠ p || (match i.page with | none => false | some z => z.1 ≠ start) | _ => true } : State)) ∧
  (let c := x.toNat % 2 ^ 32
   (q.mem.chksize.toNat ≤ c → Sys2Proof.Machine.exec .chkpush s = .next s) ∧
   (c < q.mem.chksize.toNat → q.mem.avail = 0 → Sys2Proof.Machine.exec .chkpush s = .next (memory fun m => { m with avail := 1, head := c, tail := c })) ∧
   (c < q.mem.chksize.toNat → 0 < q.mem.avail → s.memoriesWf = true → q.mem.chklink.toNat / 2 ^ 12 % 2 ^ 40 * 4096 + 4 * q.mem.tail + 4 ≤ s.device.hbmBytes →
    Yields .chkpush s fun t => (t.part p).mem = { q.mem with avail := q.mem.avail + 1, tail := c } ∧ t.link p q.mem.tail = c ∧ t.flocks = s.flocks)) ∧
  Sys2Proof.Machine.exec .btvalWrite s = .next (s.modPart p fun q => { q with eng := { q.eng with
    buffers := assocSet 0 q.eng.btidx (x.toNat % 4) q.eng.buffers
    filled := q.eng.filled.filter fun y => y.1 ≠ q.eng.btidx } }) ∧
  Sys2Proof.Machine.exec .expbaseWrite s = .next (s.modPart p fun q => { q with expbase := x &&& 0x00FFFFFFFFFFFC00, exports := none })

/-- R355, R359, R383: CRKCTL.LOAD copies a program of LEN + 1 operations into the shadow slot, or records the index of the first that is no operation, or whose
branch leaves the program, or that cannot be read, and then leaves the shadow slot empty; a shadow program becomes active between two decisions, with a
new generation and a measurement. That a good load leaves CRKSTAT.ERR as it was is the model's reading (log 41). -/
def Sys2Proof.Rules.CrookPrograms : Prop := ∀ (s : State) (p : Nat), s.subject.p = p → p < s.partitions.length →
  let n := s.subject.x.toNat % 128 + 1
  let at_ (k : Nat) : EngineRes (List Byte × Bool) := s.readVa p none ((s.part p).sched.crksrc.toNat + 4 * k) 4
  let good (k : Nat) (w : Word) : Prop := (∃ x, at_ k = .ok (leBytes 4 w.toNat, x)) ∧
    ∃ i, decodeCrook w.toNat = some i ∧ ∀ a off, i = .crkBf a off ∨ i = .crkBnf a off → k + off ≤ n
  (∀ (ws : List Word), ws.length = n → (∀ k w, ws[k]? = some w → good k w) → Sys2Proof.Machine.exec .crkctlLoad s = .next
    ((s.served p (s.part p).sched.crksrc.toNat (4 * n)).modPart p fun q => { q with sched := { q.sched with len := n - 1, shadow := some ws } })) ∧
  (∀ k, k < n → (∀ j, j < k → ∃ w, good j w) →
    ((∃ va, at_ k = .absent va) ∨ (∃ e, at_ k = .err e) ∨ ∃ w x, at_ k = .ok (leBytes 4 w, x) ∧ w < 2 ^ 32 ∧
        (decodeCrook w = none ∨ ∃ a off, n < k + off ∧ (decodeCrook w = some (.crkBf a off) ∨ decodeCrook w = some (.crkBnf a off)))) →
    Sys2Proof.Machine.exec .crkctlLoad s = .next
      ((s.served p (s.part p).sched.crksrc.toNat (4 * (k + 1))).modPart p fun q => { q with sched := { q.sched with len := n - 1, shadow := none, err := true, erridx := k } })) ∧
  (∀ ws, (s.part p).sched.shadow = some ws → (s.part p).sched.run = none → Sys2Proof.Machine.exec .crkProgramActivate s = .next
    (s.modPart p fun q => { q with
      sched := { q.sched with active := some ws, shadow := none, gen := q.sched.gen + 1 }
      measure := Config.sha512 (q.measure ++ Config.sha512 (ws.flatMap fun w => leBytes 4 w.toNat)) })) ∧
  ((s.part p).sched.shadow = none ∨ (s.part p).sched.run ≠ none → Sys2Proof.Machine.exec .crkProgramActivate s = .next s)

/-- R302, R312, R319, R322, R337, R338, R361: fault commands. A REPLAY lets what a pending record reports go on: a stray's threads issue again at their PC, a
tile copy, a transform, a bulk queue or a task's stream is held no more. A CANCEL ends each with CANCELLED: a stray's threads trap with their own
addresses, a queue stops, a task faults with MEMFAULT. The stray of a folded flock takes a mark, and its record is answered once every lane is named.
An identifier not pending, or whose record still
waits for the ring, is ignored. Freed slots take the records that wait: the indices
advance, and the fault interrupt is raised for each record written. -/
def Sys2Proof.Rules.FaultCommands : Prop := ∀ (s : State) (p : Nat) (fid : Word), s.subject.p = p → s.subject.x.setWidth 32 = fid → p < s.partitions.length →
  let i (cancel : Bool) : Instr := if cancel then .faultcmdCancel else .faultcmdReplay
  (∀ cancel, (∀ r ∈ (s.part p).faults, ¬(r.fid = fid ∧ r.pending = true ∧ r.kind ≤ 5)) ∨ (∃ r ∈ (s.part p).waitingRecs, r.fid = fid) → Sys2Proof.Machine.exec (i cancel) s = .next s) ∧
  (∀ r cancel, (s.part p).faults = [r] → (s.part p).waitingRecs = [] → r.fid = fid → r.pending = true → r.kind ≤ 5 →
    let u := s.modPart p fun q => { q with faults := [{ r with pending := false, decide := false }] }
    let code (c : Bool) (e : Nat) : Nat := if c ∧ e = 0 then 0x04 else e
    (∀ f m fl wg c rest, r.context = .tileCopy f m → s.flock? f = some fl → fl.wgs[m]? = some wg → wg.copies = c :: rest → c.fault = some fid →
      Sys2Proof.Machine.exec (i cancel) s = .next (u.modWg f m fun wg => { wg with copies := { c with fault := none, error := code cancel c.error, finished := cancel || c.finished } :: rest })) ∧
    (∀ jcb st, r.context = .transform jcb → s.streams = [st] → st.p = p → st.fault = some fid →
      Sys2Proof.Machine.exec (i cancel) s = .next { u with streams := [{ st with fault := none, penned := false, error := code cancel st.error, finished := cancel || st.finished, noStatus := cancel && st.finished }] }) ∧
    (∀ q b, r.context = .bulk q → s.queue? p q = some b → Sys2Proof.Machine.exec (i cancel) s = .next
      (let v := u.modQueue p q fun b => { b with fault := none }
       let w := v.modPart p fun w => { w with bulkIrq := w.bulkIrq + 1 }
       if cancel = false then v
       else if b.closing then w.modPart p fun w => { w with eng := { w.eng with bulk := w.eng.bulk.set q none, bqdesc := w.eng.bqdesc.modify q fun x => x &&& ~~~1 } }
       else w.modQueue p q fun b => { b with stopped := true })) ∧
    (∀ seq t, r.context = .task seq → (s.part p).window = [t] → t.seq = seq → t.status = .issued →
      Sys2Proof.Machine.exec (i cancel) s = .next (u.modPart p fun q => { q with window := [{ t with fault := none, status := if cancel then .faulted 0x0B 0 else .issued }] })) ∧
    (∀ f m w fl wg th lane addr, r.context = .stray f m w → s.flock? f = some fl → fl.status = .resident → fl.wgs = [wg] → wg.herder = none → m = 0 → w < 32 → (∀ k ∈ fl.marks, k.fid ≠ fid) →
      wg.warps.length = w + 1 → (∀ v ∈ wg.warps.take w, ∀ t ∈ v.threads, t.stray = false) → s.thread? f 0 w lane = some th → th.life = .stray fid addr → lane < 32 →
      (∀ l k a, s.thread? f 0 w l = some k → k.life = .stray fid a → l = lane) →
      (cancel = false → Yields (i false) s fun t => ∃ k, t.thread? f 0 w lane = some k ∧ k.life = .live ∧ k.pc = th.pc ∧ k.trapMode = th.trapMode ∧
        ∀ q ∈ (t.part p).faults, q.pending = false) ∧
      (cancel = true → (s.part p).sched.faultmask.getLsbD lane = true → th.trapMode = false → th.trapvec.toNat % 2 ^ 24 ≠ 0 → Yields (i true) s fun t =>
        ∃ k, t.thread? f 0 w lane = some k ∧ k.life = .live ∧ k.trapMode = true ∧ k.trapcause = 0x07 ∧ k.trappc = th.pc.setWidth 32 ∧ k.trapaddr = addr ∧
          k.pc = th.trapvec.setWidth 24)) ∧
    (∀ f m w fl base halt, r.context = .stray f m w → s.flock? f = some fl → fl.status = .folded base halt →
      let mask : Word := if cancel then (s.part p).sched.faultmask else 0
      let named (l : Nat) : Bool := !cancel || mask.getLsbD l
      ((fl.openLanes fid).any named = false → cancel = true → Sys2Proof.Machine.exec (i cancel) s = .next s) ∧
      ((fl.openLanes fid).any named = true ∨ cancel = false → Yields (i cancel) s fun t => t.flock? f = some { fl with marks := fl.marks ++ [⟨fid, cancel, mask⟩] } ∧
        ∀ q ∈ (t.part p).faults, q.pending = (fl.openLanes fid).any fun l => !named l))) ∧
  Sys2Proof.Machine.exec .faultRingFree s = .next (s.modPart p fun q =>
    let all := q.ring.drop s.subject.k ++ q.waitingRecs
    let room := max (q.ring.drop s.subject.k).length 64
    let written := room - (q.ring.drop s.subject.k).length
    { q with ring := all.take room, waitingRecs := all.drop room, ringRead := q.ringRead + wN (min s.subject.k q.ring.length), ringWrite := q.ringWrite + wN (min written q.waitingRecs.length), faultIrq := q.faultIrq + min written q.waitingRecs.length })

/-! ## Decisions -/

/-- What the fallback makes of a decision (R358): it dispatches the ready task of the highest static priority, the earliest of equals; it pre-empts the flock of
the lowest static priority, the latest of equals; it parks a fault. -/
def Sys2Proof.Machine.Falls (s : State) (p kind : Nat) (asked : Bool) (cands : List Nat) (t : State) : Prop :=
  let prio (seq : Nat) : Nat := (((s.task? p seq).map Task.epoch).getD 0).toNat % 16
  let flockPrio (f : Nat) : Nat := prio (((s.flock? f).map Flock.seq).getD 0)
  (kind = 0 → ∃ (k seq : Nat), cands[k]? = some seq ∧ (∀ (j q : Nat), cands[j]? = some q → prio q < prio seq ∨ prio q = prio seq ∧ k ≤ j) ∧ t = s.actDispatch p seq (prio seq)) ∧
  (kind = 1 → ∃ (k f : Nat), cands[k]? = some f ∧ (∀ (j g : Nat), cands[j]? = some g → flockPrio f < flockPrio g ∨ flockPrio g = flockPrio f ∧ j ≤ k) ∧
    t = (s.modFlock f fun fl => { fl with status := .folding none }).modPart p fun q => { q with sched := { q.sched with preempts := q.sched.preempts.drop asked.toNat } }) ∧
  (kind = 2 → ∃ fid, cands = [fid] ∧ t = s.modPart p fun q => { q with faults := q.faults.map fun r => if r.fid = wN fid then { r with decide := false } else r })
/-- A run of the active program for a decision starts (R356-R358): registers, scores and verdict 0, after 10 interpreter cycles. -/
def Sys2Proof.Machine.newRun (kind : Nat) (asked : Bool) (cands : List Nat) (fields : List (List Word)) (globals : List Word) : CrookRun :=
  { kind := kind, asked := asked, cands := cands, fields := fields, globals := globals, cand := 0, op := 0, k := Vector.replicate 16 0, scores := List.replicate cands.length 0
    verdict := 0, cycles := 10, overBudget := false }
/-- R351, R352, R354, R356-R358: decisions, one at a time: FAULT before PREEMPT before DISPATCH. With an active program a run starts over the candidates, with
their fields and the global fields; with none the fallback decides. A decision beyond its budget is given to the fallback, and CRKOVR counts it. That a
decision without a program acts at once, and how f8 is rounded, are the model's readings (log 50), as is which of two PREEMPT decisions comes first
(log 34). -/
def Sys2Proof.Rules.Decisions : Prop := ∀ (s : State) (p : Nat), s.subject.p = p → p < s.partitions.length →
  let q := s.part p
  let b := q.sched
  let tasks := s.readyTasks p
  let flocks := s.residents p
  let global (kind n : Nat) : List Word :=
    b.g ++ [kind, b.grant - s.coresHeld p, b.grant, q.sq.quota - q.window.length, n, 0, q.mem.avail, s.cycle].map wN
  let age (c : Nat) : Nat := min (s.cycle - c) 0x7FFFFFFF
  let epoch (seq : Nat) : Word := ((s.task? p seq).map Task.epoch).getD 0
  let may (kind : Nat) (asked : Bool) (cands : List Nat) (fields : Nat → List Word) (i : Instr) : Prop := b.run = none → b.shadow = none →
    (b.active = none → Yields i s (Falls s p kind asked cands)) ∧
    (b.active ≠ none → Sys2Proof.Machine.exec i s = .next (s.runs p (some (newRun kind asked cands (cands.map fields) (global kind cands.length)))))
  (∀ i ∈ [Instr.dispatch, .preempt, .faultDecision], b.run ≠ none ∨ b.shadow ≠ none → s.owesPreempt p = false ∨ flocks ≠ [] → Sys2Proof.Machine.exec i s = .next s) ∧
  (q.toDecide = [] → s.owesPreempt p = false → tasks ≠ [] → may 0 false tasks (fun seq => ((s.task? p seq).map fun t => [t.op, (epoch seq).toNat % 16, (epoch seq).toNat,
    age (t.readyAt.getD s.cycle), seq, (t.launch.map fun l => l.m * l.s).getD 0, s.unplaced p t, 0, limitLeft (some t)].map wN).getD []) .dispatch) ∧
  (q.toDecide = [] → s.owesPreempt p = true → flocks ≠ [] → may 1 (s.nextAsked p) flocks (fun f => ((s.flock? f).map fun fl => [((s.task? p fl.seq).map Task.op).getD 0,
    (epoch fl.seq).toNat % 16, (epoch fl.seq).toNat, age fl.placedAt, fl.seq, fl.cores.length,
    (s.flocks.filter fun g => g.p == p && g.seq == fl.seq && g.status == .resident).length, fl.preempted, limitLeft (s.task? p fl.seq)].map wN).getD []) .preempt) ∧
  (q.toDecide = [] → s.owesPreempt p = true → flocks = [] → Sys2Proof.Machine.exec .preempt s = .next
    (s.modPart p fun q => { q with sched := { q.sched with preempts := q.sched.preempts.drop (s.nextAsked p).toNat } })) ∧
  (∀ r rest, q.toDecide = r :: rest → r.context.flock? = none → may 2 false [r.fid.toNat] (fun _ => [r.kind, (epoch r.seq).toNat % 16, (epoch r.seq).toNat, age r.at_, r.seq, 0, 0, 0,
    limitLeft (s.task? p r.seq), r.va.toNat, r.va.toNat / 2 ^ 32, r.detail].map wN) .faultDecision) ∧
  (q.toDecide ≠ [] → Sys2Proof.Machine.exec .dispatch s = .next s ∧ Sys2Proof.Machine.exec .preempt s = .next s) ∧
  (s.owesPreempt p = true → Sys2Proof.Machine.exec .dispatch s = .next s) ∧
  ∀ r, b.run = some r → (r.overBudget = false → Sys2Proof.Machine.exec .crkBudgetOverrun s = .next s) ∧
    (r.overBudget = true → r.cands ≠ [] → (r.kind = 0 ∨ (r.kind = 1 ∧ ∀ f ∈ r.cands, f ∈ flocks) ∨ (r.kind = 2 ∧ r.cands.length = 1)) →
      Yields .crkBudgetOverrun s (Falls ((s.runs p none).modPart p fun q => { q with sched := { q.sched with overrun := q.sched.overrun + 1 } }) p r.kind r.asked r.cands))

/-- R351, R357: how a run's scores and verdict act: the highest score of at least 0 dispatches, the highest above 0 pre-empts, the earliest of equals, and without
one nothing does; PARK leaves a fault pending, EVICT pre-empts a stray's flock, RETRY and KILL are the fault commands. A slice boundary, of a running root
firmware core, gives grants of whole clusters, and 65,536 cycles later a partition above its grant loses its youngest flock. The model's choices: the
firmware's grants are operands (log 70), a partition that was and stays above its grant has no new time (log 34), and a run acts in the step of its
last operation (log 50). -/
def Sys2Proof.Rules.DecisionsAct : Prop := ∀ (s : State) (p : Nat), p < s.partitions.length →
  (∀ (least : Int) (l : List (Nat × Int)), (bestScore least l = none ↔ ∀ c ∈ l, c.2 < least) ∧
    ∀ c, bestScore least l = some c ↔ least ≤ c.2 ∧ ∃ k : Nat, l[k]? = some c ∧ ∀ (j : Nat) (d : Nat × Int), l[j]? = some d → d.2 < c.2 ∨ d.2 = c.2 ∧ k ≤ j) ∧
  (∀ (r : CrookRun), r.scores.length = r.cands.length →
    (r.kind = 0 → s.actRun p r = (match bestScore 0 (r.cands.zip r.scores) with | some c => s.actDispatch p c.1 c.2 | none => s)) ∧
    (r.kind = 1 → s.actRun p r = (match bestScore 1 (r.cands.zip r.scores) with
      | some c => s.modFlock c.1 fun (fl : Flock) => if fl.status = FlockStatus.resident then { fl with status := FlockStatus.folding none } else fl
      | none => s).modPart p fun q => { q with sched := { q.sched with preempts := q.sched.preempts.drop r.asked.toNat } }) ∧
    (∀ x f m u, r.kind = 2 → r.cands = [x.fid.toNat] → (s.part p).faults = [x] → x.context = .stray f m u →
      let parked := s.modPart p fun q => { q with faults := [{ x with decide := false }] }
      s.actRun p r = (match r.verdict with
        | 1 => parked.modFlock f fun fl => if fl.status = .resident then { fl with status := .folding none } else fl
        | 2 => parked.command p x.fid false 0
        | 3 => parked.command p x.fid true 0xFFFFFFFF
        | _ => parked))) ∧
  (∀ gs, s.partitions.length = 16 → (∀ k, k < 16 → field s.subject.bytes (2 * k) 2 = gs k) →
    (s.coreOn 0 = true → (∀ k, k < 16 → gs k % 8 = 0) → ((List.range 16).map gs).sum ≤ 8 * s.device.clusters → Yields .sliceBoundary s fun t =>
      t.device = { s.device with sliceNo := s.device.sliceNo + 1 } ∧ (∀ k, k < 16 → t.part k = { s.part k with sched := { (s.part k).sched with
        grant := gs k
        grantAt := if (s.part k).sched.grant < s.coresTaken k ∧ gs k < s.coresTaken k then (s.part k).sched.grantAt else s.cycle } }) ∧
      t.flocks = s.flocks ∧ t.memoryPart = s.memoryPart) ∧
    (¬(s.coreOn 0 = true ∧ (∀ k, k < 16 → gs k % 8 = 0) ∧ ((List.range 16).map gs).sum ≤ 8 * s.device.clusters) → Sys2Proof.Machine.exec .sliceBoundary s = .next s)) ∧
  (s.subject.p = p →
    (s.coreOn 0 = false ∨ s.cycle < (s.part p).sched.grantAt + 65536 → Sys2Proof.Machine.exec .grantDeadline s = .next s) ∧
    (∀ f, s.coreOn 0 = true → (s.part p).sched.grantAt + 65536 ≤ s.cycle → s.residents p = [f] → s.overGrant p = true →
      Sys2Proof.Machine.exec .grantDeadline s = .next (s.modFlock f fun fl => { fl with status := .folding none })))

/-- R16, R138, R155, R190, R191, R198, R200, R201, R321-R324, R353: what issuing a ready task does. SIGNAL raises its counter, with an interrupt if it asks; SIGNAL,
FREE, FENCE, MARK and an ALLOC without zero-fill complete; an XFORM gets its stream, and an OFFLOAD's entry drains. A RUN of one workgroup writes its launch
image and is placed at cores that fit, the first where the loader names no other (log 34): every thread new at word 0, w0:w1 holding the image's address. -/
def Sys2Proof.Rules.TasksIssue : Prop := ∀ (s : State) (p : Nat) (t : Task), s.subject.p = p → p < s.partitions.length →
  let q := s.part p
  q.window = [t] → t.status = .decoded → t.news = [] ∨ t.op = 10 → (∀ v ∈ t.news, v.copy = false) → t.shortcut = none → q.toDecide = [] → s.owesPreempt p = false →
  q.sched.run = none → q.sched.shadow = none → q.sched.active = none → 16 ≤ (q.sched.g.getD 7 0).toInt →
  let issued := s.modPart p fun q => { q with window := [{ t with status := .issued }] }
  (t.op = 9 → Sys2Proof.Machine.exec .dispatch s = .next
    (let u := (s.raise p t.arg (BitVec.ofNat 64 t.ptr)).finishes p t id
     if t.flags % 2 = 1 then { u with device := { u.device with msix := u.device.msix ++ [(p + 1, 0)] } } else u)) ∧
  (t.op = 11 ∨ t.op = 12 ∨ t.op = 15 ∨ (t.op = 10 ∧ ∀ v ∈ t.news, v.zero = false) → Sys2Proof.Machine.exec .dispatch s = .next (s.finishes p t id)) ∧
  (t.op = 3 ∨ t.op = 6 ∨ t.op = 8 ∨ (t.op = 10 ∧ ∃ v ∈ t.news, v.zero = true) → t.launch = none → Sys2Proof.Machine.exec .dispatch s = .next issued) ∧
  (t.op = 5 → t.launch = none → Sys2Proof.Machine.exec .dispatch s = .next (issued.setBuffer p (t.arg % 4096) 3)) ∧
  (t.op = 4 → t.launch = none → t.debug = false → Yields .dispatch s fun u => ∃ v st, Beside issued v ∧ u = { v with streams := s.streams ++ [st], streamNum := s.streamNum + 1 } ∧ st.p = p ∧ st.task = some t.seq ∧ st.wg = none ∧
    st.op = t.arg / 2 ^ 24 % 16 ∧ st.src = t.arg % 2 ^ 12 ∧ st.dst = t.arg / 2 ^ 12 % 2 ^ 12 ∧ st.contract = t.arg / 2 ^ 28 % 16 ∧ st.k = t.flags % 32 ∧
    st.stampMask = t.flags.testBit 5 ∧ st.jcb = t.ptr ∧ st.pos = 0 ∧ st.finished = false ∧ st.started = false) ∧
  (∀ (l : Launch) (params : List Byte) (y z : Bool) (v : State) (first : Nat) (more : List Nat), t.op = 1 → t.launch = some l → l.pool = none → l.nx = 1 → l.ny = 1 → l.nz = 1 →
    l.m = 1 → l.s = 1 → t.placed = 0 → s.flocks = [] → s.readVa p none l.params l.paramLen = .ok (params, y) →
    let slot (k : Nat) : Nat := match t.regions.getD k none with | some r => if r.kind = 1 ∨ r.target = 0 then r.base + r.offset else 0 | none => 0
    (s.served p l.params l.paramLen).writeVa p none l.param.toNat (((List.range 6).flatMap fun k => leBytes 8 (slot k)) ++ params) (.task p t.seq) = (v, .ok z) → s.placesFor p l = first :: more →
    Yields .dispatch s fun u => u.memoryPart = v.memoryPart ∧ (∃ k, (u.part p).window = [k] ∧ k.status = .issued ∧ k.placed = 1) ∧
      ∃ fl wg, u.flocks = [fl] ∧ fl.p = p ∧ fl.seq = t.seq ∧ fl.launch = { l with issuedAt := s.cycle } ∧ fl.status = .resident ∧ (fl.x, fl.y, fl.z) = (0, 0, 0) ∧ fl.hurdles = List.replicate 16 0 ∧
        fl.wgs = [wg] ∧ wg.wgid = 0 ∧ wg.core ∈ first :: more ∧ (s.cores = [] → wg.core = first) ∧ wg.scratch = [] ∧ wg.granules = 0 ∧ wg.tags = List.replicate l.tags 0 ∧ wg.tiles = List.replicate l.acc [] ∧
        wg.warps.length = l.wg ∧
        (∀ w ∈ wg.warps, w.threads.length = 32 ∧ w.fairness = BitVec.ofNat 16 l.fair ∧ w.joinlim = 256 ∧ w.progress = l.progress ∧ w.gang = 0 ∧ w.wfull = BitVec.allOnes 8 ∧
          w.w[0] = l.param.setWidth 32 ∧ w.w[1] = (l.param >>> 32).setWidth 32 ∧ (∀ k : Fin 8, 2 ≤ k.val → w.w[k] = 0) ∧
          ∀ th ∈ w.threads, th = Thread.new) ∧
        ∃ h, wg.herder = some h ∧ h.threads = [{ Thread.new with g := 0x8000 }])

/-! ## The device -/

/-- A partition as its reset leaves it: every register at its Reset value; its configuration record, keys, measurement and bell word stay (R349, R366). -/
def Sys2Proof.Machine.clearedPart (q : Partition) : Partition :=
  { config := q.config, pendingConfig := q.pendingConfig, keys := q.keys, measure := q.measure, bell := q.bell }
/-- A partition's reset: its live flocks abort, what engines held for it is gone, the copies of its cores end (R264), and memory, the other partitions and
their flocks are as before. -/
def Sys2Proof.Machine.PartReset (s : State) (p : Nat) (t : State) : Prop :=
  t.part p = clearedPart (s.part p) ∧ (∀ r, r ≠ p → t.part r = s.part r) ∧ t.flocks.length = s.flocks.length ∧
  (∀ f a b, s.flock? f = some a → t.flock? f = some b → if a.p = p then b.status = .aborted ∨ b.status = .retired else b = a) ∧
  (∀ f a wg, s.flock? f = some a → a.p = p → a.onCores = true → wg ∈ a.wgs → ∀ c ∈ t.copies, c.core ≠ wg.core) ∧
  (∀ x ∈ t.streams, x.p ≠ p) ∧ t.device = s.device ∧ t.memoryPart = s.memoryPart
/-- R9, R349, R350, R366, R381, R383: resets and the start of a partition. A whole-device reset gives State.reset but for what stands outside the device, its fuses and the
model's own counters; a function-level reset of the PF resets every partition and clears every key slot. A partition whose firmware core runs starts: it has its grant cleared, its free
lists built in ascending address, aligned to their classes, and takes a held ENABLE. What each reset keeps (logs 52, 53), and that cleared memory reads 0
under every key (log 54), are the model's readings. -/
def Sys2Proof.Rules.Resets : Prop := ∀ (s : State) (p : Nat), p < s.partitions.length →
  (Yields .wholeDeviceReset s fun t => ∃ d, t = { State.reset with
      hostMem := s.hostMem, peerMem := s.peerMem, peerSpace := s.peerSpace, device := d, agenda := s.agenda, turn := s.turn, cores := s.cores, order := s.order, fresh := s.fresh, subject := s.subject } ∧
    d = { State.reset.device with
      gradeB := s.device.gradeB, clusterMap := s.device.clusterMap, stackMap := s.device.stackMap
      keySerial := d.keySerial, msix := d.msix, requests := d.requests, peerGrants := d.peerGrants }) ∧
  (s.subject.p = p → Yields .partitionReset s (PartReset s p)) ∧
  (s.subject.k = p + 1 → Yields .functionLevelReset s (PartReset s p)) ∧
  (s.subject.k = 0 → s.partitions.length = 16 → Yields .functionLevelReset s fun t => (∀ r, r < 16 → t.part r = { clearedPart (s.part r) with keys := [] }) ∧
    t.device = { s.device with slots := [], atomicEnable := false } ∧ t.memoryPart = s.memoryPart) ∧
  (s.subject.p = p → (s.part p).started = true ∨ s.device.coresOn.getD (p + 1) false = false → Sys2Proof.Machine.exec .partitionStart s = .next s) ∧
  (∀ c, s.subject.p = p → (s.part p).started = false → s.device.coresOn.getD (p + 1) false = true → ((s.part p).pendingConfig = some c ∨ (s.part p).pendingConfig = none ∧ (s.part p).config = some c) →
    c.gbase % 128 = 0 → c.glen % 128 = 0 → c.counts.length = 5 →
    Yields .partitionStart s fun t => let q := t.part p
      q.config = some c ∧ q.pendingConfig = none ∧ q.started = true ∧ q.measure = List.replicate 64 0 ∧
      q.sq = { (s.part p).sq with enable := (s.part p).sq.enable || (s.part p).enableHeld } ∧ q.enableHeld = false ∧ q.free.length = 5 ∧
      (∀ cls, cls < 5 → ∃ a, a % classBytes cls = 0 ∧ q.totals.getD cls 0 = c.counts.getD cls 0 ∧
        q.free.getD cls [] = (List.range (c.counts.getD cls 0)).map fun k => 8 * (a + k * classBytes cls) + cls) ∧
      (∀ key a, t.hbmByte key a = if c.gbase ≤ a ∧ a < c.gbase + c.glen then 0 else s.hbmByte key a) ∧ t.hostMem = s.hostMem ∧ t.flocks = s.flocks)

/-- An image that a core starts (R382): its header, its body's length and digest, and its signature. -/
def Sys2Proof.Machine.imageGood (kind : Nat) (bs : List Byte) : Prop :=
  256 ≤ bs.length ∧ field bs 0 4 = 0x59474657 ∧ field bs 4 4 = kind ∧ Config.minVersion ≤ field bs 8 4 ∧ field bs 12 4 ≤ 196608 ∧ 256 + field bs 12 4 ≤ bs.length ∧
  Config.sha512 ((bs.drop 256).take (field bs 12 4)) = (bs.drop 64).take 64 ∧
  Config.releaseVerifies (bs.take 192) ((bs.drop 192).take 64) = true
/-- R364-R366, R368, R373, R377, R379, R382, R383: firmware cores start a good image and extend a measurement, or record a failed check with an interrupt; the root core's first start
fills key slot 1,023 (log 91); a nudge interrupts a core; a restart starts the core's own image again, begins the slices anew or reports the faults of its
partition that are pending, or still wait for the ring, again; bell words count up, written to host memory unless BELLADDR is 0, and
stop in a frozen device; power stays within its limit; the root core joins a domain. The model's choices: vector 2 for a failed image (log 55), what a
core's memory holds (log 56), and the draw as POWER_WINDOW's operand (log 59). -/
def Sys2Proof.Rules.FirmwareEvents : Prop := ∀ (s : State) (k : Nat), s.subject.k = k → k < 17 → s.device.coresOn.length = 17 → s.device.nudges.length = 17 → s.device.coreMem.length = 17 →
  let bs := s.subject.bytes
  let body := (bs.drop 256).take (field bs 12 4)
  let device (f : Device → Device) : State := { s with device := f s.device }
  let on := s.device.coresOn.getD k false
  (imageGood (min k 1) bs → Sys2Proof.Machine.exec .firmwareImageStart s = .next (device fun d =>
    let fresh := k = 0 ∧ assocGet 0 d.slots 1023 = 0
    { d with
      coresOn := d.coresOn.set k true, coreMem := d.coreMem.set k (cellsWrite [] 0 (bs.take (256 + field bs 12 4)))
      dm0 := if k = 0 then Config.sha512 (d.dm0 ++ Config.sha512 body) else d.dm0
      dm1 := if k = 0 then d.dm1 else Config.sha512 (d.dm1 ++ Config.sha512 body)
      slots := if fresh then assocSet 0 1023 d.keySerial d.slots else d.slots
      keySerial := if fresh then d.keySerial + 1 else d.keySerial }) ∧
    heldImage (cellsWrite [] 0 (bs.take (256 + field bs 12 4))) = bs.take (256 + field bs 12 4)) ∧
  (¬imageGood (min k 1) bs → Sys2Proof.Machine.exec .firmwareImageStart s = .next (device fun d =>
    { d with fwstat := d.fwstat ||| wN (2 ^ k), coresOn := d.coresOn.set k false, msix := d.msix ++ [(0, 2)] })) ∧
  Sys2Proof.Machine.exec .firmwareNudge s = .next (device fun d => { d with nudges := d.nudges.set k (d.nudges.getD k 0 + 1) }) ∧
  (∀ t, Sys2Proof.Machine.exec .firmwareImageStart { s with subject := { s.subject with bytes := heldImage (s.device.coreMem.getD k []) } } = .next t →
    let u := { t with subject := s.subject }
    (k = 0 → Sys2Proof.Machine.exec .firmwareCoreRestart s = .next { u with device := { u.device with sliceNo := 0 } }) ∧
    (∀ p, k = p + 1 → Sys2Proof.Machine.exec .firmwareCoreRestart s = .next (u.modPart p fun q =>
      let pending := q.faults.filter fun r => r.pending || q.waits r.fid
      let n := min 64 pending.length
      { q with ring := pending.take 64, waitingRecs := pending.drop 64, ringRead := q.ringWrite, ringWrite := q.ringWrite + wN n, faultIrq := q.faultIrq + n }))) ∧
  (on = false ∨ s.device.frozen = true → Sys2Proof.Machine.exec .bellWord s = .next s) ∧
  (on = true → s.device.frozen = false → k ≤ s.partitions.length →
    let n := (if k = 0 then s.device.bell else (s.part (k - 1)).bell) + 1
    Yields .bellWord s fun t => (if k = 0 then t.device.bell else (t.part (k - 1)).bell) = n ∧ t.flocks = s.flocks ∧ t.hbm = s.hbm ∧
      t.hostMem = if s.device.belladdr = 0 then s.hostMem else cellsWrite s.hostMem (s.device.belladdr.toNat + 8 * k) (leBytes 8 n.toNat)) ∧
  Sys2Proof.Machine.exec .freezePin s = .next (device fun d => { d with frozen := true }) ∧
  Sys2Proof.Machine.exec .freezeWrite s = .next (if s.subject.x.getLsbD 0 then device fun d => { d with frozen := true } else s) ∧
  Sys2Proof.Machine.exec .mctpWritePwrlim s = .next (device fun d => { d with pwrlim := max 1200 (min 2400 (s.subject.x.toNat % 4096)) }) ∧
  (s.device.pwrlim ≤ 2400 → Yields .powerWindow s fun t => t.device.pwrnow ≤ s.device.pwrlim ∧ (t.device.throttle = true ↔ s.device.pwrlim < s.subject.x.toNat) ∧
    t = device fun d => { d with pwrnow := t.device.pwrnow, throttle := t.device.throttle }) ∧
  (s.subject.x.toNat < 512 → Sys2Proof.Machine.exec .loadStoreDomainJoin s = .next (device fun d => { d with rank := s.subject.x.toNat, joined := true })) ∧
  (512 ≤ s.subject.x.toNat → Sys2Proof.Machine.exec .loadStoreDomainJoin s = .next s)

/-- A command's answer: RESULT in MBSTAT[15:8] with BUSY 0, and MSI-X vector 1 of the function (R375, R377). -/
def Sys2Proof.Machine.State.answers (s : State) (fn result : Nat) : State :=
  let t := if fn = 0 then { s with device := { s.device with mbstat := wN (256 * result) } } else s.modPart (fn - 1) fun q => { q with mbstat := wN (256 * result) }
  { t with device := { t.device with msix := t.device.msix ++ [(fn, 1)] } }
/-- R350, R363, R367, R375, R378, R381, R384: the mailbox commands of a core that runs. RESYNC and ATTEST write at MBARG; RESUME resumes a stream; KEYGEN fills an
empty slot with a fresh key, KEYASSIGN gives a keyed slot to a partition, KEYCLEAR empties it; PARTCFG takes a legal record of an idle partition. A
VF's mailbox refuses all but RESUME and ATTEST with RESULT 2; a reserved argument bit gives RESULT 1; a command for a core that does not run waits, and RESUME at the PF
waits for the core of the partition it names (both readings: log 56). RESULT 1 and 3 and a KEYASSIGN that moves a slot are log 57. -/
def Sys2Proof.Rules.MailboxCommands : Prop := ∀ (s : State) (fn : Nat), s.subject.k = fn → fn ≤ s.partitions.length → fn ≤ 16 →
  let commands : List Instr := [.mbResync, .mbResume, .mbKeygen, .mbKeyassign, .mbKeyclear, .mbAttest, .mbPartcfg]
  let cmd := (if fn = 0 then s.device.mbcmd else (s.part (fn - 1)).mbcmd).toNat
  let addr := (if fn = 0 then s.device.mbarg else (s.part (fn - 1)).mbarg).toNat
  let busy := (if fn = 0 then s.device.mbstat else (s.part (fn - 1)).mbstat).getLsbD 0
  let arg := cmd / 256
  let runs := busy = true ∧ s.device.coresOn.getD fn false = true
  let key (slot : Nat) : Nat := assocGet 0 s.device.slots slot
  let answers (i : Instr) (code result : Nat) (t : State) : Prop := runs → cmd % 256 = code → Sys2Proof.Machine.exec i s = .next (t.answers fn result)
  let drop (slot : Nat) (s : State) : State := { s with partitions := s.partitions.map fun q => { q with keys := q.keys.filter (· ≠ slot) } }
  (∀ j i, commands[j]? = some i → (¬runs ∨ cmd % 256 ≠ j + 1 → Sys2Proof.Machine.exec i s = .next s) ∧
    (fn ≠ 0 → j ≠ 1 → j ≠ 5 → answers i (j + 1) 2 s) ∧ (fn = 0 → j = 0 ∨ j = 5 → arg ≠ 0 → answers i (j + 1) 1 s) ∧ (fn = 0 → j = 2 ∨ j = 4 → 1024 ≤ arg → answers i (j + 1) 1 s)) ∧
  (fn = 0 → arg = 0 → answers .mbResync 1 0 ((s.hostWrite addr s.summary).msix 0 0)) ∧
  (let p := if fn = 0 then arg / 2 ^ 16 % 16 else fn - 1
   let good := (arg % 4 = 1 ∨ arg % 4 = 2) ∧ arg / 4 % 2 ^ 14 = 0 ∧ arg < 2 ^ 20 ∧ (fn ≠ 0 → arg / 2 ^ 16 = 0)
   let able := fn ≠ 0 ∨ s.device.coresOn.getD (arg / 2 ^ 16 % 16 + 1) false = true
   (¬able → cmd % 256 = 2 → Sys2Proof.Machine.exec .mbResume s = .next s) ∧ (able → ¬good → answers .mbResume 2 1 s) ∧
   (able → good → p < s.partitions.length → answers .mbResume 2 0 (s.modPart p fun q => if q.sq.faulted then
      { q with sq := { q.sq with faulted := false, cause := 0, detail := 0, read := if arg % 4 = 2 then q.sq.read + 1 else q.sq.read } } else q))) ∧
  (fn = 0 → arg < 1024 → (key arg ≠ 0 → answers .mbKeygen 3 3 s) ∧
    (key arg = 0 → answers .mbKeygen 3 0 { s with device := { s.device with slots := assocSet 0 arg s.device.keySerial s.device.slots, keySerial := s.device.keySerial + 1 } })) ∧
  (fn = 0 → let slot := arg % 1024
    let good := arg / 2 ^ 10 % 2 ^ 6 = 0 ∧ arg < 2 ^ 20
    (¬good → answers .mbKeyassign 4 1 s) ∧ (good → key slot = 0 ∨ slot = 1023 → answers .mbKeyassign 4 3 s) ∧
    (good → key slot ≠ 0 → slot ≠ 1023 → answers .mbKeyassign 4 0 ((drop slot s).modPart (arg / 2 ^ 16) fun q => { q with keys := q.keys ++ [slot] }))) ∧
  (fn = 0 → arg < 1024 → (arg = 1023 → answers .mbKeyclear 5 3 s) ∧
    (arg ≠ 1023 → ∃ v, Beside (drop arg s) v ∧ answers .mbKeyclear 5 0 { v with device := { v.device with slots := assocSet 0 arg 0 s.device.slots } })) ∧
  (arg = 0 → ∃ report, report.length = 320 ∧ report.take 32 = cellsRead s.hostMem addr 32 ∧ field report 36 1 = (if fn = 0 then 0xFF else fn - 1) ∧
    (s.device.dm0.length = 64 → (report.drop 48).take 64 = s.device.dm0) ∧ (s.device.dm1.length = 64 → (report.drop 112).take 64 = s.device.dm1) ∧
    field report 240 4 = 0x0002A956 ∧ answers .mbAttest 6 0 ((s.hostFetch addr 32).hostWrite addr report)) ∧
  (∀ a n bs, (∃ old, s.hostWrite a bs = { s with
      hostMem := cellsWrite s.hostMem a bs, oldEntries := old, device := { s.device with requests := s.device.requests ++ [⟨0, a, bs.length, .write⟩] } }) ∧
    s.hostFetch a n = { s with device := { s.device with requests := s.device.requests ++ [⟨0, a, n, .read⟩] } }) ∧
  (fn = 0 → let bs := cellsRead s.hostMem addr 64
    (16 ≤ arg → answers .mbPartcfg 7 1 s) ∧
    (arg < 16 → ((s.part arg).sq.enable = true ∨ (s.part arg).window ≠ [] ∨ ∃ f ∈ s.flocks, f.p = arg ∧ f.status ≠ .retired ∧ f.status ≠ .aborted) → answers .mbPartcfg 7 3 s) ∧
    (arg < 16 → (s.part arg).sq.enable = false → (s.part arg).window = [] → (∀ f ∈ s.flocks, f.p ≠ arg) →
      (s.partcfgLegal arg bs = false → answers .mbPartcfg 7 1 s) ∧
      (s.partcfgLegal arg bs = true → answers .mbPartcfg 7 0 ((s.hostFetch addr 64).modPart arg fun q => { q with pendingConfig := some {
          gbase := field bs 0 8, glen := field bs 8 8, hvbase := field bs 16 8, counts := (List.range 5).map fun k => field bs (24 + 4 * k) 4 } }))))

/-- R226, R231, R368, R376, R377: the host. A read of a register gives its bytes and changes nothing else; a read of BAR2 gives the bytes that the partition's page
table maps, a refused one none, with an interrupt; a write to BAR2 likewise; a frozen device answers no read and drops every write. A write to BAR0 is
that of its register, and of a register with an event of its own, that event. The widths of register accesses (log 60) and the vector of a refused access
(log 62) are the model's. -/
def Sys2Proof.Rules.HostAccess : Prop := ∀ (s : State) (fn off n : Nat), s.subject.k = fn → s.subject.x.toNat = off →
  let bs := s.subject.bytes
  let replies (t : State) (r : Option (List Byte)) : State := { t with device := { t.device with reply := r } }
  let refused (t : State) : State := { t with device := { t.device with msix := t.device.msix ++ [(fn, 2)] } }
  (s.subject.u = n →
    (s.device.frozen = true → Sys2Proof.Machine.exec .hostRead s = .next (replies s none)) ∧
    (s.device.frozen = false → s.subject.m = 0 → off % 8 + n ≤ 8 →
      let reg := off / 8 * 8
      let value := if fn ≠ 0 then s.vfReg (fn - 1) reg else if off < 0x10000 then s.pfReg reg else s.vfReg (off / 0x10000 - 1) (reg % 0x10000)
      Sys2Proof.Machine.exec .hostRead s = .next (replies s (some ((List.range n).map fun k => BitVec.ofNat 8 (value / 256 ^ (off % 8 + k)))))) ∧
    (s.device.frozen = false → s.subject.m = 2 → fn ≠ 0 → off + n ≤ 2 ^ 40 →
      (∀ data x, s.readVa (fn - 1) none off n = .ok (data, x) → Sys2Proof.Machine.exec .hostRead s = .next (replies (s.served (fn - 1) off n) (some data))) ∧
      ((∃ va, s.readVa (fn - 1) none off n = .absent va) ∨ (∃ e, s.readVa (fn - 1) none off n = .err e) →
        Sys2Proof.Machine.exec .hostRead s = .next (refused (replies (s.served (fn - 1) off n) none))))) ∧
  (s.device.frozen = true → Sys2Proof.Machine.exec .hostWrite s = .next s) ∧
  (s.device.frozen = false → s.subject.m = 2 → fn ≠ 0 → off + bs.length ≤ 2 ^ 40 →
    (∀ t x, s.hostWriteVa (fn - 1) off bs = (t, .ok x) → Sys2Proof.Machine.exec .hostWrite s = .next t) ∧
    (∀ t, (∃ va, s.hostWriteVa (fn - 1) off bs = (t, .absent va)) ∨ (∃ e, s.hostWriteVa (fn - 1) off bs = (t, .err e)) →
      Sys2Proof.Machine.exec .hostWrite s = .next (refused t))) ∧
  (s.device.frozen = false → s.subject.m = 0 → ∀ p, fn = p + 1 →
    let x : DWord := BitVec.ofNat 64 (field bs 0 8)
    let as (i : Instr) (k : Nat) : Prop := ∀ t, Sys2Proof.Machine.exec i { s with subject := { s.subject with p := p, k := k, x := x, on := x.getLsbD 0 } } = .next t →
      Sys2Proof.Machine.exec .hostWrite s = .next { t with subject := s.subject }
    (off = 0x0010 → as .sqwriteWrite 0) ∧ (off = 0x0030 → x.toNat / 2 % 4 = 0 → as .sqctlEnable 0) ∧
    (off = 0x1010 → as (if x.getLsbD 11 then .tlbinvAll else .tlbinvPage) 0) ∧ (off = 0x1048 → as .chkpush 0) ∧ (off = 0x2010 → as .btvalWrite 0) ∧
    (off = 0x3008 → x.getLsbD 8 = true → as .crkctlLoad 0) ∧ (off = 0x5000 → as .expbaseWrite 0) ∧
    (∀ q, q < 16 → off = 0x2040 + 8 * q → as (if x.getLsbD 0 then .bqdescEnable else .bqdescDisable) q) ∧
    (∀ mask idle, (off, mask, idle) ∈ plainRegisters → Sys2Proof.Machine.exec .hostWrite s = .next (s.writeVf p off x false)))

/-- R19, R59, R227, R341, R342, R369, R375, R380, R384, R385: peers, management and errors. A peer's access goes through the export table: a read gives the bytes, a
write and an atomic change them and nothing else; a refused one, or one to a code word whose check bits fail, answers nothing. A frozen device's scratchpad and registers can be read out.
A corrected error is counted, another fails the check bits of the structure it names, one of the L2 only where the L2 holds the line; a scrubbed bad word is
reported. The model's choices: a peer's atomics (log 61), the counters and vector 2 (log 62), and the read-out (log 63). -/
def Sys2Proof.Rules.PeersAndErrors : Prop := ∀ (s : State),
  let e := s.subject
  let replies (t : State) (r : Option (List Byte)) : State := { t with device := { t.device with reply := r } }
  let a := e.x.toNat
  let export_ (n : Nat) (wr : Bool) : Option Nat := if s.device.joined then (s.exported e.p e.k e.m a n wr).map Prod.fst else none
  let access (n : Nat) (wr : Bool) (P : Nat → State → Prop) : Prop :=
    (export_ n wr = none → Sys2Proof.Machine.exec .peerAccess s = .next (replies s none)) ∧
    (∀ key, export_ n wr = some key → s.bad = [] → ∃ v, Beside s v ∧ P key v) ∧
    (∀ w, export_ n wr ≠ none → BadWord.hbm w ∈ s.bad → (∀ x ∈ s.l2, x.line ≠ w / 4) → 32 * w < a + n → a < 32 * w + 32 →
      Yields .peerAccess s fun t => t.device.reply = none ∧ t.memoryPart = s.memoryPart)
  (e.on = false → e.lane = 0 → access e.u false fun key v => Sys2Proof.Machine.exec .peerAccess s = .next (replies v (some (s.hbmRead key a e.u)))) ∧
  (e.on = true → access e.bytes.length true fun key v => Sys2Proof.Machine.exec .peerAccess s =
    .next (replies ((v.noteHbm .peer key a e.bytes.length).hbmWrite key a e.bytes) (some []))) ∧
  (e.on = false → 0 < e.lane → access 4 true fun key v =>
    let old := s.hbmRead key a 4
    let x : Word := wN (ofBytes old)
    let y : Word := e.y.setWidth 32
    ∀ new, (e.lane, new) ∈ [(1, wN (x.toNat + y.toNat)), (2, if x.toInt ≤ y.toInt then x else y), (3, if x.toInt ≤ y.toInt then y else x),
        (4, if x.toNat ≤ y.toNat then x else y), (5, if x.toNat ≤ y.toNat then y else x), (6, x &&& y), (7, x ||| y), (8, x ^^^ y), (9, y)
        , (10, if x = (e.y >>> 32).setWidth 32 then y else x), (11, (stepFadd e.u x y).new), (12, (stepFmin e.u x y).new), (13, (stepFmax e.u x y).new)
        , (14, (stepAdd2 true e.u x y).new), (15, (stepAdd2 false e.u x y).new)] →
      Sys2Proof.Machine.exec .peerAccess s = .next (replies ((v.noteHbm .peer key a 4).hbmWrite key a (leBytes 4 new.toNat)) (some old))) ∧
  (s.device.frozen = false → Sys2Proof.Machine.exec .mctpReadout s = .next (replies s none)) ∧
  (s.device.frozen = true → a / 2 ^ 44 % 16 = 6 → Yields .mctpReadout s fun t => ∃ bs, t = replies s (some bs) ∧ bs.length = e.u ∧
    ∀ k, k < e.u → a % 2 ^ 32 + k < 0x10000 → bs.getD k 0 = BitVec.ofNat 8 (s.vfReg (a / 2 ^ 32 % 2 ^ 12) ((a % 2 ^ 32 + k) / 8 * 8) / 256 ^ ((a % 2 ^ 32 + k) % 8))) ∧
  Sys2Proof.Machine.exec .mctpReadCertificate s = .next (replies s (some ((Config.certificate.drop a).take e.u))) ∧
  (BadWord.hbm (a / 32) ∈ s.bad → s.device.eccstk.length = 8 → Yields .uncorrFound s fun t => t.device.errors = s.device.errors ++ [a] ∧
    t.device.msix = s.device.msix ++ [(0, 2)] ∧ t.memoryPart = s.memoryPart ∧ t.flocks = s.flocks ∧ t.partitions = s.partitions ∧
    let k := s.device.stackOf a
    let old := (s.device.eccstk.getD k 0).toNat
    (t.device.eccstk.getD k 0).toNat = min (old / 2 ^ 32 + 1) (2 ^ 32 - 1) * 2 ^ 32 + old % 2 ^ 32 ∧ ∀ j, j ≠ k → t.device.eccstk.getD j 0 = s.device.eccstk.getD j 0) ∧
  (BadWord.hbm (a / 32) ∉ s.bad → Sys2Proof.Machine.exec .uncorrFound s = .next s) ∧
  (e.on = true → e.k ≠ 0 → e.y.toNat < s.device.eccdie.length → Yields .storageError s fun t =>
    let d := e.y.toNat
    let old := (s.device.eccdie.getD d 0).toNat
    t = { s with device := { s.device with eccdie := t.device.eccdie } } ∧
    (t.device.eccdie.getD d 0).toNat = old / 2 ^ 32 * 2 ^ 32 + min (old % 2 ^ 32 + 1) (2 ^ 32 - 1) ∧ ∀ j, j ≠ d → t.device.eccdie.getD j 0 = s.device.eccdie.getD j 0) ∧
  (e.on = false → ∀ b : BadWord, (e.k, b) ∈ [(0, BadWord.hbm (a / 32)), (5, BadWord.tlb e.p a), (2, BadWord.scratch e.y.toNat e.m a), (3, BadWord.tile e.y.toNat e.m a)
      , (4, BadWord.tag e.y.toNat e.m a)] →
    Sys2Proof.Machine.exec .storageError s = .next (if b ∈ s.bad then s else { s with bad := s.bad ++ [b] })) ∧
  (e.on = false → e.k = 1 → ∀ r : Fin 24, a = r.val → let b := BadWord.reg e.y.toNat e.m e.u e.lane (.v r)
    Sys2Proof.Machine.exec .storageError s = .next (if b ∈ s.bad then s else { s with bad := s.bad ++ [b] })) ∧
  (e.on = false → e.k = 6 → Sys2Proof.Machine.exec .storageError s = .next
    (if (∃ x ∈ s.l2, x.line = a / 128) ∧ BadWord.l2 (a / 8) ∉ s.bad then { s with bad := s.bad ++ [.l2 (a / 8)] } else s))

/-- R19, R59, R60, R326: the group of a lane whose chain starts with an illegal word takes ILLEGAL with address 0, and one that stands at or beyond its code
object's length takes PROTFAULT with that word's address; each thread outside trap mode goes to its handler with its PC recorded. -/
def Sys2Proof.Rules.ChainsThatTrap : Prop := ∀ (s : State) (f u lane : Nat) (fl : Flock) (wg : Workgroup) (w : Warp) (g : Group), s.subject.k = f → s.subject.m = 0 →
  s.subject.u = u → s.subject.lane = lane → s.flock? f = some fl → fl.status = .resident → fl.wgs = [wg] → wg.herder = none → wg.warps[u]? = some w → u < 32 →
  g ∈ w.groups → lane ∈ g.lanes → (∀ l ∈ g.lanes, (w.thread l).trapMode = false ∧ (w.thread l).trapvec.toNat % 2 ^ 24 ≠ 0) →
  let traps (cause : Nat) (addr : DWord) (t : State) : Prop := ∀ l ∈ g.lanes, ∃ k, t.thread? f 0 u l = some k ∧ k.life = .live ∧ k.trapMode = true ∧
    k.trapcause = wN cause ∧ k.trappc = (w.thread l).pc.setWidth 32 ∧ k.trapaddr = addr ∧ k.pc = (w.thread l).trapvec.setWidth 24
  ((s.chainAt f g.pc).stop = none → (∃ c rest, (s.chainAt f g.pc).words = c :: rest ∧ c.instr = none) → Yields .illegalWord s (traps 0x01 0)) ∧
  ((s.chainAt f g.pc).stop = none → (∀ c ∈ (s.chainAt f g.pc).words, c.instr ≠ none) → Sys2Proof.Machine.exec .illegalWord s = .next s) ∧
  (fl.launch.codelen ≤ g.pc → Yields .fetchBeyondCodeObject s (traps 0x06 (BitVec.ofNat 64 (fl.launch.code + 4 * g.pc)))) ∧
  (g.pc < fl.launch.codelen → Sys2Proof.Machine.exec .fetchBeyondCodeObject s = .next s)

/-! ## Collectives -/

/-- Communicator k of a partition stands at a legal step t of its one run r. -/
def Sys2Proof.Machine.AtStep (s : State) (p k : Nat) (r : CollRun) (c : Communicator) (t : Step) : Prop :=
  s.subject.p = p ∧ s.subject.k = k ∧ p < s.partitions.length ∧ r ∈ (s.part p).colls ∧ r.comm = k ∧ (∀ x ∈ (s.part p).colls, x.comm = k → x = r) ∧
  s.comm? p k = some c ∧ (r.steps[r.pos]?).map parseStep = some t ∧ t.legal = true ∧
  (t.comp = true → t.red % 16 ∈ [0, 1, 8] ∧ admitsFour c.contract = true ∧ c.efbase ≠ 0)
/-- The state with a communicator's run replaced, and nothing else. -/
def Sys2Proof.Machine.State.withRun (s : State) (p k : Nat) (r : CollRun) : State :=
  s.modPart p fun q => { q with colls := q.colls.map fun x => if x.comm = k then r else x }
/-- R391-R394, R396, R397, R400, R402: what a collective step does. SEND, RECV, RRS, LCOPY and an ARM whose counter stands start a transfer, the next one
between its two members, and the program goes on; a step whose peer is absent is skipped, but an RRS copies; 16 started transfers or 32 armed sends hold the
program; a range outside its slot aborts with REGION; a transfer of no bytes waits until its length has been compared, and is over then (log 65); CWAIT waits for its counter; an illegal step aborts with BADSTEP. -/
def Sys2Proof.Rules.CollectiveSteps : Prop := ∀ (s : State) (p k : Nat) (r : CollRun) (c : Communicator) (t : Step), AtStep s p k r c t →
  let at_ (i : Instr) (u : State) : Prop := Sys2Proof.Machine.exec i s = .next u
  let on (q : CollRun) : State := s.withRun p k { q with pos := r.pos + 1, since := s.cycle }
  let skips (i : Instr) : Prop := at_ i (on r)
  let sent (m : Nat) : Nat := assocGet 0 r.sends m
  let got (m : Nat) : Nat := assocGet 0 r.recvs m
  let src := s.localRange p r t t.src false
  let dst := s.localRange p r t t.dst true
  let started (i : Instr) (x : Transfer) (q : CollRun) : Prop := r.started.length < 16 → r.armed = [] → r.staged = [] → r.contributions = [] → c.ranks ≠ [] →
    (∀ y ∈ r.started, y.complete = false) →
      at_ i (on { q with started := if t.len = 0 ∧ (x.kind = .copy ∨ (x.kind = .rrs ∧ x.source = none ∧ x.dest = none)) then r.started else r.started ++ [x] })
  let held (i : Instr) : Prop := 16 ≤ r.started.length → at_ i s
  let outside (i : Instr) : Prop := r.started.length < 16 → at_ i (s.abortRun p k 0x07)
  let x (kind : TransferKind) (a b : Option LocalRange) (goal came : Option (Nat × Nat)) (n : Nat) : Transfer :=
    { kind := kind, src := a, dst := b, len := t.len, red := t.red, ctr := t.ctr, thr := t.thr, cnt := t.flags.testBit 2, comp := t.flags.testBit 6, dest := goal
      source := came, index := n, got := 0, out := 0
      results := if t.len = 0 ∧ kind = .rrs ∧ came = none ∧ goal ≠ none then [[]] else []
      unmatched := decide (t.len = 0 ∧ kind ≠ .copy ∧ (kind = .rrs → came ≠ none)) }
  (∀ (y : Nat) (wr : Bool) (task : Task) (g : Region), s.task? p r.seq = some task → task.regions.getD (y / 2 ^ 61 % 8) none = some g → g.rows ≤ 1 ∨ g.rowbytes ≤ g.pitch → 0 < t.len →
    let off := y % 2 ^ 40 + if t.flags.testBit 3 then t.len * ((r.loops.map LoopLevel.iter).getD (t.flags / 16 % 4) 0) else 0
    s.localRange p r t y wr = if (if wr then g.mode ≠ 1 else g.mode ≠ 2) ∧ ∀ j < t.len, (if g.rows ≤ 1 then off + j < g.bytes else (off + j) / g.pitch < g.rows ∧ (off + j) % g.pitch < g.rowbytes)
      then some ⟨y / 2 ^ 61 % 8, off, g.base + g.offset + off⟩ else none) ∧
  (t.op = 0x01 → t.flags.testBit 0 = false →
    (r.member c t.peer = none → skips .collSend) ∧
    (∀ m, r.member c t.peer = some m → held .collSend ∧ (src = none → outside .collSend) ∧
      ∀ a, src = some a → started .collSend (x .send (some a) none (some (m, sent m)) none 0) { r with sends := assocSet 0 m (sent m + 1) r.sends })) ∧
  (t.op = 0x01 → t.flags.testBit 0 = true → held .collSend ∧ (src = none → outside .collSend) ∧
    ∀ a, src = some a → started .collSend (x .poolSend (some a) none none none r.poolSends) { r with poolSends := r.poolSends + 1 }) ∧
  (t.op = 0x02 → t.flags.testBit 0 = false →
    (r.member c t.peer = none → skips .collRecv) ∧
    (∀ m, r.member c t.peer = some m → held .collRecv ∧ (dst = none → outside .collRecv) ∧
      ∀ b, dst = some b → started .collRecv (x .recv none (some b) none (some (m, got m)) 0) { r with recvs := assocSet 0 m (got m + 1) r.recvs })) ∧
  (t.op = 0x02 → t.flags.testBit 0 = true → held .collRecv ∧ (dst = none → outside .collRecv) ∧
    ∀ b, dst = some b → started .collRecv (x .poolRecv none (some b) none none r.poolRecvs) { r with poolRecvs := r.poolRecvs + 1 }) ∧
  (t.op = 0x03 → held .collRrs ∧ (src = none ∨ dst = none → outside .collRrs) ∧
    ∀ a b, src = some a → dst = some b → started .collRrs
      (x .rrs (some a) (some b) ((r.member c t.peer2).map fun m => (m, sent m)) ((r.member c t.peer).map fun m => (m, got m)) 0)
      { r with
        sends := match r.member c t.peer2 with | some m => assocSet 0 m (sent m + 1) r.sends | none => r.sends
        recvs := match r.member c t.peer with | some m => assocSet 0 m (got m + 1) r.recvs | none => r.recvs }) ∧
  (t.op = 0x04 → held .collLcopy ∧ (src = none ∨ dst = none → outside .collLcopy) ∧
    ∀ a b, src = some a → dst = some b → started .collLcopy (x .copy (some a) (some b) none none 0) r) ∧
  (t.op = 0x05 → (t.thr ≤ r.counters.getD t.ctr 0 → skips .collCwait) ∧ (r.counters.getD t.ctr 0 < t.thr → at_ .collCwait s)) ∧
  (t.op = 0x06 →
    (r.member c t.peer = none → skips .collArm) ∧
    (∀ m, r.member c t.peer = some m →
      (t.thr ≤ r.counters.getD t.ctr 0 → held .collArm ∧ (src = none → outside .collArm) ∧
        ∀ a, src = some a → started .collArm (x .send (some a) none (some (m, sent m)) none 0) { r with sends := assocSet 0 m (sent m + 1) r.sends }) ∧
      (r.counters.getD t.ctr 0 < t.thr →
        (32 ≤ r.armed.length → at_ .collArm s) ∧ (src = none → r.armed.length < 32 → at_ .collArm (s.abortRun p k 0x07)) ∧
        ∀ a, src = some a → r.armed.length < 32 → at_ .collArm (on { r with armed := r.armed ++ [x .send (some a) none (some (m, 0)) none 0] }))))

/-- R391, R393, R394, R395, R402: a step that is not legal aborts its program with BADSTEP when it is reached, and so does a compressed send that its format, its
contract or the missing error-feedback buffer forbids (RED is that of SEND and ARM too: log 65). A peer spec names its virtual peer, or is absent. LOOP opens a level, with LEN = 0 it goes to the step after its ENDL;
ENDL returns while iterations remain; a fifth level (with LEN = 0 too), an ENDL without one, and a program that ends in one abort with LOOPNEST. CBAR waits for the member's own
steps and for every other member, whose arrival is an event (log 64). -/
def Sys2Proof.Rules.CollectiveControl : Prop := ∀ (s : State) (p k : Nat) (r : CollRun) (c : Communicator), s.subject.p = p → s.subject.k = k → p < s.partitions.length →
  r ∈ (s.part p).colls → r.comm = k → (∀ x ∈ (s.part p).colls, x.comm = k → x = r) → s.comm? p k = some c →
  let n := c.ranks.length
  let vr := (c.own + (n - r.root)) % n
  (∀ (w : Walker) (y : Nat), 0 < n → vr < n →
    let v := y % 512 + if y.testBit 11 then (w.loops.map LoopLevel.iter).getD (y / 512 % 4) 0 else 0
    let pow : Int := if y.testBit 13 then (vr : Int) - 2 ^ v else (vr : Int) + 2 ^ v
    (y / 2 ^ 14 % 4 = 0 → w.peer n vr y = some ((vr + v) % n)) ∧
    (y / 2 ^ 14 % 4 = 1 → w.peer n vr y = if Nat.xor vr v < n then some (Nat.xor vr v) else none) ∧
    (y / 2 ^ 14 % 4 = 2 → w.peer n vr y =
      if pow < 0 ∨ (n : Int) ≤ pow ∨ (y.testBit 12 ∧ ¬y.testBit 13 ∧ 2 ^ v ≤ vr) ∨ (y.testBit 12 ∧ y.testBit 13 ∧ ¬(2 ^ v ≤ vr ∧ vr < 2 ^ (v + 1))) then none else some pow.toNat) ∧
    (y / 2 ^ 14 % 4 = 3 → w.peer n vr y = w.peers.getD (y % 4) none)) ∧
  (∀ y, r.member c y = (r.walker.peer n vr y).map fun vp => (vp + r.root) % n) ∧
  ∀ b, r.steps[r.pos]? = some b →
    let t := parseStep b
    let on (q : CollRun) : State := s.withRun p k { q with since := s.cycle }
    let named : List (Nat × Instr) := [(1, .collSend), (2, .collRecv), (3, .collRrs), (4, .collLcopy), (5, .collCwait), (6, .collArm), (7, .collLoop), (8, .collEndl), (9, .collPeer), (10, .collCbar)]
    (∀ i ∈ named, t.op = i.1 →
      t.legal = false ∨ (t.flags.testBit 6 = true ∧ ¬(t.red % 16 ∈ [0, 1, 8] ∧ admitsFour c.contract = true ∧ c.efbase ≠ 0)) →
        Sys2Proof.Machine.exec i.2 s = .next (s.abortRun p k 0x01)) ∧
    (∀ i ∈ named, t.op ≠ i.1 → Sys2Proof.Machine.exec i.2 s = .next s) ∧
    (t.op = 0 ∨ 10 < t.op → Sys2Proof.Machine.exec .illegalStep s = .next (s.abortRun p k 0x01)) ∧
    (0 < t.op → t.op ≤ 10 → Sys2Proof.Machine.exec .illegalStep s = .next s) ∧
    (t.op = 0x07 → t.legal = true → 0 < t.len → r.loops.length < 4 →
      Sys2Proof.Machine.exec .collLoop s = .next (on { r with pos := r.pos + 1, loops := r.loops ++ [⟨r.pos + 1, t.len, 0⟩] })) ∧
    (t.op = 0x07 → t.legal = true → 4 ≤ r.loops.length → Sys2Proof.Machine.exec .collLoop s = .next (s.abortRun p k 0x02)) ∧
    (t.op = 0x07 → t.legal = true → t.len = 0 → r.loops.length < 4 → ∀ e, r.pos < e →
      let opAt (j : Nat) : Nat := (r.steps.getD j []).headD 0 |>.toNat
      let inside (j a : Nat) : Nat := ((List.range j).filter fun i => r.pos < i ∧ opAt i = a).length
      e < r.steps.length → opAt e = 8 → inside e 7 = inside e 8 → (∀ j, r.pos < j → j < e → inside (j + 1) 8 ≤ inside (j + 1) 7) →
        Sys2Proof.Machine.exec .collLoop s = .next (on { r with pos := e + 1 })) ∧
    (t.op = 0x08 → t.legal = true →
      (r.loops = [] → Sys2Proof.Machine.exec .collEndl s = .next (s.abortRun p k 0x02)) ∧
      (∀ ls l, r.loops = ls ++ [l] →
        (l.iter + 1 < l.count → Sys2Proof.Machine.exec .collEndl s = .next (on { r with pos := l.start, loops := ls ++ [{ l with iter := l.iter + 1 }] })) ∧
        (l.count ≤ l.iter + 1 → Sys2Proof.Machine.exec .collEndl s = .next (on { r with pos := r.pos + 1, loops := ls })))) ∧
    (t.op = 0x09 → t.legal = true → r.peers.length = 4 →
      Sys2Proof.Machine.exec .collPeer s = .next (on { r with pos := r.pos + 1, peers := r.peers.set t.thr (r.walker.peer n vr t.peer) })) ∧
    (t.op = 0x0A → t.legal = true → r.atBar = false → 1 < n → Sys2Proof.Machine.exec .collCbar s = .next (on { r with atBar := true })) ∧
    (t.op = 0x0A → t.legal = true → r.atBar = true → 1 < n → Sys2Proof.Machine.exec .collCbar s = .next s) ∧
    (t.op = 0x0A → t.legal = true → r.atBar = false → n = 1 →
      (r.started = [] → Sys2Proof.Machine.exec .collCbar s = .next (on { r with pos := r.pos + 1 })) ∧
      (r.started ≠ [] → Sys2Proof.Machine.exec .collCbar s = .next (on { r with atBar := true }))) ∧
    (r.atBar = true → r.started = [] → Sys2Proof.Machine.exec .collCbarRelease s = .next (on { r with atBar := false, pos := r.pos + 1 })) ∧
    (r.atBar = false ∨ r.started ≠ [] → Sys2Proof.Machine.exec .collCbarRelease s = .next s)

/-- R392, R396-R400, R404: chunks of 4 KiB. A boundary moves the next chunk of a copy, of a send with a credit, or of an RRS without a first peer; what arrives is
written to the receive that it matches, reduced with the member's own bytes for an RRS; then the counter rises if CNT asks. A chunk is
staged whole in the lowest free buffer of the communicator's pool (log 66), where it waits for a receive that is not there yet, and lengths that differ abort with LENMISMATCH. A pooled chunk is
the reduction of every member's contribution, made when the last one arrives. PEERDOWN is the code of an access that a peer refuses (log 44). -/
def Sys2Proof.Rules.CollectiveChunks : Prop := ∀ (s : State) (p k : Nat) (r : CollRun) (c : Communicator) (x : Transfer), s.subject.p = p → s.subject.k = k → p < s.partitions.length →
  (s.part p).colls = [r] → (s.part p).comms = [c] → r.comm = k → c.id = k → r.started = [x] → r.armed = [] → r.staged = [] → x.got < x.len → x.out < x.len →
  x.unmatched = false → (s.task? p r.seq).any Task.debug = false → c.isSealed = false →
  let st : Option Stamped := some ⟨c.contract, r.mask⟩
  let n := min 4096 (x.len - x.got)
  let sends := min 4096 (x.len - x.out)
  let credit : Prop := s.subject.bytes = [BitVec.ofNat 8 k] ∧ k < 64
  let wrote (v u : State) (d : LocalRange) (more : List (List Byte)) : Prop := u.memoryPart = v.memoryPart ∧ ∃ q, (u.part p).colls = [q] ∧
    q.counters = (if x.cnt then r.counters.modify x.ctr (· + 1) else r.counters) ∧
    q.started = (if x.got + n < x.len ∨ more ≠ [] then [{ x with got := x.got + n, results := more }] else []) ∧
    (∀ slot j, (slot, j) ∈ q.written ↔ (slot, j) ∈ r.written ∨ (slot = d.slot ∧ d.off + x.got < 4096 * (j + 1) ∧ 4096 * j < d.off + x.got + n)) ∧
    q.pos = r.pos ∧ q.staged = [] ∧ q.since = s.cycle
  (∀ a d bs y v z, x.kind = .copy ∨ (x.kind = .rrs ∧ x.source = none) → x.results = [] → x.src = some a → x.dst = some d → s.readVa p st (a.va + x.got) n = .ok (bs, y) →
    (s.served p (a.va + x.got) n).writeVa p st (d.va + x.got) bs (.task p r.seq) = (v, .ok z) → Yields .collChunkSend s fun u => wrote v u d (if x.kind = .rrs ∧ x.dest ≠ none then [bs] else [])) ∧
  (∀ a m i bs y, x.kind = .send → x.src = some a → x.dest = some (m, i) → m ≠ c.own → x.comp = false → s.readVa p st (a.va + x.out) sends = .ok (bs, y) →
    (credit → Yields .collChunkSend s fun u => (u.part p).sent = (s.part p).sent ++ [⟨k, r.ordinal, some m, i, false, bs⟩] ∧ u.memoryPart = s.memoryPart ∧
      ∃ q, (u.part p).colls = [q] ∧ q.started = (if x.out + sends < x.len then [{ x with out := x.out + sends }] else []) ∧ q.counters = r.counters ∧ q.pos = r.pos) ∧
    (s.subject.bytes = [] → Sys2Proof.Machine.exec .collChunkSend s = .next s)) ∧
  (∀ a bs y, x.kind = .poolSend → x.src = some a → x.dest = none → x.comp = false → r.contributions = [] → s.readVa p st (a.va + x.out) sends = .ok (bs, y) → credit →
    Yields .collChunkSend s fun u => (u.part p).sent = (s.part p).sent ++ [⟨k, r.ordinal, none, x.index, false, bs⟩] ∧ u.memoryPart = s.memoryPart ∧
      ∃ q, (u.part p).colls = [q] ∧ q.contributions = [⟨c.own, x.index, x.out / 4096, x.len, x.red, bs⟩] ∧
        q.started = (if x.out + sends < x.len then [{ x with out := x.out + sends }] else [])) ∧
  (∀ a e, x.kind = .send ∨ x.kind = .poolSend → credit → x.src = some a → x.dest.isSome = (x.kind == .send) → (∀ d ∈ x.dest, d.1 ≠ c.own) → x.results = [] → s.readVa p st (a.va + x.out) sends = e → (∀ v, e ≠ .ok v) →
    Yields .collChunkSend s fun u => u.run? p k = none ∧ u.task? p r.seq = (((s.task? p r.seq).map fun t => if t.isFaulted || t.done then t else
      { t with status := .faulted 0x0E (match e with
        | .err 0x05 => 0x09 | .err 0x07 => 0x0A | .err 0x03 => if s.stopsAtPeer p false (spanFuel sends) (a.va + x.out) sends then 0x04 else 0x08 | _ => 0x08) }))) ∧
  (∀ w zw y, s.subject.on = false → s.subject.lane = 0 → 2 ≤ c.pooln → s.writeVa p st c.poolbase s.subject.bytes (.task p r.seq) = (w, .ok zw) →
    w.readVa p st c.poolbase s.subject.bytes.length = .ok (s.subject.bytes, y) →
    let data := s.subject.bytes
    let w1 := w.served p c.poolbase data.length
    let matched : Prop := x.source = some (s.subject.m, s.subject.u)
    (¬matched → Yields .collChunkReceive s fun u => u.memoryPart = w.memoryPart ∧ ∃ q, (u.part p).colls = [q] ∧ q.started = [x] ∧
      q.staged = [⟨s.subject.m, s.subject.u, s.subject.x.toNat, none, 0, data.length⟩] ∧ q.counters = r.counters) ∧
    (matched → s.subject.x.toNat ≠ x.len ∨ data.length ≠ n → Yields .collChunkReceive s fun u => u.run? p k = none ∧
      u.task? p r.seq = ((s.task? p r.seq).map fun t => if t.isFaulted || t.done then t else { t with status := .faulted 0x0E 0x03 })) ∧
    (matched → s.subject.x.toNat = x.len → data.length = n → ∀ d v z, x.dst = some d →
      (x.kind = .recv → x.results = [] → w1.writeVa p st (d.va + x.got) data (.task p r.seq) = (v, .ok z) → Yields .collChunkReceive s fun u => wrote v u d []) ∧
      (∀ a own y, x.kind = .rrs → x.src = some a → w1.readVa p st (a.va + x.got) n = .ok (own, y) → x.results = [] →
        let sum := reduceBytes (contractOf c.contract) .seqD x.red [data, own]
        (w1.served p (a.va + x.got) n).writeVa p st (d.va + x.got) sum (.task p r.seq) = (v, .ok z) → Yields .collChunkReceive s fun u => wrote v u d (if x.dest = none then [] else [sum])))) ∧
  (∀ (terms : Nat → Contribution) (d : LocalRange), s.subject.on = true → s.subject.lane < 64 → x.kind = .poolRecv → x.index = s.subject.u → x.results = [] → x.dst = some d →
    let m := s.subject.m
    let red := s.subject.lane
    let chunk := x.got / 4096
    (r.contributions.filter fun y => y.member == m && y.index == x.index).length = chunk → x.got % 4096 = 0 →
    (∀ y ∈ r.contributions, y.index = x.index ∧ y.len = x.len ∧ (y.member = m → y.chunk < chunk)) →
    s.subject.bytes.length = min 4096 (s.subject.x.toNat - x.got) →
    (s.subject.x.toNat ≠ x.len ∨ (∃ y ∈ r.contributions, y.red ≠ red) → Yields .collChunkReceive s fun u => u.run? p k = none ∧
      u.task? p r.seq = ((s.task? p r.seq).map fun t => if t.isFaulted || t.done then t else { t with status := .faulted 0x0E 0x03 })) ∧
    (s.subject.x.toNat = x.len → (∀ y ∈ r.contributions, y.red = red) → m < c.size → terms m = ⟨m, x.index, chunk, x.len, red, s.subject.bytes⟩ →
      (∀ j, j < c.size → j ≠ m → terms j ∈ r.contributions ∧ ∀ y ∈ r.contributions, y.member = j ∧ y.chunk = chunk ↔ y = terms j) → ∀ v z,
      let loose := c.contract = 0 ∧ red % 16 ∈ [0, 1, 8] ∧ red / 16 % 4 = 0 ∧ 1 < c.size
      s.writeVa p st (d.va + x.got) (reduceBytes (contractOf c.contract) (contractOf c.contract).grouping red ((List.range c.size).map fun j => (terms j).data)
        (if loose then some s.fresh else none)) (.task p r.seq) = (v, .ok z) →
      Yields .collChunkReceive s fun u => wrote v u d []))

/-- R394, R397: a counter that reaches the threshold of an armed send starts it in the step in which it rises. -/
def Sys2Proof.Rules.ArmedSends : Prop := ∀ (s : State) (p k : Nat) (r : CollRun) (c : Communicator) (x y : Transfer) (a d : LocalRange) (m : Nat) (bs : List Byte) (e z : Bool) (v : State),
  s.subject.p = p → p < s.partitions.length → (s.part p).colls = [r] → (s.part p).comms = [c] → r.comm = k → c.id = k → r.started = [x] → r.armed = [y] → r.staged = [] →
  x.kind = .copy → x.src = some a → x.dst = some d → x.got < x.len → x.cnt = true → x.unmatched = false → (s.task? p r.seq).any Task.debug = false → x.ctr < r.counters.length → y.kind = .send → y.dest = some (m, 0) → y.out < y.len →
  s.readVa p (some ⟨c.contract, r.mask⟩) (a.va + x.got) (min 4096 (x.len - x.got)) = .ok (bs, e) →
  (s.served p (a.va + x.got) (min 4096 (x.len - x.got))).writeVa p (some ⟨c.contract, r.mask⟩) (d.va + x.got) bs (.task p r.seq) = (v, .ok z) →
  let counters := r.counters.modify x.ctr (· + 1)
  let left := if x.got + min 4096 (x.len - x.got) < x.len then [{ x with got := x.got + min 4096 (x.len - x.got) }] else []
  let n := assocGet 0 r.sends m
  Yields .collChunkSend s fun u => u.memoryPart = v.memoryPart ∧ ∃ q, (u.part p).colls = [q] ∧ q.counters = counters ∧
    (y.thr ≤ counters.getD y.ctr 0 → q.armed = [] ∧ q.started = left ++ [{ y with dest := some (m, n) }] ∧ q.sends = assocSet 0 m (n + 1) r.sends) ∧
    (counters.getD y.ctr 0 < y.thr → q.armed = [y] ∧ q.started = left ∧ q.sends = r.sends)

/-- R90, R399: the reduction of two members' elements: S32 sums wrap, S32 minima and maxima compare signed, and a floating-point SUM rounds once to its format, to
nearest even, under the communicator's contract. -/
def Sys2Proof.Rules.CollectiveReductions : Prop := ∀ (c : Contract) (red : Nat) (xs ys : List Nat), xs.length = ys.length →
  let n := if red % 16 = 0 ∨ red % 16 = 1 then 2 else 4
  let f : Fmt := if red % 16 = 0 then .bf16 else if red % 16 = 1 then .fp16 else .fp32
  let val (o : Nat → Nat → Nat) : List Byte := (List.zipWith o xs ys).flatMap (leBytes n)
  let got := reduceBytes c .seqD red [xs.flatMap (leBytes n), ys.flatMap (leBytes n)]
  let lo : Val → Val → Val := fmin c f
  let hi : Val → Val → Val := fmax c f
  (∀ a ∈ xs, a < 256 ^ n) → (∀ b ∈ ys, b < 256 ^ n) →
  (red % 64 = 0x09 → got = val fun a b => (a + b) % 2 ^ 32) ∧
  (red % 64 = 0x19 → got = val fun a b => if (BitVec.ofNat 32 a).toInt < (BitVec.ofNat 32 b).toInt then a else b) ∧
  (red % 64 = 0x29 → got = val fun a b => if (BitVec.ofNat 32 b).toInt < (BitVec.ofNat 32 a).toInt then a else b) ∧
  (red % 64 ∈ [0x00, 0x01, 0x08] → got = val fun a b => encode f (fadd c f (flushIn c f (decode f a)) (decode f b)).v) ∧
  (red % 64 ∈ [0x10, 0x11, 0x18] → got = val fun a b => encode f (lo (flushIn c f (decode f a)) (decode f b))) ∧
  (red % 64 ∈ [0x20, 0x21, 0x28] → got = val fun a b => encode f (hi (flushIn c f (decode f a)) (decode f b)))

/-- R388, R389, R390, R394, R395, R404, R405: how collective tasks begin and end. CREATE fixes the contract from the members' bitmaps and REQ, writes RESULT and makes the
communicator, or aborts with MISMATCH or NOCONTRACT, with done 0 in RESULT (log 106); a RUN completes when its program has ended with nothing started or armed, and its ordinals
begin at 1 (log 65); what came for it before it issued is its own (log 66); a member's abort, which the model remembers for a later RUN (log 69), and with its own code
where its notice names this member (log 64), and 2^26 cycles without progress, abort a run, whose record is written, with a chunk as written once any byte of it is
(log 67), and whose task faults with COLL; what the other members say is the event's operand (log 64). -/
def Sys2Proof.Rules.CollectiveEnds : Prop := ∀ (s : State) (p k : Nat), s.subject.p = p → s.subject.k = k → p < s.partitions.length →
  (∀ (x : Creating), (s.part p).creates = [x] → x.comm.id = k → 0 < x.comm.ranks.length →
    let n := x.comm.ranks.length
    let map (m : Nat) : Nat := if m = x.comm.own then 0x01FE else field s.subject.bytes (2 * m) 2
    let common (b : Nat) : Prop := 0 < b ∧ b < 16 ∧ ∀ m < n, (map m).testBit b
    let aborted (u : State) (code : Nat) : Prop := (u.part p).creates = [] ∧ (u.part p).comms = (s.part p).comms ∧
      u.task? p x.seq = (s.task? p x.seq).map fun t => if t.isFaulted || t.done then t else { t with status := .faulted 0x0E code }
    let resulted (u : State) (contract code : Nat) : Prop := ∃ bits v z, bits < 65536 ∧ (∀ b < 16, bits.testBit b ↔ common b) ∧
      s.writeVa p none (x.desc + 48) (leBytes 8 (contract + (if code = 0 then 16 else 0) + 256 * code + 65536 * bits)) (.task p x.seq) = (v, .ok z) ∧ u.memoryPart = v.memoryPart
    (s.task? p x.seq).any Task.debug = false → x.comm.own < n → x.req ≤ 16 → 2 * n ≤ s.subject.bytes.length → (∀ bs, bs.length = 8 → ∃ v z, s.writeVa p none (x.desc + 48) bs (.task p x.seq) = (v, .ok z)) →
    (s.subject.on = false → Yields .collCreateComplete s fun u => aborted u 0x0C) ∧
    (∀ b, s.subject.on = true → (x.req = 0 ∧ common b ∧ ∀ e, common e → e ≤ b) ∨ (x.req = b ∧ common b) ∨ (x.req = 16 ∧ b = 0) →
      Yields .collCreateComplete s fun u => (u.part p).creates = [] ∧ (u.part p).comms = (s.part p).comms ++ [{ x.comm with contract := b, agreed := s.fresh }] ∧
        resulted u b 0 ∧
        u.task? p x.seq = (s.task? p x.seq).map fun t => if t.isFaulted || t.done then t else { t with status := .completed }) ∧
    (s.subject.on = true → (x.req = 0 ∧ ∀ b, ¬common b) ∨ (0 < x.req ∧ x.req < 16 ∧ ¬common x.req) → Yields .collCreateComplete s fun u => aborted u 0x0D ∧ resulted u 0 0x0D) ∧
    (s.cycle < x.since + 2 ^ 26 → Sys2Proof.Machine.exec .collPeerdown s = .next s) ∧
    (x.since + 2 ^ 26 ≤ s.cycle → Yields .collPeerdown s fun u => aborted u 0x04)) ∧
  (∀ (r : CollRun) (c : Communicator), (s.part p).colls = [r] → r.comm = k → (s.part p).comms = [c] → c.id = k →
    let aborts (i : Instr) (code : Nat) : Prop := Sys2Proof.Machine.exec i s = .next (s.abortRun p k code)
    (r.pos < r.steps.length → Sys2Proof.Machine.exec .collRunComplete s = .next s) ∧
    (r.steps.length ≤ r.pos → r.loops ≠ [] → aborts .collRunComplete 0x02) ∧
    (r.steps.length ≤ r.pos → r.loops = [] → r.started ≠ [] ∨ r.armed ≠ [] → Sys2Proof.Machine.exec .collRunComplete s = .next s) ∧
    (r.steps.length ≤ r.pos → r.loops = [] → r.started = [] → r.armed = [] →
      Sys2Proof.Machine.exec .collRunComplete s = .next ((s.modPart p fun q => { q with colls := [] }).completeTask p r.seq)) ∧
    (let said := s.subject.bytes
     s.subject.x.toNat = r.ordinal → aborts .collPeerAbort
       (if said.length = 3 ∧ (field said 0 1 = 0x03 ∨ field said 0 1 = 0x05) ∧ (field said 1 2 = c.own ∨ field said 1 2 = 0xFFFF) then field said 0 1 else 0x0B)) ∧
    (s.subject.x.toNat < r.ordinal → Sys2Proof.Machine.exec .collPeerAbort s = .next s) ∧
    (r.ordinal < s.subject.x.toNat →
      Sys2Proof.Machine.exec .collPeerAbort s = .next (s.modPart p fun q => { q with comms := [{ c with aborts := c.aborts ++ [s.subject.x.toNat] }] })) ∧
    ((s.part p).creates = [] → s.cycle < r.since + 2 ^ 26 → Sys2Proof.Machine.exec .collPeerdown s = .next s) ∧
    ((s.part p).creates = [] → r.since + 2 ^ 26 ≤ s.cycle → aborts .collPeerdown 0x04) ∧
    (∀ (code : Nat) (t : Task) v z, code < 256 → s.task? p r.seq = some t → t.isFaulted = false → t.done = false → t.debug = false →
      let hull (j : Nat) : Nat := match t.regions.getD j none with | some g => (g.hullBytes + 4095) / 4096 | none => 0
      let rec_ := s.abortRecord p r c code
      (rec_.take 64 = leBytes 8 r.seq ++ leBytes 1 code ++ leBytes 1 r.pos ++ leBytes 2 0 ++ leBytes 4 r.ordinal ++ (List.range 6).flatMap (fun j => leBytes 4 (hull j)) ++ leBytes 24 0) ∧
      (∀ slot j, slot < 6 → j < hull slot → let m := ((List.range slot).map hull).sum + j
        ((rec_.getD (64 + m / 4) 0).toNat / 4 ^ (m % 4)) % 4 = r.chunkState c slot j) ∧
      (∀ slot j, (slot, j) ∉ r.written → r.chunkState c slot j = 0) ∧
      (∀ slot j, (slot, j) ∈ r.written → r.started = [] → r.steps.length ≤ r.pos → r.chunkState c slot j = 1) ∧
      (∀ j x d, (d.slot, j) ∈ r.written → x ∈ r.started → x.dst = some d → x.got < x.len → d.off + x.got < 4096 * (j + 1) → 4096 * j < d.off + x.len → r.chunkState c d.slot j = 2) ∧
      (s.writeVa p none c.abortbase rec_ (.task p r.seq) = (v, .ok z) → (s.abortRun p k code).memoryPart = v.memoryPart ∧ ((s.abortRun p k code).part p).colls = [] ∧
        ((s.abortRun p k code).part p).comms = [c] ∧
        ((s.abortRun p k code).part p).sent = (s.part p).sent ++ [⟨k, r.ordinal, none, 0, true, leBytes 1 code ++ leBytes 2 0xFFFE⟩] ∧
        (s.abortRun p k code).task? p r.seq = some { t with status := .faulted 0x0E code }))) ∧
  (∀ (c : Communicator), (s.part p).colls = [] → (s.part p).comms = [c] → c.id = k → (∀ o, s.subject.x.toNat = o → Sys2Proof.Machine.exec .collPeerAbort s =
    .next (s.modPart p fun q => { q with comms := [if c.ordinal < o then { c with aborts := c.aborts ++ [o] } else c] }))) ∧
  (∀ (t : Task), t.arg % 64 = k →
    (s.comm? p k = none → s.issueDestroy p t = s.faultTask p t.seq 0x0E 0x0E ∧ s.issueRun p t = s.faultTask p t.seq 0x0E 0x0E) ∧
    (∀ c bs y, (s.part p).comms = [c] → c.id = k → (s.part p).colls = [] → (s.part p).window = [t] → t.debug = false → c.early.fail = none →
      s.readVa p none t.ptr (32 * (t.arg / 2 ^ 15 % 256 + 1)) = .ok (bs, y) → t.arg / 2 ^ 6 % 512 < c.ranks.length → c.ordinal + 1 ∉ c.aborts →
      (s.issueRun p t).memoryPart = s.memoryPart ∧ ((s.issueRun p t).part p).comms = [{ c with ordinal := c.ordinal + 1, early := {} }] ∧
      ((s.issueRun p t).part p).window = [{ t with status := .issued }] ∧
      ∃ q, ((s.issueRun p t).part p).colls = [q] ∧ q.seq = t.seq ∧ q.comm = k ∧ q.ordinal = c.ordinal + 1 ∧ q.root = t.arg / 2 ^ 6 % 512 ∧ q.mask = t.flags.testBit 2 ∧
        q.steps.flatten = bs ∧ (∀ b ∈ q.steps, b.length = 32) ∧ q.pos = 0 ∧ q.loops = [] ∧ q.counters = List.replicate 8 0 ∧ q.peers = List.replicate 4 (some 0) ∧ q.started = [] ∧
        q.armed = [] ∧ q.written = [] ∧ q.staged = c.early.staged ∧ q.contributions = c.early.contributions) ∧
    (∀ c code who, (s.part p).comms = [c] → c.id = k → (s.part p).colls = [] → (s.part p).window = [t] → c.early.fail = some (code, who) →
      t.isFaulted = false → t.done = false → (∃ v, s.readVa p none t.ptr (32 * (t.arg / 2 ^ 15 % 256 + 1)) = .ok v) → t.arg / 2 ^ 6 % 512 < c.ranks.length →
      ((s.issueRun p t).part p).colls = [] ∧ (s.issueRun p t).task? p t.seq = some { t with status := .faulted 0x0E (if c.ordinal + 1 ∈ c.aborts then 0x0B else code) } ∧
      ∃ l, ((s.issueRun p t).part p).sent = (s.part p).sent ++ l ∧ ∀ g ∈ l, g.comm = k ∧ g.notice = true) ∧
    (∀ c w y, (s.part p).comms = [c] → c.id = k → (s.part p).colls = [] → c.early = {} → c.isSealed = false → 2 ≤ c.pooln → s.subject.on = false → s.subject.lane = 0 →
      s.writeVa p none c.poolbase s.subject.bytes = (w, .ok y) →
      Yields .collChunkReceive s fun u => u.memoryPart = w.memoryPart ∧ ∃ e : Early, (u.part p).comms = [{ c with early := e }] ∧
        e.staged = [⟨s.subject.m, s.subject.u, s.subject.x.toNat, none, 0, s.subject.bytes.length⟩] ∧ e.fail = none) ∧
    (∀ c, (s.part p).comms = [c] → c.id = k → s.issueDestroy p t = (s.modPart p fun q => { q with comms := [] }).completeTask p t.seq))

/-! ## Every form completes -/

/-- R34, R44, R144, R165, R167, R168, R178, R302, R315: a word whose operands are ready takes its turn with neither a block nor a trap: the words of control and of synchronisation,
JOIN and WSYNC with every awaited thread there, PROG, QPUSH (its first three words, and its fourth with room for the command), and a legal XFORM. -/
def Sys2Proof.Rules.ThreadWordsComplete : Prop := ∀ (s : State) (c : Issue) (h : Head) (d : Reg) (a b : Src) (off : Int) (n : Fin 28) (r : Fin 6) (wg : Workgroup) (fl : Flock),
  s.wg? c.f c.m = some wg → s.flock? c.f = some fl →
  let goesOn (i : Instr) : Prop := ∃ t c', Sys2Proof.Machine.exec i s = .next t ∧ t.issue = some c' ∧ c'.blocked = c.blocked ∧ c'.held = c.held ∧
    c'.traps = c.traps ∧ c'.strays = c.strays
  (Ready s c h [] [] → ∀ i ∈ [Instr.nop h, .bra h off, .exit h, .trap h 1, .yield h, .bkpt h 0], goesOn i) ∧
  (Ready s c h [] [] → (∀ l ∈ c.exec h, (c.snap.thread l).trapMode = true) → goesOn (.tret h)) ∧
  (Ready s c h [] [] → (∀ l ∈ c.awaited, l ∈ c.lanes) → goesOn (.join h) ∧ goesOn (.wsync h)) ∧
  (Ready s c h [] [d] → goesOn (.movs h n.val d) ∧ goesOn (.actm h d)) ∧
  (Ready s c h [] [d] → (c.exec h).all (fun l => !s.pipeFPending c l) = true → goesOn (.movcRead h r.val d)) ∧
  (Ready s c h [one a] [] → goesOn (.prog h a)) ∧
  (Ready s c h [one a] [] → (c.exec h).all (fun l => !s.pipeFPending c l) = true → goesOn (.movcWrite h r.val a)) ∧
  (ReadyAt s c h [one a] highest [] → settled s c (highest (c.readers h)) → c.snap.q0.length < 3 → goesOn (.qpush h a)) ∧
  (ReadyAt s c h [one a] highest [] → settled s c (highest (c.readers h)) → c.snap.q0.length = 3 → s.coreCommands wg.core < 32 → wg.q1asked < 32 →
    fl.launch.debug = false → goesOn (.qpush h a)) ∧
  (ReadyAt s c h [pair a, pair b] lowest [] → settled s c (lowest (c.readers h)) → fl.launch.debug = false →
    (c.val (lowest (c.readers h)) a).toNat / 2 ^ 24 ≤ 10 → (c.snap.get (lowest (c.readers h)) (a.reg.at 1)).toNat = 0 →
    (c.val64 (lowest (c.readers h)) b.reg).toNat % 64 = 0 → goesOn (.xform h a b))

/-- R35, R334, R355: an event always takes its turn: it answers a next state in every state, NESTED and XFTHRESH notices, a change of SQCTL and every step of an engine,
the scheduler, the fabric and the firmware among them. -/
def Sys2Proof.Rules.EventsComplete : Prop := ∀ (s : State), ∀ i ∈ [Instr.nestedNotice, .xfthreshNotice, .sqctlEnable, .sqctlResumeRetry, .sqctlResumeSkip, .sqwriteWrite,
    .crkHalt, .resultLand, .randomWordDelivery, .joinlimExpiry, .threadCease, .workgroupEnd, .flockAbort, .timeLimitExpiry, .poolFlushTimeout,
    .poolDrain, .matrixOpExecute, .matrixOpComplete, .tileCopyToScratchpad, .tileCopyToTensor, .tileCopyComplete, .xformCopy, .xformCast,
    .xformQuant, .xformDequant, .xformTrans, .xformPack, .xformUnpack, .xformGather, .xformScatadd, .xformMxin, .xformMxout, .transformTurn,
    .transformComplete, .poolemptyResume, .packedChainReclaim, .logicalClockAdvance, .bulkCopy, .bulkFill, .bulkSignal, .bulkWait, .taskRun,
    .taskPool, .taskCopy, .taskXform, .taskOffload, .taskRecall, .taskWait, .taskSignal, .taskAlloc, .taskFree, .taskFence, .taskRepeat,
    .taskEndrep, .taskMark, .collRun, .collCreate, .collDestroy, .copyForward, .allocZeroFill, .taskEngineStreamComplete, .taskRetire,
    .taskFaultRecovery, .registerWrite, .tlbinvPage, .tlbinvAll, .tlbinvComplete, .chkpush, .btvalWrite, .bqdescEnable, .bqdescDisable,
    .expbaseWrite, .crkctlLoad, .crkProgramActivate, .faultcmdReplay, .faultcmdCancel, .haltres, .faultRingFree, .dispatch, .preempt,
    .faultDecision, .crkBudgetOverrun, .sliceBoundary, .grantDeadline, .foldAreaWrite, .wholeDeviceReset, .partitionReset, .functionLevelReset,
    .partitionStart, .firmwareImageStart, .firmwareNudge, .firmwareCoreRestart, .bellWord, .freezePin, .freezeWrite, .powerWindow, .mbResync,
    .mbResume, .mbKeygen, .mbKeyassign, .mbKeyclear, .mbAttest, .mbPartcfg, .hostRead, .hostWrite, .hostAtomicCompletion, .peerAccess,
    .peerAccessTimeout, .uncorrFound, .mctpReadout, .mctpReadCertificate, .mctpWritePwrlim, .collSend, .collRecv, .collRrs, .collLcopy, .collCwait,
    .collArm, .collLoop, .collEndl, .collPeer, .collCbar, .collChunkSend, .collChunkReceive, .collCreateComplete, .collRunComplete, .collPeerAbort,
    .collPeerdown, .illegalWord, .fetchBeyondCodeObject, .illegalRecord, .bulkQueueError, .illegalStep, .collCbarRelease, .loadStoreDomainJoin,
    .storageError],
  ∃ t, Sys2Proof.Machine.exec i s = .next t

/-! ## The statements that have several parts -/

/-- The integer words with a third source, SEL, and the words on pairs. -/
def Obligations.ThirdSourcesSelectAndPairs : Prop := Sys2Proof.Rules.IntegerThreeSource ∧ Sys2Proof.Rules.SelectAndPairs

/-- The one-source integer words, and MOV into a w register. -/
def Obligations.IntegerOneSourceAndMov : Prop := Sys2Proof.Rules.IntegerOneSource ∧ Sys2Proof.Rules.MovBroadcast

/-- Compares, PLOP and PMOV. -/
def Obligations.ComparesAndGuards : Prop := Sys2Proof.Rules.CompareResults ∧ Sys2Proof.Rules.GuardLogic

/-- EXIT, TRAP, TRET, BKPT and YIELD: put off to the end of the chain, and what they do there. -/
def Obligations.EffectsAtChainEnd : Prop := Sys2Proof.Rules.EffectsPutOff ∧ Sys2Proof.Rules.EffectsAtTheEnd

/-- JOIN, WSYNC and PROG. -/
def Obligations.JoinWsyncAndProg : Prop := Sys2Proof.Rules.JoinRule ∧ Sys2Proof.Rules.WsyncAndProg

/-- MOVC reads and writes the control registers. -/
def Obligations.ControlRegisters : Prop := Sys2Proof.Rules.ControlRegisterRead ∧ Sys2Proof.Rules.ControlRegisterWrite

/-- FP32 arithmetic and FRND. -/
def Obligations.FloatArithmetic : Prop := Sys2Proof.Rules.FloatArithmetic ∧ Sys2Proof.Rules.RoundToIntegral

/-- Packed 16-bit arithmetic, FPACK, FUNPK, QEXP and QCVT. -/
def Obligations.PackedArithmetic : Prop := Sys2Proof.Rules.PackedArithmetic ∧ Sys2Proof.Rules.PackingAndSquares

/-- The function words, their special operands, and the rounded reciprocal. -/
def Obligations.FunctionWords : Prop := Sys2Proof.Rules.FunctionWords ∧ Sys2Proof.Rules.FunctionSpecialValues ∧ Sys2Proof.Rules.ReciprocalIsRounded

/-- Exact arithmetic agrees with the rationals, and Round with its modes. -/
def Obligations.ExactThenRounded : Prop := Sys2Proof.Rules.ExactArithmetic ∧ Sys2Proof.Rules.RoundingModes ∧ Sys2Proof.Rules.Fp32RoundTrip

/-- CVTSR, and the random words it takes. -/
def Obligations.StochasticAndRandomWords : Prop := Sys2Proof.Rules.StochasticConversion ∧ Sys2Proof.Rules.RandomWords

/-- Every floating-point word completes while no cause is enabled; ready words go on; every event takes its turn. -/
def Obligations.EveryFormCompletes : Prop := Sys2Proof.Rules.FloatWordsComplete ∧ Sys2Proof.Rules.ThreadWordsComplete ∧ Sys2Proof.Rules.EventsComplete

/-- Warp queries and shuffles. -/
def Obligations.WarpQueriesAndShuffles : Prop := Sys2Proof.Rules.WarpQueries ∧ Sys2Proof.Rules.Shuffles

/-- Reductions over a warp. -/
def Obligations.WarpReductions : Prop := Sys2Proof.Rules.IntegerReductions ∧ Sys2Proof.Rules.FloatReductions

/-- HURDLE, ARRIVE, AWAIT and the phases of a hurdle. -/
def Obligations.Hurdles : Prop := Sys2Proof.Rules.HurdleArrives ∧ Sys2Proof.Rules.ArriveAwait ∧ Sys2Proof.Rules.HurdlePhase

/-- QPOP and the gang register. -/
def Obligations.QueuePopAndGangRegister : Prop := Sys2Proof.Rules.QueuePop ∧ Sys2Proof.Rules.GangRegister

/-- CONT and its record. -/
def Obligations.Continuations : Prop := Sys2Proof.Rules.Continuation ∧ Sys2Proof.Rules.ContinuationRecord

/-- The checks of an access, in their order, what a failing one leaves alone, and which translation it uses. -/
def Obligations.AccessChecks : Prop := Sys2Proof.Rules.AccessRule ∧ Sys2Proof.Rules.AccessChecks ∧ Sys2Proof.Rules.Translations

/-- Loads and stores. -/
def Obligations.LoadsAndStores : Prop := Sys2Proof.Rules.LoadResult ∧ Sys2Proof.Rules.StoreResult ∧ Sys2Proof.Rules.WaitingLoads

/-- Reading after a write, in a byte memory and in HBM. -/
def Obligations.ReadAfterWrite : Prop := Sys2Proof.Rules.ReadAfterWrite ∧ Sys2Proof.Rules.MemoryWrites

/-- Atomics and CAS. -/
def Obligations.Atomics : Prop := Sys2Proof.Rules.AtomicWords ∧ Sys2Proof.Rules.AtomicsInOrder ∧ Sys2Proof.Rules.PackedAtomicsAndCas

/-- The tag table: TAGQ, TAGW and the suggested victim. -/
def Obligations.TagTable : Prop := Sys2Proof.Rules.TagTable ∧ Sys2Proof.Rules.SuggestedVictim

/-- Matrix words: their checks, and their acceptance. -/
def Obligations.MatrixWords : Prop := Sys2Proof.Rules.MatrixWordsAccepted ∧ Sys2Proof.Rules.MatrixWordChecks

/-- What a matrix operation does, and its completion. -/
def Obligations.MatrixEngine : Prop := Sys2Proof.Rules.MatrixOperations ∧ Sys2Proof.Rules.MatrixStore ∧ Sys2Proof.Rules.MatrixCompletion

/-- Timeline and buffer words. -/
def Obligations.TimelineAndBuffers : Prop := Sys2Proof.Rules.TimelineWords ∧ Sys2Proof.Rules.BufferWords

/-- QPUSH and XFORM submit to the engines. -/
def Obligations.CommandsToEngines : Prop := Sys2Proof.Rules.QueuePush ∧ Sys2Proof.Rules.XformWord

/-- A step runs the instruction that was decoded. -/
def Obligations.StepRunsDecodedInstruction : Prop := Sys2Proof.Rules.StepRunsEvents ∧ Sys2Proof.Rules.StepRunsDecodedWord ∧ Sys2Proof.Rules.GroupsOfAWarp

/-- Fetches, guards, empty registers, and illegal words. -/
def Obligations.GuardsAndEmptyRegisters : Prop := Sys2Proof.Rules.FetchedWord ∧ Sys2Proof.Rules.GuardsAndEmptyRegisters ∧ Sys2Proof.Rules.ChainsThatTrap

/-- Taking a trap, nested traps, and the notices of a herder. -/
def Obligations.TakingATrap : Prop := Sys2Proof.Rules.TakingATrap ∧ Sys2Proof.Rules.HerderNotices

/-- The state after reset. -/
def Obligations.ResetState : Prop := Sys2Proof.Rules.ResetState ∧ Sys2Proof.Rules.ResetMemories

/-- The operations and programs of the scheduling interpreter. -/
def Obligations.CrookInterpreter : Prop := Sys2Proof.Rules.CrookOperations ∧ Sys2Proof.Rules.CrookPrograms

/-- Results land, and threads and workgroups end. -/
def Obligations.ResultsAndEnds : Prop := Sys2Proof.Rules.ResultsLand ∧ Sys2Proof.Rules.ThreadsAndWorkgroupsEnd

/-- Aborts, warps formed of a pool, and folding. -/
def Obligations.AbortsPoolsAndFolding : Prop := Sys2Proof.Rules.Aborts ∧ Sys2Proof.Rules.PoolWarps ∧ Sys2Proof.Rules.Folding

/-- Tile copies. -/
def Obligations.TileCopies : Prop := Sys2Proof.Rules.TileCopyMoves ∧ Sys2Proof.Rules.TileCopyCompletes

/-- The transform engine. -/
def Obligations.Transforms : Prop := Sys2Proof.Rules.TransformElements ∧ Sys2Proof.Rules.TransformTurns ∧ Sys2Proof.Rules.TransformsEnd

/-- Bulk queues. -/
def Obligations.BulkQueues : Prop := Sys2Proof.Rules.BulkPackets ∧ Sys2Proof.Rules.BulkQueueBinding

/-- How stream records enter the window. -/
def Obligations.RecordsEnterWindow : Prop := Sys2Proof.Rules.RecordsRefused ∧ Sys2Proof.Rules.RecordsWithoutSlots ∧ Sys2Proof.Rules.RecordsWithSlots

/-- How tasks issue, run on the copy engines, and retire. -/
def Obligations.TasksOfTheWindow : Prop := Sys2Proof.Rules.TasksIssue ∧ Sys2Proof.Rules.EngineTasks ∧ Sys2Proof.Rules.WindowRetires

/-- Register writes, stream control and fault commands. -/
def Obligations.RegistersAndFaultCommands : Prop := Sys2Proof.Rules.RegisterWrites ∧ Sys2Proof.Rules.BlockEvents ∧ Sys2Proof.Rules.StreamControl ∧ Sys2Proof.Rules.FaultCommands

/-- Scheduler decisions and how they act. -/
def Obligations.SchedulerDecisions : Prop := Sys2Proof.Rules.Decisions ∧ Sys2Proof.Rules.DecisionsAct

/-- Resets, firmware and the mailbox. -/
def Obligations.ResetsAndFirmware : Prop := Sys2Proof.Rules.Resets ∧ Sys2Proof.Rules.FirmwareEvents ∧ Sys2Proof.Rules.MailboxCommands

/-- The host, peers and errors. -/
def Obligations.HostPeersAndErrors : Prop := Sys2Proof.Rules.HostAccess ∧ Sys2Proof.Rules.PeersAndErrors

/-- The steps of a collective program. -/
def Obligations.CollectivePrograms : Prop := Sys2Proof.Rules.CollectiveSteps ∧ Sys2Proof.Rules.CollectiveControl

/-- Collective transfers, reductions, completion and aborts. -/
def Obligations.CollectiveTransfers : Prop := Sys2Proof.Rules.CollectiveChunks ∧ Sys2Proof.Rules.ArmedSends ∧ Sys2Proof.Rules.CollectiveReductions ∧ Sys2Proof.Rules.CollectiveEnds
end

