-- ==== Sys2Proof/Laws/Lists.lean ====
section
/-! SUPPORT. Lists with one element replaced, and sparse data by key: what a replacement reads as. -/
namespace Sys2Proof

theorem modifyNth_length {α : Type} (f : α → α) (k : Nat) (l : List α) : (modifyNth f k l).length = l.length :=
  List.length_modify ..

theorem modifyNth_getElem? {α : Type} (f : α → α) (k n : Nat) (l : List α) :
    (modifyNth f k l)[n]? = if n = k then l[n]?.map f else l[n]? := by
  rw [modifyNth, List.getElem?_modify]
  by_cases h : k = n <;> simp [h, eq_comm]

theorem modifyNth_same {α : Type} (f : α → α) (k : Nat) (l : List α) : (modifyNth f k l)[k]? = l[k]?.map f := by
  simp [modifyNth_getElem?]

theorem modifyNth_other {α : Type} (f : α → α) {k n : Nat} (l : List α) (h : n ≠ k) : (modifyNth f k l)[n]? = l[n]? := by
  simp [modifyNth_getElem?, h]

/-- Two replacements agree where they give the element at the position the same value. -/
theorem modifyNth_congr {α : Type} {f g : α → α} {k : Nat} {l : List α} (h : ∀ x, l[k]? = some x → f x = g x) :
    modifyNth f k l = modifyNth g k l :=
  List.ext_getElem? fun n => by
    simp only [modifyNth_getElem?]
    by_cases e : n = k
    · subst e; rw [if_pos rfl, if_pos rfl]; exact Option.map_congr h
    · rw [if_neg e, if_neg e]

theorem modifyNth_comp {α : Type} (f g : α → α) (k : Nat) (l : List α) :
    modifyNth f k (modifyNth g k l) = modifyNth (fun x => f (g x)) k l :=
  List.ext_getElem? fun n => by
    simp only [modifyNth_getElem?]
    by_cases e : n = k <;> simp [e, Function.comp_def]

theorem modifyNth_id {α : Type} (k : Nat) (l : List α) : modifyNth (fun x => x) k l = l :=
  List.ext_getElem? fun n => by simp [modifyNth_getElem?]

/-- A property of every element stays when the replaced element keeps it. -/
theorem forall_mem_modifyNth {α : Type} {P : α → Prop} {f : α → α} {k : Nat} {l : List α} (hf : ∀ x, P x → P (f x))
    (h : ∀ x ∈ l, P x) : ∀ x ∈ modifyNth f k l, P x := by
  intro x hx
  obtain ⟨n, hn⟩ := List.mem_iff_getElem?.mp hx
  rw [modifyNth_getElem?] at hn
  by_cases e : n = k
  · rw [if_pos e, Option.map_eq_some_iff] at hn
    obtain ⟨y, hy, rfl⟩ := hn
    exact hf y (h y (List.mem_of_getElem? hy))
  · rw [if_neg e] at hn
    exact h x (List.mem_of_getElem? hn)

theorem removeNth_subset {α : Type} (k : Nat) (l : List α) : ∀ x ∈ removeNth k l, x ∈ l := fun _ h => List.mem_of_mem_eraseIdx h

/-- Setting one key leaves what every other key reads. -/
theorem assocGet_assocSet_other {α : Type} [DecidableEq α] (d y : α) (n a : Nat) (l : List (Nat × α)) (h : a ≠ n) :
    assocGet d (assocSet d n y l) a = assocGet d l a := by
  induction l with
  | nil => by_cases hy : y = d <;> simp [assocSet, assocGet, hy, h.symm]
  | cons q rest ih =>
    obtain ⟨k, x⟩ := q
    simp only [assocSet]
    split
    · split <;> simp [assocGet, h.symm]
    · split
      · rename_i hk; subst hk; split <;> simp [assocGet, h.symm]
      · simp [assocGet, ih]

/-- A key that is set reads its value, unless it is the default. -/
theorem assocGet_assocSet_same {α : Type} [DecidableEq α] (d y : α) (n : Nat) (l : List (Nat × α)) (h : y ≠ d) :
    assocGet d (assocSet d n y l) n = y := by
  induction l with
  | nil => simp [assocSet, assocGet, h]
  | cons q rest ih =>
    obtain ⟨k, x⟩ := q
    simp only [assocSet, h, if_false]
    split
    · simp [assocGet]
    · split
      · simp [assocGet]
      · rename_i h1 h2; simp [assocGet, ih, Ne.symm h2]

end Sys2Proof
end

