-- ==== Sys2Proof/Laws/State.lean ====
section
/-! SUPPORT. What each named update of the state does to each field, by rfl: no proof unfolds a record update. -/
namespace Sys2Proof.Machine
open Sys2Proof

/-! ## modFlock -/
@[simp] theorem State.modFlock_flocks (s : State) (f : Nat) (g : Flock → Flock) : (s.modFlock f g).flocks = modifyNth g f s.flocks := rfl
@[simp] theorem State.modFlock_partitions (s : State) (f : Nat) (g : Flock → Flock) : (s.modFlock f g).partitions = s.partitions := rfl
@[simp] theorem State.modFlock_device (s : State) (f : Nat) (g : Flock → Flock) : (s.modFlock f g).device = s.device := rfl
@[simp] theorem State.modFlock_streams (s : State) (f : Nat) (g : Flock → Flock) : (s.modFlock f g).streams = s.streams := rfl
@[simp] theorem State.modFlock_streamNum (s : State) (f : Nat) (g : Flock → Flock) : (s.modFlock f g).streamNum = s.streamNum := rfl
@[simp] theorem State.modFlock_landings (s : State) (f : Nat) (g : Flock → Flock) : (s.modFlock f g).landings = s.landings := rfl
@[simp] theorem State.modFlock_randoms (s : State) (f : Nat) (g : Flock → Flock) : (s.modFlock f g).randoms = s.randoms := rfl
@[simp] theorem State.modFlock_reclaims (s : State) (f : Nat) (g : Flock → Flock) : (s.modFlock f g).reclaims = s.reclaims := rfl
@[simp] theorem State.modFlock_swaps (s : State) (f : Nat) (g : Flock → Flock) : (s.modFlock f g).swaps = s.swaps := rfl
@[simp] theorem State.modFlock_hbm (s : State) (f : Nat) (g : Flock → Flock) : (s.modFlock f g).hbm = s.hbm := rfl
@[simp] theorem State.modFlock_lineKeys (s : State) (f : Nat) (g : Flock → Flock) : (s.modFlock f g).lineKeys = s.lineKeys := rfl
@[simp] theorem State.modFlock_l2 (s : State) (f : Nat) (g : Flock → Flock) : (s.modFlock f g).l2 = s.l2 := rfl
@[simp] theorem State.modFlock_hostMem (s : State) (f : Nat) (g : Flock → Flock) : (s.modFlock f g).hostMem = s.hostMem := rfl
@[simp] theorem State.modFlock_peerMem (s : State) (f : Nat) (g : Flock → Flock) : (s.modFlock f g).peerMem = s.peerMem := rfl
@[simp] theorem State.modFlock_peerSpace (s : State) (f : Nat) (g : Flock → Flock) : (s.modFlock f g).peerSpace = s.peerSpace := rfl
@[simp] theorem State.modFlock_bad (s : State) (f : Nat) (g : Flock → Flock) : (s.modFlock f g).bad = s.bad := rfl
@[simp] theorem State.modFlock_late (s : State) (f : Nat) (g : Flock → Flock) : (s.modFlock f g).late = s.late := rfl
@[simp] theorem State.modFlock_oldEntries (s : State) (f : Nat) (g : Flock → Flock) : (s.modFlock f g).oldEntries = s.oldEntries := rfl
@[simp] theorem State.modFlock_oldCode (s : State) (f : Nat) (g : Flock → Flock) : (s.modFlock f g).oldCode = s.oldCode := rfl
@[simp] theorem State.modFlock_clocks (s : State) (f : Nat) (g : Flock → Flock) : (s.modFlock f g).clocks = s.clocks := rfl
@[simp] theorem State.modFlock_homes (s : State) (f : Nat) (g : Flock → Flock) : (s.modFlock f g).homes = s.homes := rfl
@[simp] theorem State.modFlock_copies (s : State) (f : Nat) (g : Flock → Flock) : (s.modFlock f g).copies = s.copies := rfl
@[simp] theorem State.modFlock_sliceLast (s : State) (f : Nat) (g : Flock → Flock) : (s.modFlock f g).sliceLast = s.sliceLast := rfl
@[simp] theorem State.modFlock_scalarLast (s : State) (f : Nat) (g : Flock → Flock) : (s.modFlock f g).scalarLast = s.scalarLast := rfl
@[simp] theorem State.modFlock_matLast (s : State) (f : Nat) (g : Flock → Flock) : (s.modFlock f g).matLast = s.matLast := rfl
@[simp] theorem State.modFlock_dieLast (s : State) (f : Nat) (g : Flock → Flock) : (s.modFlock f g).dieLast = s.dieLast := rfl
@[simp] theorem State.modFlock_cycle (s : State) (f : Nat) (g : Flock → Flock) : (s.modFlock f g).cycle = s.cycle := rfl
@[simp] theorem State.modFlock_issue (s : State) (f : Nat) (g : Flock → Flock) : (s.modFlock f g).issue = s.issue := rfl
@[simp] theorem State.modFlock_subject (s : State) (f : Nat) (g : Flock → Flock) : (s.modFlock f g).subject = s.subject := rfl
@[simp] theorem State.modFlock_agenda (s : State) (f : Nat) (g : Flock → Flock) : (s.modFlock f g).agenda = s.agenda := rfl
@[simp] theorem State.modFlock_turn (s : State) (f : Nat) (g : Flock → Flock) : (s.modFlock f g).turn = s.turn := rfl
@[simp] theorem State.modFlock_cores (s : State) (f : Nat) (g : Flock → Flock) : (s.modFlock f g).cores = s.cores := rfl
@[simp] theorem State.modFlock_order (s : State) (f : Nat) (g : Flock → Flock) : (s.modFlock f g).order = s.order := rfl
@[simp] theorem State.modFlock_fresh (s : State) (f : Nat) (g : Flock → Flock) : (s.modFlock f g).fresh = s.fresh := rfl

/-! ## modWg -/
@[simp] theorem State.modWg_flocks (s : State) (f m : Nat) (g : Workgroup → Workgroup) : (s.modWg f m g).flocks = modifyNth (fun fl => { fl with wgs := modifyNth g m fl.wgs }) f s.flocks := rfl
@[simp] theorem State.modWg_partitions (s : State) (f m : Nat) (g : Workgroup → Workgroup) : (s.modWg f m g).partitions = s.partitions := rfl
@[simp] theorem State.modWg_device (s : State) (f m : Nat) (g : Workgroup → Workgroup) : (s.modWg f m g).device = s.device := rfl
@[simp] theorem State.modWg_streams (s : State) (f m : Nat) (g : Workgroup → Workgroup) : (s.modWg f m g).streams = s.streams := rfl
@[simp] theorem State.modWg_streamNum (s : State) (f m : Nat) (g : Workgroup → Workgroup) : (s.modWg f m g).streamNum = s.streamNum := rfl
@[simp] theorem State.modWg_landings (s : State) (f m : Nat) (g : Workgroup → Workgroup) : (s.modWg f m g).landings = s.landings := rfl
@[simp] theorem State.modWg_randoms (s : State) (f m : Nat) (g : Workgroup → Workgroup) : (s.modWg f m g).randoms = s.randoms := rfl
@[simp] theorem State.modWg_reclaims (s : State) (f m : Nat) (g : Workgroup → Workgroup) : (s.modWg f m g).reclaims = s.reclaims := rfl
@[simp] theorem State.modWg_swaps (s : State) (f m : Nat) (g : Workgroup → Workgroup) : (s.modWg f m g).swaps = s.swaps := rfl
@[simp] theorem State.modWg_hbm (s : State) (f m : Nat) (g : Workgroup → Workgroup) : (s.modWg f m g).hbm = s.hbm := rfl
@[simp] theorem State.modWg_lineKeys (s : State) (f m : Nat) (g : Workgroup → Workgroup) : (s.modWg f m g).lineKeys = s.lineKeys := rfl
@[simp] theorem State.modWg_l2 (s : State) (f m : Nat) (g : Workgroup → Workgroup) : (s.modWg f m g).l2 = s.l2 := rfl
@[simp] theorem State.modWg_hostMem (s : State) (f m : Nat) (g : Workgroup → Workgroup) : (s.modWg f m g).hostMem = s.hostMem := rfl
@[simp] theorem State.modWg_peerMem (s : State) (f m : Nat) (g : Workgroup → Workgroup) : (s.modWg f m g).peerMem = s.peerMem := rfl
@[simp] theorem State.modWg_peerSpace (s : State) (f m : Nat) (g : Workgroup → Workgroup) : (s.modWg f m g).peerSpace = s.peerSpace := rfl
@[simp] theorem State.modWg_bad (s : State) (f m : Nat) (g : Workgroup → Workgroup) : (s.modWg f m g).bad = s.bad := rfl
@[simp] theorem State.modWg_late (s : State) (f m : Nat) (g : Workgroup → Workgroup) : (s.modWg f m g).late = s.late := rfl
@[simp] theorem State.modWg_oldEntries (s : State) (f m : Nat) (g : Workgroup → Workgroup) : (s.modWg f m g).oldEntries = s.oldEntries := rfl
@[simp] theorem State.modWg_oldCode (s : State) (f m : Nat) (g : Workgroup → Workgroup) : (s.modWg f m g).oldCode = s.oldCode := rfl
@[simp] theorem State.modWg_clocks (s : State) (f m : Nat) (g : Workgroup → Workgroup) : (s.modWg f m g).clocks = s.clocks := rfl
@[simp] theorem State.modWg_homes (s : State) (f m : Nat) (g : Workgroup → Workgroup) : (s.modWg f m g).homes = s.homes := rfl
@[simp] theorem State.modWg_copies (s : State) (f m : Nat) (g : Workgroup → Workgroup) : (s.modWg f m g).copies = s.copies := rfl
@[simp] theorem State.modWg_sliceLast (s : State) (f m : Nat) (g : Workgroup → Workgroup) : (s.modWg f m g).sliceLast = s.sliceLast := rfl
@[simp] theorem State.modWg_scalarLast (s : State) (f m : Nat) (g : Workgroup → Workgroup) : (s.modWg f m g).scalarLast = s.scalarLast := rfl
@[simp] theorem State.modWg_matLast (s : State) (f m : Nat) (g : Workgroup → Workgroup) : (s.modWg f m g).matLast = s.matLast := rfl
@[simp] theorem State.modWg_dieLast (s : State) (f m : Nat) (g : Workgroup → Workgroup) : (s.modWg f m g).dieLast = s.dieLast := rfl
@[simp] theorem State.modWg_cycle (s : State) (f m : Nat) (g : Workgroup → Workgroup) : (s.modWg f m g).cycle = s.cycle := rfl
@[simp] theorem State.modWg_issue (s : State) (f m : Nat) (g : Workgroup → Workgroup) : (s.modWg f m g).issue = s.issue := rfl
@[simp] theorem State.modWg_subject (s : State) (f m : Nat) (g : Workgroup → Workgroup) : (s.modWg f m g).subject = s.subject := rfl
@[simp] theorem State.modWg_agenda (s : State) (f m : Nat) (g : Workgroup → Workgroup) : (s.modWg f m g).agenda = s.agenda := rfl
@[simp] theorem State.modWg_turn (s : State) (f m : Nat) (g : Workgroup → Workgroup) : (s.modWg f m g).turn = s.turn := rfl
@[simp] theorem State.modWg_cores (s : State) (f m : Nat) (g : Workgroup → Workgroup) : (s.modWg f m g).cores = s.cores := rfl
@[simp] theorem State.modWg_order (s : State) (f m : Nat) (g : Workgroup → Workgroup) : (s.modWg f m g).order = s.order := rfl
@[simp] theorem State.modWg_fresh (s : State) (f m : Nat) (g : Workgroup → Workgroup) : (s.modWg f m g).fresh = s.fresh := rfl

/-! ## modUnit -/
@[simp] theorem State.modUnit_flocks (s : State) (f m u : Nat) (g : Warp → Warp) : (s.modUnit f m u g).flocks = modifyNth (fun fl => { fl with wgs := modifyNth (fun wg => wg.modUnit u g) m fl.wgs }) f s.flocks := rfl
@[simp] theorem State.modUnit_partitions (s : State) (f m u : Nat) (g : Warp → Warp) : (s.modUnit f m u g).partitions = s.partitions := rfl
@[simp] theorem State.modUnit_device (s : State) (f m u : Nat) (g : Warp → Warp) : (s.modUnit f m u g).device = s.device := rfl
@[simp] theorem State.modUnit_streams (s : State) (f m u : Nat) (g : Warp → Warp) : (s.modUnit f m u g).streams = s.streams := rfl
@[simp] theorem State.modUnit_streamNum (s : State) (f m u : Nat) (g : Warp → Warp) : (s.modUnit f m u g).streamNum = s.streamNum := rfl
@[simp] theorem State.modUnit_landings (s : State) (f m u : Nat) (g : Warp → Warp) : (s.modUnit f m u g).landings = s.landings := rfl
@[simp] theorem State.modUnit_randoms (s : State) (f m u : Nat) (g : Warp → Warp) : (s.modUnit f m u g).randoms = s.randoms := rfl
@[simp] theorem State.modUnit_reclaims (s : State) (f m u : Nat) (g : Warp → Warp) : (s.modUnit f m u g).reclaims = s.reclaims := rfl
@[simp] theorem State.modUnit_swaps (s : State) (f m u : Nat) (g : Warp → Warp) : (s.modUnit f m u g).swaps = s.swaps := rfl
@[simp] theorem State.modUnit_hbm (s : State) (f m u : Nat) (g : Warp → Warp) : (s.modUnit f m u g).hbm = s.hbm := rfl
@[simp] theorem State.modUnit_lineKeys (s : State) (f m u : Nat) (g : Warp → Warp) : (s.modUnit f m u g).lineKeys = s.lineKeys := rfl
@[simp] theorem State.modUnit_l2 (s : State) (f m u : Nat) (g : Warp → Warp) : (s.modUnit f m u g).l2 = s.l2 := rfl
@[simp] theorem State.modUnit_hostMem (s : State) (f m u : Nat) (g : Warp → Warp) : (s.modUnit f m u g).hostMem = s.hostMem := rfl
@[simp] theorem State.modUnit_peerMem (s : State) (f m u : Nat) (g : Warp → Warp) : (s.modUnit f m u g).peerMem = s.peerMem := rfl
@[simp] theorem State.modUnit_peerSpace (s : State) (f m u : Nat) (g : Warp → Warp) : (s.modUnit f m u g).peerSpace = s.peerSpace := rfl
@[simp] theorem State.modUnit_bad (s : State) (f m u : Nat) (g : Warp → Warp) : (s.modUnit f m u g).bad = s.bad := rfl
@[simp] theorem State.modUnit_late (s : State) (f m u : Nat) (g : Warp → Warp) : (s.modUnit f m u g).late = s.late := rfl
@[simp] theorem State.modUnit_oldEntries (s : State) (f m u : Nat) (g : Warp → Warp) : (s.modUnit f m u g).oldEntries = s.oldEntries := rfl
@[simp] theorem State.modUnit_oldCode (s : State) (f m u : Nat) (g : Warp → Warp) : (s.modUnit f m u g).oldCode = s.oldCode := rfl
@[simp] theorem State.modUnit_clocks (s : State) (f m u : Nat) (g : Warp → Warp) : (s.modUnit f m u g).clocks = s.clocks := rfl
@[simp] theorem State.modUnit_homes (s : State) (f m u : Nat) (g : Warp → Warp) : (s.modUnit f m u g).homes = s.homes := rfl
@[simp] theorem State.modUnit_copies (s : State) (f m u : Nat) (g : Warp → Warp) : (s.modUnit f m u g).copies = s.copies := rfl
@[simp] theorem State.modUnit_sliceLast (s : State) (f m u : Nat) (g : Warp → Warp) : (s.modUnit f m u g).sliceLast = s.sliceLast := rfl
@[simp] theorem State.modUnit_scalarLast (s : State) (f m u : Nat) (g : Warp → Warp) : (s.modUnit f m u g).scalarLast = s.scalarLast := rfl
@[simp] theorem State.modUnit_matLast (s : State) (f m u : Nat) (g : Warp → Warp) : (s.modUnit f m u g).matLast = s.matLast := rfl
@[simp] theorem State.modUnit_dieLast (s : State) (f m u : Nat) (g : Warp → Warp) : (s.modUnit f m u g).dieLast = s.dieLast := rfl
@[simp] theorem State.modUnit_cycle (s : State) (f m u : Nat) (g : Warp → Warp) : (s.modUnit f m u g).cycle = s.cycle := rfl
@[simp] theorem State.modUnit_issue (s : State) (f m u : Nat) (g : Warp → Warp) : (s.modUnit f m u g).issue = s.issue := rfl
@[simp] theorem State.modUnit_subject (s : State) (f m u : Nat) (g : Warp → Warp) : (s.modUnit f m u g).subject = s.subject := rfl
@[simp] theorem State.modUnit_agenda (s : State) (f m u : Nat) (g : Warp → Warp) : (s.modUnit f m u g).agenda = s.agenda := rfl
@[simp] theorem State.modUnit_turn (s : State) (f m u : Nat) (g : Warp → Warp) : (s.modUnit f m u g).turn = s.turn := rfl
@[simp] theorem State.modUnit_cores (s : State) (f m u : Nat) (g : Warp → Warp) : (s.modUnit f m u g).cores = s.cores := rfl
@[simp] theorem State.modUnit_order (s : State) (f m u : Nat) (g : Warp → Warp) : (s.modUnit f m u g).order = s.order := rfl
@[simp] theorem State.modUnit_fresh (s : State) (f m u : Nat) (g : Warp → Warp) : (s.modUnit f m u g).fresh = s.fresh := rfl

/-! ## modThread -/
@[simp] theorem State.modThread_flocks (s : State) (f m u l : Nat) (g : Thread → Thread) : (s.modThread f m u l g).flocks = modifyNth (fun fl => { fl with wgs := modifyNth (fun wg => wg.modUnit u fun w => w.modThread l g) m fl.wgs }) f s.flocks := rfl
@[simp] theorem State.modThread_partitions (s : State) (f m u l : Nat) (g : Thread → Thread) : (s.modThread f m u l g).partitions = s.partitions := rfl
@[simp] theorem State.modThread_device (s : State) (f m u l : Nat) (g : Thread → Thread) : (s.modThread f m u l g).device = s.device := rfl
@[simp] theorem State.modThread_streams (s : State) (f m u l : Nat) (g : Thread → Thread) : (s.modThread f m u l g).streams = s.streams := rfl
@[simp] theorem State.modThread_streamNum (s : State) (f m u l : Nat) (g : Thread → Thread) : (s.modThread f m u l g).streamNum = s.streamNum := rfl
@[simp] theorem State.modThread_landings (s : State) (f m u l : Nat) (g : Thread → Thread) : (s.modThread f m u l g).landings = s.landings := rfl
@[simp] theorem State.modThread_randoms (s : State) (f m u l : Nat) (g : Thread → Thread) : (s.modThread f m u l g).randoms = s.randoms := rfl
@[simp] theorem State.modThread_reclaims (s : State) (f m u l : Nat) (g : Thread → Thread) : (s.modThread f m u l g).reclaims = s.reclaims := rfl
@[simp] theorem State.modThread_swaps (s : State) (f m u l : Nat) (g : Thread → Thread) : (s.modThread f m u l g).swaps = s.swaps := rfl
@[simp] theorem State.modThread_hbm (s : State) (f m u l : Nat) (g : Thread → Thread) : (s.modThread f m u l g).hbm = s.hbm := rfl
@[simp] theorem State.modThread_lineKeys (s : State) (f m u l : Nat) (g : Thread → Thread) : (s.modThread f m u l g).lineKeys = s.lineKeys := rfl
@[simp] theorem State.modThread_l2 (s : State) (f m u l : Nat) (g : Thread → Thread) : (s.modThread f m u l g).l2 = s.l2 := rfl
@[simp] theorem State.modThread_hostMem (s : State) (f m u l : Nat) (g : Thread → Thread) : (s.modThread f m u l g).hostMem = s.hostMem := rfl
@[simp] theorem State.modThread_peerMem (s : State) (f m u l : Nat) (g : Thread → Thread) : (s.modThread f m u l g).peerMem = s.peerMem := rfl
@[simp] theorem State.modThread_peerSpace (s : State) (f m u l : Nat) (g : Thread → Thread) : (s.modThread f m u l g).peerSpace = s.peerSpace := rfl
@[simp] theorem State.modThread_bad (s : State) (f m u l : Nat) (g : Thread → Thread) : (s.modThread f m u l g).bad = s.bad := rfl
@[simp] theorem State.modThread_late (s : State) (f m u l : Nat) (g : Thread → Thread) : (s.modThread f m u l g).late = s.late := rfl
@[simp] theorem State.modThread_oldEntries (s : State) (f m u l : Nat) (g : Thread → Thread) : (s.modThread f m u l g).oldEntries = s.oldEntries := rfl
@[simp] theorem State.modThread_oldCode (s : State) (f m u l : Nat) (g : Thread → Thread) : (s.modThread f m u l g).oldCode = s.oldCode := rfl
@[simp] theorem State.modThread_clocks (s : State) (f m u l : Nat) (g : Thread → Thread) : (s.modThread f m u l g).clocks = s.clocks := rfl
@[simp] theorem State.modThread_homes (s : State) (f m u l : Nat) (g : Thread → Thread) : (s.modThread f m u l g).homes = s.homes := rfl
@[simp] theorem State.modThread_copies (s : State) (f m u l : Nat) (g : Thread → Thread) : (s.modThread f m u l g).copies = s.copies := rfl
@[simp] theorem State.modThread_sliceLast (s : State) (f m u l : Nat) (g : Thread → Thread) : (s.modThread f m u l g).sliceLast = s.sliceLast := rfl
@[simp] theorem State.modThread_scalarLast (s : State) (f m u l : Nat) (g : Thread → Thread) : (s.modThread f m u l g).scalarLast = s.scalarLast := rfl
@[simp] theorem State.modThread_matLast (s : State) (f m u l : Nat) (g : Thread → Thread) : (s.modThread f m u l g).matLast = s.matLast := rfl
@[simp] theorem State.modThread_dieLast (s : State) (f m u l : Nat) (g : Thread → Thread) : (s.modThread f m u l g).dieLast = s.dieLast := rfl
@[simp] theorem State.modThread_cycle (s : State) (f m u l : Nat) (g : Thread → Thread) : (s.modThread f m u l g).cycle = s.cycle := rfl
@[simp] theorem State.modThread_issue (s : State) (f m u l : Nat) (g : Thread → Thread) : (s.modThread f m u l g).issue = s.issue := rfl
@[simp] theorem State.modThread_subject (s : State) (f m u l : Nat) (g : Thread → Thread) : (s.modThread f m u l g).subject = s.subject := rfl
@[simp] theorem State.modThread_agenda (s : State) (f m u l : Nat) (g : Thread → Thread) : (s.modThread f m u l g).agenda = s.agenda := rfl
@[simp] theorem State.modThread_turn (s : State) (f m u l : Nat) (g : Thread → Thread) : (s.modThread f m u l g).turn = s.turn := rfl
@[simp] theorem State.modThread_cores (s : State) (f m u l : Nat) (g : Thread → Thread) : (s.modThread f m u l g).cores = s.cores := rfl
@[simp] theorem State.modThread_order (s : State) (f m u l : Nat) (g : Thread → Thread) : (s.modThread f m u l g).order = s.order := rfl
@[simp] theorem State.modThread_fresh (s : State) (f m u l : Nat) (g : Thread → Thread) : (s.modThread f m u l g).fresh = s.fresh := rfl

/-! ## modPart -/
@[simp] theorem State.modPart_flocks (s : State) (p : Nat) (g : Partition → Partition) : (s.modPart p g).flocks = s.flocks := rfl
@[simp] theorem State.modPart_partitions (s : State) (p : Nat) (g : Partition → Partition) : (s.modPart p g).partitions = modifyNth g p s.partitions := rfl
@[simp] theorem State.modPart_device (s : State) (p : Nat) (g : Partition → Partition) : (s.modPart p g).device = s.device := rfl
@[simp] theorem State.modPart_streams (s : State) (p : Nat) (g : Partition → Partition) : (s.modPart p g).streams = s.streams := rfl
@[simp] theorem State.modPart_streamNum (s : State) (p : Nat) (g : Partition → Partition) : (s.modPart p g).streamNum = s.streamNum := rfl
@[simp] theorem State.modPart_landings (s : State) (p : Nat) (g : Partition → Partition) : (s.modPart p g).landings = s.landings := rfl
@[simp] theorem State.modPart_randoms (s : State) (p : Nat) (g : Partition → Partition) : (s.modPart p g).randoms = s.randoms := rfl
@[simp] theorem State.modPart_reclaims (s : State) (p : Nat) (g : Partition → Partition) : (s.modPart p g).reclaims = s.reclaims := rfl
@[simp] theorem State.modPart_swaps (s : State) (p : Nat) (g : Partition → Partition) : (s.modPart p g).swaps = s.swaps := rfl
@[simp] theorem State.modPart_hbm (s : State) (p : Nat) (g : Partition → Partition) : (s.modPart p g).hbm = s.hbm := rfl
@[simp] theorem State.modPart_lineKeys (s : State) (p : Nat) (g : Partition → Partition) : (s.modPart p g).lineKeys = s.lineKeys := rfl
@[simp] theorem State.modPart_l2 (s : State) (p : Nat) (g : Partition → Partition) : (s.modPart p g).l2 = s.l2 := rfl
@[simp] theorem State.modPart_hostMem (s : State) (p : Nat) (g : Partition → Partition) : (s.modPart p g).hostMem = s.hostMem := rfl
@[simp] theorem State.modPart_peerMem (s : State) (p : Nat) (g : Partition → Partition) : (s.modPart p g).peerMem = s.peerMem := rfl
@[simp] theorem State.modPart_peerSpace (s : State) (p : Nat) (g : Partition → Partition) : (s.modPart p g).peerSpace = s.peerSpace := rfl
@[simp] theorem State.modPart_bad (s : State) (p : Nat) (g : Partition → Partition) : (s.modPart p g).bad = s.bad := rfl
@[simp] theorem State.modPart_late (s : State) (p : Nat) (g : Partition → Partition) : (s.modPart p g).late = s.late := rfl
@[simp] theorem State.modPart_oldEntries (s : State) (p : Nat) (g : Partition → Partition) : (s.modPart p g).oldEntries = s.oldEntries := rfl
@[simp] theorem State.modPart_oldCode (s : State) (p : Nat) (g : Partition → Partition) : (s.modPart p g).oldCode = s.oldCode := rfl
@[simp] theorem State.modPart_clocks (s : State) (p : Nat) (g : Partition → Partition) : (s.modPart p g).clocks = s.clocks := rfl
@[simp] theorem State.modPart_homes (s : State) (p : Nat) (g : Partition → Partition) : (s.modPart p g).homes = s.homes := rfl
@[simp] theorem State.modPart_copies (s : State) (p : Nat) (g : Partition → Partition) : (s.modPart p g).copies = s.copies := rfl
@[simp] theorem State.modPart_sliceLast (s : State) (p : Nat) (g : Partition → Partition) : (s.modPart p g).sliceLast = s.sliceLast := rfl
@[simp] theorem State.modPart_scalarLast (s : State) (p : Nat) (g : Partition → Partition) : (s.modPart p g).scalarLast = s.scalarLast := rfl
@[simp] theorem State.modPart_matLast (s : State) (p : Nat) (g : Partition → Partition) : (s.modPart p g).matLast = s.matLast := rfl
@[simp] theorem State.modPart_dieLast (s : State) (p : Nat) (g : Partition → Partition) : (s.modPart p g).dieLast = s.dieLast := rfl
@[simp] theorem State.modPart_cycle (s : State) (p : Nat) (g : Partition → Partition) : (s.modPart p g).cycle = s.cycle := rfl
@[simp] theorem State.modPart_issue (s : State) (p : Nat) (g : Partition → Partition) : (s.modPart p g).issue = s.issue := rfl
@[simp] theorem State.modPart_subject (s : State) (p : Nat) (g : Partition → Partition) : (s.modPart p g).subject = s.subject := rfl
@[simp] theorem State.modPart_agenda (s : State) (p : Nat) (g : Partition → Partition) : (s.modPart p g).agenda = s.agenda := rfl
@[simp] theorem State.modPart_turn (s : State) (p : Nat) (g : Partition → Partition) : (s.modPart p g).turn = s.turn := rfl
@[simp] theorem State.modPart_cores (s : State) (p : Nat) (g : Partition → Partition) : (s.modPart p g).cores = s.cores := rfl
@[simp] theorem State.modPart_order (s : State) (p : Nat) (g : Partition → Partition) : (s.modPart p g).order = s.order := rfl
@[simp] theorem State.modPart_fresh (s : State) (p : Nat) (g : Partition → Partition) : (s.modPart p g).fresh = s.fresh := rfl

/-! ## modDevice -/
@[simp] theorem State.modDevice_flocks (s : State) (g : Device → Device) : (s.modDevice g).flocks = s.flocks := rfl
@[simp] theorem State.modDevice_partitions (s : State) (g : Device → Device) : (s.modDevice g).partitions = s.partitions := rfl
@[simp] theorem State.modDevice_device (s : State) (g : Device → Device) : (s.modDevice g).device = g s.device := rfl
@[simp] theorem State.modDevice_streams (s : State) (g : Device → Device) : (s.modDevice g).streams = s.streams := rfl
@[simp] theorem State.modDevice_streamNum (s : State) (g : Device → Device) : (s.modDevice g).streamNum = s.streamNum := rfl
@[simp] theorem State.modDevice_landings (s : State) (g : Device → Device) : (s.modDevice g).landings = s.landings := rfl
@[simp] theorem State.modDevice_randoms (s : State) (g : Device → Device) : (s.modDevice g).randoms = s.randoms := rfl
@[simp] theorem State.modDevice_reclaims (s : State) (g : Device → Device) : (s.modDevice g).reclaims = s.reclaims := rfl
@[simp] theorem State.modDevice_swaps (s : State) (g : Device → Device) : (s.modDevice g).swaps = s.swaps := rfl
@[simp] theorem State.modDevice_hbm (s : State) (g : Device → Device) : (s.modDevice g).hbm = s.hbm := rfl
@[simp] theorem State.modDevice_lineKeys (s : State) (g : Device → Device) : (s.modDevice g).lineKeys = s.lineKeys := rfl
@[simp] theorem State.modDevice_l2 (s : State) (g : Device → Device) : (s.modDevice g).l2 = s.l2 := rfl
@[simp] theorem State.modDevice_hostMem (s : State) (g : Device → Device) : (s.modDevice g).hostMem = s.hostMem := rfl
@[simp] theorem State.modDevice_peerMem (s : State) (g : Device → Device) : (s.modDevice g).peerMem = s.peerMem := rfl
@[simp] theorem State.modDevice_peerSpace (s : State) (g : Device → Device) : (s.modDevice g).peerSpace = s.peerSpace := rfl
@[simp] theorem State.modDevice_bad (s : State) (g : Device → Device) : (s.modDevice g).bad = s.bad := rfl
@[simp] theorem State.modDevice_late (s : State) (g : Device → Device) : (s.modDevice g).late = s.late := rfl
@[simp] theorem State.modDevice_oldEntries (s : State) (g : Device → Device) : (s.modDevice g).oldEntries = s.oldEntries := rfl
@[simp] theorem State.modDevice_oldCode (s : State) (g : Device → Device) : (s.modDevice g).oldCode = s.oldCode := rfl
@[simp] theorem State.modDevice_clocks (s : State) (g : Device → Device) : (s.modDevice g).clocks = s.clocks := rfl
@[simp] theorem State.modDevice_homes (s : State) (g : Device → Device) : (s.modDevice g).homes = s.homes := rfl
@[simp] theorem State.modDevice_copies (s : State) (g : Device → Device) : (s.modDevice g).copies = s.copies := rfl
@[simp] theorem State.modDevice_sliceLast (s : State) (g : Device → Device) : (s.modDevice g).sliceLast = s.sliceLast := rfl
@[simp] theorem State.modDevice_scalarLast (s : State) (g : Device → Device) : (s.modDevice g).scalarLast = s.scalarLast := rfl
@[simp] theorem State.modDevice_matLast (s : State) (g : Device → Device) : (s.modDevice g).matLast = s.matLast := rfl
@[simp] theorem State.modDevice_dieLast (s : State) (g : Device → Device) : (s.modDevice g).dieLast = s.dieLast := rfl
@[simp] theorem State.modDevice_cycle (s : State) (g : Device → Device) : (s.modDevice g).cycle = s.cycle := rfl
@[simp] theorem State.modDevice_issue (s : State) (g : Device → Device) : (s.modDevice g).issue = s.issue := rfl
@[simp] theorem State.modDevice_subject (s : State) (g : Device → Device) : (s.modDevice g).subject = s.subject := rfl
@[simp] theorem State.modDevice_agenda (s : State) (g : Device → Device) : (s.modDevice g).agenda = s.agenda := rfl
@[simp] theorem State.modDevice_turn (s : State) (g : Device → Device) : (s.modDevice g).turn = s.turn := rfl
@[simp] theorem State.modDevice_cores (s : State) (g : Device → Device) : (s.modDevice g).cores = s.cores := rfl
@[simp] theorem State.modDevice_order (s : State) (g : Device → Device) : (s.modDevice g).order = s.order := rfl
@[simp] theorem State.modDevice_fresh (s : State) (g : Device → Device) : (s.modDevice g).fresh = s.fresh := rfl

/-! ## msix -/
@[simp] theorem State.msix_flocks (s : State) (fn v : Nat) : (s.msix fn v).flocks = s.flocks := rfl
@[simp] theorem State.msix_partitions (s : State) (fn v : Nat) : (s.msix fn v).partitions = s.partitions := rfl
@[simp] theorem State.msix_device (s : State) (fn v : Nat) : (s.msix fn v).device = { s.device with msix := s.device.msix ++ [(fn, v)] } := rfl
@[simp] theorem State.msix_streams (s : State) (fn v : Nat) : (s.msix fn v).streams = s.streams := rfl
@[simp] theorem State.msix_streamNum (s : State) (fn v : Nat) : (s.msix fn v).streamNum = s.streamNum := rfl
@[simp] theorem State.msix_landings (s : State) (fn v : Nat) : (s.msix fn v).landings = s.landings := rfl
@[simp] theorem State.msix_randoms (s : State) (fn v : Nat) : (s.msix fn v).randoms = s.randoms := rfl
@[simp] theorem State.msix_reclaims (s : State) (fn v : Nat) : (s.msix fn v).reclaims = s.reclaims := rfl
@[simp] theorem State.msix_swaps (s : State) (fn v : Nat) : (s.msix fn v).swaps = s.swaps := rfl
@[simp] theorem State.msix_hbm (s : State) (fn v : Nat) : (s.msix fn v).hbm = s.hbm := rfl
@[simp] theorem State.msix_lineKeys (s : State) (fn v : Nat) : (s.msix fn v).lineKeys = s.lineKeys := rfl
@[simp] theorem State.msix_l2 (s : State) (fn v : Nat) : (s.msix fn v).l2 = s.l2 := rfl
@[simp] theorem State.msix_hostMem (s : State) (fn v : Nat) : (s.msix fn v).hostMem = s.hostMem := rfl
@[simp] theorem State.msix_peerMem (s : State) (fn v : Nat) : (s.msix fn v).peerMem = s.peerMem := rfl
@[simp] theorem State.msix_peerSpace (s : State) (fn v : Nat) : (s.msix fn v).peerSpace = s.peerSpace := rfl
@[simp] theorem State.msix_bad (s : State) (fn v : Nat) : (s.msix fn v).bad = s.bad := rfl
@[simp] theorem State.msix_late (s : State) (fn v : Nat) : (s.msix fn v).late = s.late := rfl
@[simp] theorem State.msix_oldEntries (s : State) (fn v : Nat) : (s.msix fn v).oldEntries = s.oldEntries := rfl
@[simp] theorem State.msix_oldCode (s : State) (fn v : Nat) : (s.msix fn v).oldCode = s.oldCode := rfl
@[simp] theorem State.msix_clocks (s : State) (fn v : Nat) : (s.msix fn v).clocks = s.clocks := rfl
@[simp] theorem State.msix_homes (s : State) (fn v : Nat) : (s.msix fn v).homes = s.homes := rfl
@[simp] theorem State.msix_copies (s : State) (fn v : Nat) : (s.msix fn v).copies = s.copies := rfl
@[simp] theorem State.msix_sliceLast (s : State) (fn v : Nat) : (s.msix fn v).sliceLast = s.sliceLast := rfl
@[simp] theorem State.msix_scalarLast (s : State) (fn v : Nat) : (s.msix fn v).scalarLast = s.scalarLast := rfl
@[simp] theorem State.msix_matLast (s : State) (fn v : Nat) : (s.msix fn v).matLast = s.matLast := rfl
@[simp] theorem State.msix_dieLast (s : State) (fn v : Nat) : (s.msix fn v).dieLast = s.dieLast := rfl
@[simp] theorem State.msix_cycle (s : State) (fn v : Nat) : (s.msix fn v).cycle = s.cycle := rfl
@[simp] theorem State.msix_issue (s : State) (fn v : Nat) : (s.msix fn v).issue = s.issue := rfl
@[simp] theorem State.msix_subject (s : State) (fn v : Nat) : (s.msix fn v).subject = s.subject := rfl
@[simp] theorem State.msix_agenda (s : State) (fn v : Nat) : (s.msix fn v).agenda = s.agenda := rfl
@[simp] theorem State.msix_turn (s : State) (fn v : Nat) : (s.msix fn v).turn = s.turn := rfl
@[simp] theorem State.msix_cores (s : State) (fn v : Nat) : (s.msix fn v).cores = s.cores := rfl
@[simp] theorem State.msix_order (s : State) (fn v : Nat) : (s.msix fn v).order = s.order := rfl
@[simp] theorem State.msix_fresh (s : State) (fn v : Nat) : (s.msix fn v).fresh = s.fresh := rfl

/-! ## modIssue -/
@[simp] theorem State.modIssue_flocks (s : State) (g : Issue → Issue) : (s.modIssue g).flocks = s.flocks := rfl
@[simp] theorem State.modIssue_partitions (s : State) (g : Issue → Issue) : (s.modIssue g).partitions = s.partitions := rfl
@[simp] theorem State.modIssue_device (s : State) (g : Issue → Issue) : (s.modIssue g).device = s.device := rfl
@[simp] theorem State.modIssue_streams (s : State) (g : Issue → Issue) : (s.modIssue g).streams = s.streams := rfl
@[simp] theorem State.modIssue_streamNum (s : State) (g : Issue → Issue) : (s.modIssue g).streamNum = s.streamNum := rfl
@[simp] theorem State.modIssue_landings (s : State) (g : Issue → Issue) : (s.modIssue g).landings = s.landings := rfl
@[simp] theorem State.modIssue_randoms (s : State) (g : Issue → Issue) : (s.modIssue g).randoms = s.randoms := rfl
@[simp] theorem State.modIssue_reclaims (s : State) (g : Issue → Issue) : (s.modIssue g).reclaims = s.reclaims := rfl
@[simp] theorem State.modIssue_swaps (s : State) (g : Issue → Issue) : (s.modIssue g).swaps = s.swaps := rfl
@[simp] theorem State.modIssue_hbm (s : State) (g : Issue → Issue) : (s.modIssue g).hbm = s.hbm := rfl
@[simp] theorem State.modIssue_lineKeys (s : State) (g : Issue → Issue) : (s.modIssue g).lineKeys = s.lineKeys := rfl
@[simp] theorem State.modIssue_l2 (s : State) (g : Issue → Issue) : (s.modIssue g).l2 = s.l2 := rfl
@[simp] theorem State.modIssue_hostMem (s : State) (g : Issue → Issue) : (s.modIssue g).hostMem = s.hostMem := rfl
@[simp] theorem State.modIssue_peerMem (s : State) (g : Issue → Issue) : (s.modIssue g).peerMem = s.peerMem := rfl
@[simp] theorem State.modIssue_peerSpace (s : State) (g : Issue → Issue) : (s.modIssue g).peerSpace = s.peerSpace := rfl
@[simp] theorem State.modIssue_bad (s : State) (g : Issue → Issue) : (s.modIssue g).bad = s.bad := rfl
@[simp] theorem State.modIssue_late (s : State) (g : Issue → Issue) : (s.modIssue g).late = s.late := rfl
@[simp] theorem State.modIssue_oldEntries (s : State) (g : Issue → Issue) : (s.modIssue g).oldEntries = s.oldEntries := rfl
@[simp] theorem State.modIssue_oldCode (s : State) (g : Issue → Issue) : (s.modIssue g).oldCode = s.oldCode := rfl
@[simp] theorem State.modIssue_clocks (s : State) (g : Issue → Issue) : (s.modIssue g).clocks = s.clocks := rfl
@[simp] theorem State.modIssue_homes (s : State) (g : Issue → Issue) : (s.modIssue g).homes = s.homes := rfl
@[simp] theorem State.modIssue_copies (s : State) (g : Issue → Issue) : (s.modIssue g).copies = s.copies := rfl
@[simp] theorem State.modIssue_sliceLast (s : State) (g : Issue → Issue) : (s.modIssue g).sliceLast = s.sliceLast := rfl
@[simp] theorem State.modIssue_scalarLast (s : State) (g : Issue → Issue) : (s.modIssue g).scalarLast = s.scalarLast := rfl
@[simp] theorem State.modIssue_matLast (s : State) (g : Issue → Issue) : (s.modIssue g).matLast = s.matLast := rfl
@[simp] theorem State.modIssue_dieLast (s : State) (g : Issue → Issue) : (s.modIssue g).dieLast = s.dieLast := rfl
@[simp] theorem State.modIssue_cycle (s : State) (g : Issue → Issue) : (s.modIssue g).cycle = s.cycle := rfl
@[simp] theorem State.modIssue_issue (s : State) (g : Issue → Issue) : (s.modIssue g).issue = s.issue.map g := rfl
@[simp] theorem State.modIssue_subject (s : State) (g : Issue → Issue) : (s.modIssue g).subject = s.subject := rfl
@[simp] theorem State.modIssue_agenda (s : State) (g : Issue → Issue) : (s.modIssue g).agenda = s.agenda := rfl
@[simp] theorem State.modIssue_turn (s : State) (g : Issue → Issue) : (s.modIssue g).turn = s.turn := rfl
@[simp] theorem State.modIssue_cores (s : State) (g : Issue → Issue) : (s.modIssue g).cores = s.cores := rfl
@[simp] theorem State.modIssue_order (s : State) (g : Issue → Issue) : (s.modIssue g).order = s.order := rfl
@[simp] theorem State.modIssue_fresh (s : State) (g : Issue → Issue) : (s.modIssue g).fresh = s.fresh := rfl

/-! ## withIssue -/
@[simp] theorem State.withIssue_flocks (s : State) (c : Issue) : (s.withIssue c).flocks = s.flocks := rfl
@[simp] theorem State.withIssue_partitions (s : State) (c : Issue) : (s.withIssue c).partitions = s.partitions := rfl
@[simp] theorem State.withIssue_device (s : State) (c : Issue) : (s.withIssue c).device = s.device := rfl
@[simp] theorem State.withIssue_streams (s : State) (c : Issue) : (s.withIssue c).streams = s.streams := rfl
@[simp] theorem State.withIssue_streamNum (s : State) (c : Issue) : (s.withIssue c).streamNum = s.streamNum := rfl
@[simp] theorem State.withIssue_landings (s : State) (c : Issue) : (s.withIssue c).landings = s.landings := rfl
@[simp] theorem State.withIssue_randoms (s : State) (c : Issue) : (s.withIssue c).randoms = s.randoms := rfl
@[simp] theorem State.withIssue_reclaims (s : State) (c : Issue) : (s.withIssue c).reclaims = s.reclaims := rfl
@[simp] theorem State.withIssue_swaps (s : State) (c : Issue) : (s.withIssue c).swaps = s.swaps := rfl
@[simp] theorem State.withIssue_hbm (s : State) (c : Issue) : (s.withIssue c).hbm = s.hbm := rfl
@[simp] theorem State.withIssue_lineKeys (s : State) (c : Issue) : (s.withIssue c).lineKeys = s.lineKeys := rfl
@[simp] theorem State.withIssue_l2 (s : State) (c : Issue) : (s.withIssue c).l2 = s.l2 := rfl
@[simp] theorem State.withIssue_hostMem (s : State) (c : Issue) : (s.withIssue c).hostMem = s.hostMem := rfl
@[simp] theorem State.withIssue_peerMem (s : State) (c : Issue) : (s.withIssue c).peerMem = s.peerMem := rfl
@[simp] theorem State.withIssue_peerSpace (s : State) (c : Issue) : (s.withIssue c).peerSpace = s.peerSpace := rfl
@[simp] theorem State.withIssue_bad (s : State) (c : Issue) : (s.withIssue c).bad = s.bad := rfl
@[simp] theorem State.withIssue_late (s : State) (c : Issue) : (s.withIssue c).late = s.late := rfl
@[simp] theorem State.withIssue_oldEntries (s : State) (c : Issue) : (s.withIssue c).oldEntries = s.oldEntries := rfl
@[simp] theorem State.withIssue_oldCode (s : State) (c : Issue) : (s.withIssue c).oldCode = s.oldCode := rfl
@[simp] theorem State.withIssue_clocks (s : State) (c : Issue) : (s.withIssue c).clocks = s.clocks := rfl
@[simp] theorem State.withIssue_homes (s : State) (c : Issue) : (s.withIssue c).homes = s.homes := rfl
@[simp] theorem State.withIssue_copies (s : State) (c : Issue) : (s.withIssue c).copies = s.copies := rfl
@[simp] theorem State.withIssue_sliceLast (s : State) (c : Issue) : (s.withIssue c).sliceLast = s.sliceLast := rfl
@[simp] theorem State.withIssue_scalarLast (s : State) (c : Issue) : (s.withIssue c).scalarLast = s.scalarLast := rfl
@[simp] theorem State.withIssue_matLast (s : State) (c : Issue) : (s.withIssue c).matLast = s.matLast := rfl
@[simp] theorem State.withIssue_dieLast (s : State) (c : Issue) : (s.withIssue c).dieLast = s.dieLast := rfl
@[simp] theorem State.withIssue_cycle (s : State) (c : Issue) : (s.withIssue c).cycle = s.cycle := rfl
@[simp] theorem State.withIssue_issue (s : State) (c : Issue) : (s.withIssue c).issue = some c := rfl
@[simp] theorem State.withIssue_subject (s : State) (c : Issue) : (s.withIssue c).subject = s.subject := rfl
@[simp] theorem State.withIssue_agenda (s : State) (c : Issue) : (s.withIssue c).agenda = s.agenda := rfl
@[simp] theorem State.withIssue_turn (s : State) (c : Issue) : (s.withIssue c).turn = s.turn := rfl
@[simp] theorem State.withIssue_cores (s : State) (c : Issue) : (s.withIssue c).cores = s.cores := rfl
@[simp] theorem State.withIssue_order (s : State) (c : Issue) : (s.withIssue c).order = s.order := rfl
@[simp] theorem State.withIssue_fresh (s : State) (c : Issue) : (s.withIssue c).fresh = s.fresh := rfl

/-! ## nextFresh -/
@[simp] theorem State.nextFresh_flocks (s : State) : (s.nextFresh).flocks = s.flocks := rfl
@[simp] theorem State.nextFresh_partitions (s : State) : (s.nextFresh).partitions = s.partitions := rfl
@[simp] theorem State.nextFresh_device (s : State) : (s.nextFresh).device = s.device := rfl
@[simp] theorem State.nextFresh_streams (s : State) : (s.nextFresh).streams = s.streams := rfl
@[simp] theorem State.nextFresh_streamNum (s : State) : (s.nextFresh).streamNum = s.streamNum := rfl
@[simp] theorem State.nextFresh_landings (s : State) : (s.nextFresh).landings = s.landings := rfl
@[simp] theorem State.nextFresh_randoms (s : State) : (s.nextFresh).randoms = s.randoms := rfl
@[simp] theorem State.nextFresh_reclaims (s : State) : (s.nextFresh).reclaims = s.reclaims := rfl
@[simp] theorem State.nextFresh_swaps (s : State) : (s.nextFresh).swaps = s.swaps := rfl
@[simp] theorem State.nextFresh_hbm (s : State) : (s.nextFresh).hbm = s.hbm := rfl
@[simp] theorem State.nextFresh_lineKeys (s : State) : (s.nextFresh).lineKeys = s.lineKeys := rfl
@[simp] theorem State.nextFresh_l2 (s : State) : (s.nextFresh).l2 = s.l2 := rfl
@[simp] theorem State.nextFresh_hostMem (s : State) : (s.nextFresh).hostMem = s.hostMem := rfl
@[simp] theorem State.nextFresh_peerMem (s : State) : (s.nextFresh).peerMem = s.peerMem := rfl
@[simp] theorem State.nextFresh_peerSpace (s : State) : (s.nextFresh).peerSpace = s.peerSpace := rfl
@[simp] theorem State.nextFresh_bad (s : State) : (s.nextFresh).bad = s.bad := rfl
@[simp] theorem State.nextFresh_late (s : State) : (s.nextFresh).late = s.late := rfl
@[simp] theorem State.nextFresh_oldEntries (s : State) : (s.nextFresh).oldEntries = s.oldEntries := rfl
@[simp] theorem State.nextFresh_oldCode (s : State) : (s.nextFresh).oldCode = s.oldCode := rfl
@[simp] theorem State.nextFresh_clocks (s : State) : (s.nextFresh).clocks = s.clocks := rfl
@[simp] theorem State.nextFresh_homes (s : State) : (s.nextFresh).homes = s.homes := rfl
@[simp] theorem State.nextFresh_copies (s : State) : (s.nextFresh).copies = s.copies := rfl
@[simp] theorem State.nextFresh_sliceLast (s : State) : (s.nextFresh).sliceLast = s.sliceLast := rfl
@[simp] theorem State.nextFresh_scalarLast (s : State) : (s.nextFresh).scalarLast = s.scalarLast := rfl
@[simp] theorem State.nextFresh_matLast (s : State) : (s.nextFresh).matLast = s.matLast := rfl
@[simp] theorem State.nextFresh_dieLast (s : State) : (s.nextFresh).dieLast = s.dieLast := rfl
@[simp] theorem State.nextFresh_cycle (s : State) : (s.nextFresh).cycle = s.cycle := rfl
@[simp] theorem State.nextFresh_issue (s : State) : (s.nextFresh).issue = s.issue := rfl
@[simp] theorem State.nextFresh_subject (s : State) : (s.nextFresh).subject = s.subject := rfl
@[simp] theorem State.nextFresh_agenda (s : State) : (s.nextFresh).agenda = s.agenda := rfl
@[simp] theorem State.nextFresh_turn (s : State) : (s.nextFresh).turn = s.turn := rfl
@[simp] theorem State.nextFresh_cores (s : State) : (s.nextFresh).cores = s.cores := rfl
@[simp] theorem State.nextFresh_order (s : State) : (s.nextFresh).order = s.order := rfl
@[simp] theorem State.nextFresh_fresh (s : State) : (s.nextFresh).fresh = s.fresh + 1 := rfl

/-! ## block -/
@[simp] theorem State.block_flocks (s : State) : (s.block).flocks = s.flocks := rfl
@[simp] theorem State.block_partitions (s : State) : (s.block).partitions = s.partitions := rfl
@[simp] theorem State.block_device (s : State) : (s.block).device = s.device := rfl
@[simp] theorem State.block_streams (s : State) : (s.block).streams = s.streams := rfl
@[simp] theorem State.block_streamNum (s : State) : (s.block).streamNum = s.streamNum := rfl
@[simp] theorem State.block_landings (s : State) : (s.block).landings = s.landings := rfl
@[simp] theorem State.block_randoms (s : State) : (s.block).randoms = s.randoms := rfl
@[simp] theorem State.block_reclaims (s : State) : (s.block).reclaims = s.reclaims := rfl
@[simp] theorem State.block_swaps (s : State) : (s.block).swaps = s.swaps := rfl
@[simp] theorem State.block_hbm (s : State) : (s.block).hbm = s.hbm := rfl
@[simp] theorem State.block_lineKeys (s : State) : (s.block).lineKeys = s.lineKeys := rfl
@[simp] theorem State.block_l2 (s : State) : (s.block).l2 = s.l2 := rfl
@[simp] theorem State.block_hostMem (s : State) : (s.block).hostMem = s.hostMem := rfl
@[simp] theorem State.block_peerMem (s : State) : (s.block).peerMem = s.peerMem := rfl
@[simp] theorem State.block_peerSpace (s : State) : (s.block).peerSpace = s.peerSpace := rfl
@[simp] theorem State.block_bad (s : State) : (s.block).bad = s.bad := rfl
@[simp] theorem State.block_late (s : State) : (s.block).late = s.late := rfl
@[simp] theorem State.block_oldEntries (s : State) : (s.block).oldEntries = s.oldEntries := rfl
@[simp] theorem State.block_oldCode (s : State) : (s.block).oldCode = s.oldCode := rfl
@[simp] theorem State.block_clocks (s : State) : (s.block).clocks = s.clocks := rfl
@[simp] theorem State.block_homes (s : State) : (s.block).homes = s.homes := rfl
@[simp] theorem State.block_copies (s : State) : (s.block).copies = s.copies := rfl
@[simp] theorem State.block_sliceLast (s : State) : (s.block).sliceLast = s.sliceLast := rfl
@[simp] theorem State.block_scalarLast (s : State) : (s.block).scalarLast = s.scalarLast := rfl
@[simp] theorem State.block_matLast (s : State) : (s.block).matLast = s.matLast := rfl
@[simp] theorem State.block_dieLast (s : State) : (s.block).dieLast = s.dieLast := rfl
@[simp] theorem State.block_cycle (s : State) : (s.block).cycle = s.cycle := rfl
@[simp] theorem State.block_issue (s : State) : (s.block).issue = s.issue.map fun c => { c with blocked := true } := rfl
@[simp] theorem State.block_subject (s : State) : (s.block).subject = s.subject := rfl
@[simp] theorem State.block_agenda (s : State) : (s.block).agenda = s.agenda := rfl
@[simp] theorem State.block_turn (s : State) : (s.block).turn = s.turn := rfl
@[simp] theorem State.block_cores (s : State) : (s.block).cores = s.cores := rfl
@[simp] theorem State.block_order (s : State) : (s.block).order = s.order := rfl
@[simp] theorem State.block_fresh (s : State) : (s.block).fresh = s.fresh := rfl

/-! ## holdGroup -/
@[simp] theorem State.holdGroup_flocks (s : State) (h : Hold) : (s.holdGroup h).flocks = s.flocks := rfl
@[simp] theorem State.holdGroup_partitions (s : State) (h : Hold) : (s.holdGroup h).partitions = s.partitions := rfl
@[simp] theorem State.holdGroup_device (s : State) (h : Hold) : (s.holdGroup h).device = s.device := rfl
@[simp] theorem State.holdGroup_streams (s : State) (h : Hold) : (s.holdGroup h).streams = s.streams := rfl
@[simp] theorem State.holdGroup_streamNum (s : State) (h : Hold) : (s.holdGroup h).streamNum = s.streamNum := rfl
@[simp] theorem State.holdGroup_landings (s : State) (h : Hold) : (s.holdGroup h).landings = s.landings := rfl
@[simp] theorem State.holdGroup_randoms (s : State) (h : Hold) : (s.holdGroup h).randoms = s.randoms := rfl
@[simp] theorem State.holdGroup_reclaims (s : State) (h : Hold) : (s.holdGroup h).reclaims = s.reclaims := rfl
@[simp] theorem State.holdGroup_swaps (s : State) (h : Hold) : (s.holdGroup h).swaps = s.swaps := rfl
@[simp] theorem State.holdGroup_hbm (s : State) (h : Hold) : (s.holdGroup h).hbm = s.hbm := rfl
@[simp] theorem State.holdGroup_lineKeys (s : State) (h : Hold) : (s.holdGroup h).lineKeys = s.lineKeys := rfl
@[simp] theorem State.holdGroup_l2 (s : State) (h : Hold) : (s.holdGroup h).l2 = s.l2 := rfl
@[simp] theorem State.holdGroup_hostMem (s : State) (h : Hold) : (s.holdGroup h).hostMem = s.hostMem := rfl
@[simp] theorem State.holdGroup_peerMem (s : State) (h : Hold) : (s.holdGroup h).peerMem = s.peerMem := rfl
@[simp] theorem State.holdGroup_peerSpace (s : State) (h : Hold) : (s.holdGroup h).peerSpace = s.peerSpace := rfl
@[simp] theorem State.holdGroup_bad (s : State) (h : Hold) : (s.holdGroup h).bad = s.bad := rfl
@[simp] theorem State.holdGroup_late (s : State) (h : Hold) : (s.holdGroup h).late = s.late := rfl
@[simp] theorem State.holdGroup_oldEntries (s : State) (h : Hold) : (s.holdGroup h).oldEntries = s.oldEntries := rfl
@[simp] theorem State.holdGroup_oldCode (s : State) (h : Hold) : (s.holdGroup h).oldCode = s.oldCode := rfl
@[simp] theorem State.holdGroup_clocks (s : State) (h : Hold) : (s.holdGroup h).clocks = s.clocks := rfl
@[simp] theorem State.holdGroup_homes (s : State) (h : Hold) : (s.holdGroup h).homes = s.homes := rfl
@[simp] theorem State.holdGroup_copies (s : State) (h : Hold) : (s.holdGroup h).copies = s.copies := rfl
@[simp] theorem State.holdGroup_sliceLast (s : State) (h : Hold) : (s.holdGroup h).sliceLast = s.sliceLast := rfl
@[simp] theorem State.holdGroup_scalarLast (s : State) (h : Hold) : (s.holdGroup h).scalarLast = s.scalarLast := rfl
@[simp] theorem State.holdGroup_matLast (s : State) (h : Hold) : (s.holdGroup h).matLast = s.matLast := rfl
@[simp] theorem State.holdGroup_dieLast (s : State) (h : Hold) : (s.holdGroup h).dieLast = s.dieLast := rfl
@[simp] theorem State.holdGroup_cycle (s : State) (h : Hold) : (s.holdGroup h).cycle = s.cycle := rfl
@[simp] theorem State.holdGroup_issue (s : State) (h : Hold) : (s.holdGroup h).issue = s.issue.map fun c => { c with held := some h } := rfl
@[simp] theorem State.holdGroup_subject (s : State) (h : Hold) : (s.holdGroup h).subject = s.subject := rfl
@[simp] theorem State.holdGroup_agenda (s : State) (h : Hold) : (s.holdGroup h).agenda = s.agenda := rfl
@[simp] theorem State.holdGroup_turn (s : State) (h : Hold) : (s.holdGroup h).turn = s.turn := rfl
@[simp] theorem State.holdGroup_cores (s : State) (h : Hold) : (s.holdGroup h).cores = s.cores := rfl
@[simp] theorem State.holdGroup_order (s : State) (h : Hold) : (s.holdGroup h).order = s.order := rfl
@[simp] theorem State.holdGroup_fresh (s : State) (h : Hold) : (s.holdGroup h).fresh = s.fresh := rfl

/-! ## trapLane -/
@[simp] theorem State.trapLane_flocks (s : State) (l cause : Nat) (a : DWord) : (s.trapLane l cause a).flocks = s.flocks := rfl
@[simp] theorem State.trapLane_partitions (s : State) (l cause : Nat) (a : DWord) : (s.trapLane l cause a).partitions = s.partitions := rfl
@[simp] theorem State.trapLane_device (s : State) (l cause : Nat) (a : DWord) : (s.trapLane l cause a).device = s.device := rfl
@[simp] theorem State.trapLane_streams (s : State) (l cause : Nat) (a : DWord) : (s.trapLane l cause a).streams = s.streams := rfl
@[simp] theorem State.trapLane_streamNum (s : State) (l cause : Nat) (a : DWord) : (s.trapLane l cause a).streamNum = s.streamNum := rfl
@[simp] theorem State.trapLane_landings (s : State) (l cause : Nat) (a : DWord) : (s.trapLane l cause a).landings = s.landings := rfl
@[simp] theorem State.trapLane_randoms (s : State) (l cause : Nat) (a : DWord) : (s.trapLane l cause a).randoms = s.randoms := rfl
@[simp] theorem State.trapLane_reclaims (s : State) (l cause : Nat) (a : DWord) : (s.trapLane l cause a).reclaims = s.reclaims := rfl
@[simp] theorem State.trapLane_swaps (s : State) (l cause : Nat) (a : DWord) : (s.trapLane l cause a).swaps = s.swaps := rfl
@[simp] theorem State.trapLane_hbm (s : State) (l cause : Nat) (a : DWord) : (s.trapLane l cause a).hbm = s.hbm := rfl
@[simp] theorem State.trapLane_lineKeys (s : State) (l cause : Nat) (a : DWord) : (s.trapLane l cause a).lineKeys = s.lineKeys := rfl
@[simp] theorem State.trapLane_l2 (s : State) (l cause : Nat) (a : DWord) : (s.trapLane l cause a).l2 = s.l2 := rfl
@[simp] theorem State.trapLane_hostMem (s : State) (l cause : Nat) (a : DWord) : (s.trapLane l cause a).hostMem = s.hostMem := rfl
@[simp] theorem State.trapLane_peerMem (s : State) (l cause : Nat) (a : DWord) : (s.trapLane l cause a).peerMem = s.peerMem := rfl
@[simp] theorem State.trapLane_peerSpace (s : State) (l cause : Nat) (a : DWord) : (s.trapLane l cause a).peerSpace = s.peerSpace := rfl
@[simp] theorem State.trapLane_bad (s : State) (l cause : Nat) (a : DWord) : (s.trapLane l cause a).bad = s.bad := rfl
@[simp] theorem State.trapLane_late (s : State) (l cause : Nat) (a : DWord) : (s.trapLane l cause a).late = s.late := rfl
@[simp] theorem State.trapLane_oldEntries (s : State) (l cause : Nat) (a : DWord) : (s.trapLane l cause a).oldEntries = s.oldEntries := rfl
@[simp] theorem State.trapLane_oldCode (s : State) (l cause : Nat) (a : DWord) : (s.trapLane l cause a).oldCode = s.oldCode := rfl
@[simp] theorem State.trapLane_clocks (s : State) (l cause : Nat) (a : DWord) : (s.trapLane l cause a).clocks = s.clocks := rfl
@[simp] theorem State.trapLane_homes (s : State) (l cause : Nat) (a : DWord) : (s.trapLane l cause a).homes = s.homes := rfl
@[simp] theorem State.trapLane_copies (s : State) (l cause : Nat) (a : DWord) : (s.trapLane l cause a).copies = s.copies := rfl
@[simp] theorem State.trapLane_sliceLast (s : State) (l cause : Nat) (a : DWord) : (s.trapLane l cause a).sliceLast = s.sliceLast := rfl
@[simp] theorem State.trapLane_scalarLast (s : State) (l cause : Nat) (a : DWord) : (s.trapLane l cause a).scalarLast = s.scalarLast := rfl
@[simp] theorem State.trapLane_matLast (s : State) (l cause : Nat) (a : DWord) : (s.trapLane l cause a).matLast = s.matLast := rfl
@[simp] theorem State.trapLane_dieLast (s : State) (l cause : Nat) (a : DWord) : (s.trapLane l cause a).dieLast = s.dieLast := rfl
@[simp] theorem State.trapLane_cycle (s : State) (l cause : Nat) (a : DWord) : (s.trapLane l cause a).cycle = s.cycle := rfl
@[simp] theorem State.trapLane_issue (s : State) (l cause : Nat) (a : DWord) : (s.trapLane l cause a).issue = s.issue.map fun c => { c with traps := c.traps ++ [(l, cause, a)] } := rfl
@[simp] theorem State.trapLane_subject (s : State) (l cause : Nat) (a : DWord) : (s.trapLane l cause a).subject = s.subject := rfl
@[simp] theorem State.trapLane_agenda (s : State) (l cause : Nat) (a : DWord) : (s.trapLane l cause a).agenda = s.agenda := rfl
@[simp] theorem State.trapLane_turn (s : State) (l cause : Nat) (a : DWord) : (s.trapLane l cause a).turn = s.turn := rfl
@[simp] theorem State.trapLane_cores (s : State) (l cause : Nat) (a : DWord) : (s.trapLane l cause a).cores = s.cores := rfl
@[simp] theorem State.trapLane_order (s : State) (l cause : Nat) (a : DWord) : (s.trapLane l cause a).order = s.order := rfl
@[simp] theorem State.trapLane_fresh (s : State) (l cause : Nat) (a : DWord) : (s.trapLane l cause a).fresh = s.fresh := rfl

/-! ## strayLane -/
@[simp] theorem State.strayLane_flocks (s : State) (l : Nat) (a : DWord) (d : Nat) : (s.strayLane l a d).flocks = s.flocks := rfl
@[simp] theorem State.strayLane_partitions (s : State) (l : Nat) (a : DWord) (d : Nat) : (s.strayLane l a d).partitions = s.partitions := rfl
@[simp] theorem State.strayLane_device (s : State) (l : Nat) (a : DWord) (d : Nat) : (s.strayLane l a d).device = s.device := rfl
@[simp] theorem State.strayLane_streams (s : State) (l : Nat) (a : DWord) (d : Nat) : (s.strayLane l a d).streams = s.streams := rfl
@[simp] theorem State.strayLane_streamNum (s : State) (l : Nat) (a : DWord) (d : Nat) : (s.strayLane l a d).streamNum = s.streamNum := rfl
@[simp] theorem State.strayLane_landings (s : State) (l : Nat) (a : DWord) (d : Nat) : (s.strayLane l a d).landings = s.landings := rfl
@[simp] theorem State.strayLane_randoms (s : State) (l : Nat) (a : DWord) (d : Nat) : (s.strayLane l a d).randoms = s.randoms := rfl
@[simp] theorem State.strayLane_reclaims (s : State) (l : Nat) (a : DWord) (d : Nat) : (s.strayLane l a d).reclaims = s.reclaims := rfl
@[simp] theorem State.strayLane_swaps (s : State) (l : Nat) (a : DWord) (d : Nat) : (s.strayLane l a d).swaps = s.swaps := rfl
@[simp] theorem State.strayLane_hbm (s : State) (l : Nat) (a : DWord) (d : Nat) : (s.strayLane l a d).hbm = s.hbm := rfl
@[simp] theorem State.strayLane_lineKeys (s : State) (l : Nat) (a : DWord) (d : Nat) : (s.strayLane l a d).lineKeys = s.lineKeys := rfl
@[simp] theorem State.strayLane_l2 (s : State) (l : Nat) (a : DWord) (d : Nat) : (s.strayLane l a d).l2 = s.l2 := rfl
@[simp] theorem State.strayLane_hostMem (s : State) (l : Nat) (a : DWord) (d : Nat) : (s.strayLane l a d).hostMem = s.hostMem := rfl
@[simp] theorem State.strayLane_peerMem (s : State) (l : Nat) (a : DWord) (d : Nat) : (s.strayLane l a d).peerMem = s.peerMem := rfl
@[simp] theorem State.strayLane_peerSpace (s : State) (l : Nat) (a : DWord) (d : Nat) : (s.strayLane l a d).peerSpace = s.peerSpace := rfl
@[simp] theorem State.strayLane_bad (s : State) (l : Nat) (a : DWord) (d : Nat) : (s.strayLane l a d).bad = s.bad := rfl
@[simp] theorem State.strayLane_late (s : State) (l : Nat) (a : DWord) (d : Nat) : (s.strayLane l a d).late = s.late := rfl
@[simp] theorem State.strayLane_oldEntries (s : State) (l : Nat) (a : DWord) (d : Nat) : (s.strayLane l a d).oldEntries = s.oldEntries := rfl
@[simp] theorem State.strayLane_oldCode (s : State) (l : Nat) (a : DWord) (d : Nat) : (s.strayLane l a d).oldCode = s.oldCode := rfl
@[simp] theorem State.strayLane_clocks (s : State) (l : Nat) (a : DWord) (d : Nat) : (s.strayLane l a d).clocks = s.clocks := rfl
@[simp] theorem State.strayLane_homes (s : State) (l : Nat) (a : DWord) (d : Nat) : (s.strayLane l a d).homes = s.homes := rfl
@[simp] theorem State.strayLane_copies (s : State) (l : Nat) (a : DWord) (d : Nat) : (s.strayLane l a d).copies = s.copies := rfl
@[simp] theorem State.strayLane_sliceLast (s : State) (l : Nat) (a : DWord) (d : Nat) : (s.strayLane l a d).sliceLast = s.sliceLast := rfl
@[simp] theorem State.strayLane_scalarLast (s : State) (l : Nat) (a : DWord) (d : Nat) : (s.strayLane l a d).scalarLast = s.scalarLast := rfl
@[simp] theorem State.strayLane_matLast (s : State) (l : Nat) (a : DWord) (d : Nat) : (s.strayLane l a d).matLast = s.matLast := rfl
@[simp] theorem State.strayLane_dieLast (s : State) (l : Nat) (a : DWord) (d : Nat) : (s.strayLane l a d).dieLast = s.dieLast := rfl
@[simp] theorem State.strayLane_cycle (s : State) (l : Nat) (a : DWord) (d : Nat) : (s.strayLane l a d).cycle = s.cycle := rfl
@[simp] theorem State.strayLane_issue (s : State) (l : Nat) (a : DWord) (d : Nat) : (s.strayLane l a d).issue = s.issue.map fun c => { c with strays := c.strays ++ [(l, a, d)] } := rfl
@[simp] theorem State.strayLane_subject (s : State) (l : Nat) (a : DWord) (d : Nat) : (s.strayLane l a d).subject = s.subject := rfl
@[simp] theorem State.strayLane_agenda (s : State) (l : Nat) (a : DWord) (d : Nat) : (s.strayLane l a d).agenda = s.agenda := rfl
@[simp] theorem State.strayLane_turn (s : State) (l : Nat) (a : DWord) (d : Nat) : (s.strayLane l a d).turn = s.turn := rfl
@[simp] theorem State.strayLane_cores (s : State) (l : Nat) (a : DWord) (d : Nat) : (s.strayLane l a d).cores = s.cores := rfl
@[simp] theorem State.strayLane_order (s : State) (l : Nat) (a : DWord) (d : Nat) : (s.strayLane l a d).order = s.order := rfl
@[simp] theorem State.strayLane_fresh (s : State) (l : Nat) (a : DWord) (d : Nat) : (s.strayLane l a d).fresh = s.fresh := rfl

/-! ## defer -/
@[simp] theorem State.defer_flocks (s : State) (d : Deferred) : (s.defer d).flocks = s.flocks := rfl
@[simp] theorem State.defer_partitions (s : State) (d : Deferred) : (s.defer d).partitions = s.partitions := rfl
@[simp] theorem State.defer_device (s : State) (d : Deferred) : (s.defer d).device = s.device := rfl
@[simp] theorem State.defer_streams (s : State) (d : Deferred) : (s.defer d).streams = s.streams := rfl
@[simp] theorem State.defer_streamNum (s : State) (d : Deferred) : (s.defer d).streamNum = s.streamNum := rfl
@[simp] theorem State.defer_landings (s : State) (d : Deferred) : (s.defer d).landings = s.landings := rfl
@[simp] theorem State.defer_randoms (s : State) (d : Deferred) : (s.defer d).randoms = s.randoms := rfl
@[simp] theorem State.defer_reclaims (s : State) (d : Deferred) : (s.defer d).reclaims = s.reclaims := rfl
@[simp] theorem State.defer_swaps (s : State) (d : Deferred) : (s.defer d).swaps = s.swaps := rfl
@[simp] theorem State.defer_hbm (s : State) (d : Deferred) : (s.defer d).hbm = s.hbm := rfl
@[simp] theorem State.defer_lineKeys (s : State) (d : Deferred) : (s.defer d).lineKeys = s.lineKeys := rfl
@[simp] theorem State.defer_l2 (s : State) (d : Deferred) : (s.defer d).l2 = s.l2 := rfl
@[simp] theorem State.defer_hostMem (s : State) (d : Deferred) : (s.defer d).hostMem = s.hostMem := rfl
@[simp] theorem State.defer_peerMem (s : State) (d : Deferred) : (s.defer d).peerMem = s.peerMem := rfl
@[simp] theorem State.defer_peerSpace (s : State) (d : Deferred) : (s.defer d).peerSpace = s.peerSpace := rfl
@[simp] theorem State.defer_bad (s : State) (d : Deferred) : (s.defer d).bad = s.bad := rfl
@[simp] theorem State.defer_late (s : State) (d : Deferred) : (s.defer d).late = s.late := rfl
@[simp] theorem State.defer_oldEntries (s : State) (d : Deferred) : (s.defer d).oldEntries = s.oldEntries := rfl
@[simp] theorem State.defer_oldCode (s : State) (d : Deferred) : (s.defer d).oldCode = s.oldCode := rfl
@[simp] theorem State.defer_clocks (s : State) (d : Deferred) : (s.defer d).clocks = s.clocks := rfl
@[simp] theorem State.defer_homes (s : State) (d : Deferred) : (s.defer d).homes = s.homes := rfl
@[simp] theorem State.defer_copies (s : State) (d : Deferred) : (s.defer d).copies = s.copies := rfl
@[simp] theorem State.defer_sliceLast (s : State) (d : Deferred) : (s.defer d).sliceLast = s.sliceLast := rfl
@[simp] theorem State.defer_scalarLast (s : State) (d : Deferred) : (s.defer d).scalarLast = s.scalarLast := rfl
@[simp] theorem State.defer_matLast (s : State) (d : Deferred) : (s.defer d).matLast = s.matLast := rfl
@[simp] theorem State.defer_dieLast (s : State) (d : Deferred) : (s.defer d).dieLast = s.dieLast := rfl
@[simp] theorem State.defer_cycle (s : State) (d : Deferred) : (s.defer d).cycle = s.cycle := rfl
@[simp] theorem State.defer_issue (s : State) (d : Deferred) : (s.defer d).issue = s.issue.map fun c => { c with deferred := c.deferred ++ [d] } := rfl
@[simp] theorem State.defer_subject (s : State) (d : Deferred) : (s.defer d).subject = s.subject := rfl
@[simp] theorem State.defer_agenda (s : State) (d : Deferred) : (s.defer d).agenda = s.agenda := rfl
@[simp] theorem State.defer_turn (s : State) (d : Deferred) : (s.defer d).turn = s.turn := rfl
@[simp] theorem State.defer_cores (s : State) (d : Deferred) : (s.defer d).cores = s.cores := rfl
@[simp] theorem State.defer_order (s : State) (d : Deferred) : (s.defer d).order = s.order := rfl
@[simp] theorem State.defer_fresh (s : State) (d : Deferred) : (s.defer d).fresh = s.fresh := rfl

/-! ## setBuffer -/
@[simp] theorem State.setBuffer_flocks (s : State) (p k st : Nat) : (s.setBuffer p k st).flocks = s.flocks := rfl
@[simp] theorem State.setBuffer_partitions (s : State) (p k st : Nat) : (s.setBuffer p k st).partitions = modifyNth (fun q => { q with eng := { q.eng with buffers := assocSet 0 k st q.eng.buffers, filled := q.eng.filled.filter fun x => x.1 ≠ k } }) p s.partitions := rfl
@[simp] theorem State.setBuffer_device (s : State) (p k st : Nat) : (s.setBuffer p k st).device = s.device := rfl
@[simp] theorem State.setBuffer_streams (s : State) (p k st : Nat) : (s.setBuffer p k st).streams = s.streams := rfl
@[simp] theorem State.setBuffer_streamNum (s : State) (p k st : Nat) : (s.setBuffer p k st).streamNum = s.streamNum := rfl
@[simp] theorem State.setBuffer_landings (s : State) (p k st : Nat) : (s.setBuffer p k st).landings = s.landings := rfl
@[simp] theorem State.setBuffer_randoms (s : State) (p k st : Nat) : (s.setBuffer p k st).randoms = s.randoms := rfl
@[simp] theorem State.setBuffer_reclaims (s : State) (p k st : Nat) : (s.setBuffer p k st).reclaims = s.reclaims := rfl
@[simp] theorem State.setBuffer_swaps (s : State) (p k st : Nat) : (s.setBuffer p k st).swaps = s.swaps := rfl
@[simp] theorem State.setBuffer_hbm (s : State) (p k st : Nat) : (s.setBuffer p k st).hbm = s.hbm := rfl
@[simp] theorem State.setBuffer_lineKeys (s : State) (p k st : Nat) : (s.setBuffer p k st).lineKeys = s.lineKeys := rfl
@[simp] theorem State.setBuffer_l2 (s : State) (p k st : Nat) : (s.setBuffer p k st).l2 = s.l2 := rfl
@[simp] theorem State.setBuffer_hostMem (s : State) (p k st : Nat) : (s.setBuffer p k st).hostMem = s.hostMem := rfl
@[simp] theorem State.setBuffer_peerMem (s : State) (p k st : Nat) : (s.setBuffer p k st).peerMem = s.peerMem := rfl
@[simp] theorem State.setBuffer_peerSpace (s : State) (p k st : Nat) : (s.setBuffer p k st).peerSpace = s.peerSpace := rfl
@[simp] theorem State.setBuffer_bad (s : State) (p k st : Nat) : (s.setBuffer p k st).bad = s.bad := rfl
@[simp] theorem State.setBuffer_late (s : State) (p k st : Nat) : (s.setBuffer p k st).late = s.late := rfl
@[simp] theorem State.setBuffer_oldEntries (s : State) (p k st : Nat) : (s.setBuffer p k st).oldEntries = s.oldEntries := rfl
@[simp] theorem State.setBuffer_oldCode (s : State) (p k st : Nat) : (s.setBuffer p k st).oldCode = s.oldCode := rfl
@[simp] theorem State.setBuffer_clocks (s : State) (p k st : Nat) : (s.setBuffer p k st).clocks = s.clocks := rfl
@[simp] theorem State.setBuffer_homes (s : State) (p k st : Nat) : (s.setBuffer p k st).homes = s.homes := rfl
@[simp] theorem State.setBuffer_copies (s : State) (p k st : Nat) : (s.setBuffer p k st).copies = s.copies := rfl
@[simp] theorem State.setBuffer_sliceLast (s : State) (p k st : Nat) : (s.setBuffer p k st).sliceLast = s.sliceLast := rfl
@[simp] theorem State.setBuffer_scalarLast (s : State) (p k st : Nat) : (s.setBuffer p k st).scalarLast = s.scalarLast := rfl
@[simp] theorem State.setBuffer_matLast (s : State) (p k st : Nat) : (s.setBuffer p k st).matLast = s.matLast := rfl
@[simp] theorem State.setBuffer_dieLast (s : State) (p k st : Nat) : (s.setBuffer p k st).dieLast = s.dieLast := rfl
@[simp] theorem State.setBuffer_cycle (s : State) (p k st : Nat) : (s.setBuffer p k st).cycle = s.cycle := rfl
@[simp] theorem State.setBuffer_issue (s : State) (p k st : Nat) : (s.setBuffer p k st).issue = s.issue := rfl
@[simp] theorem State.setBuffer_subject (s : State) (p k st : Nat) : (s.setBuffer p k st).subject = s.subject := rfl
@[simp] theorem State.setBuffer_agenda (s : State) (p k st : Nat) : (s.setBuffer p k st).agenda = s.agenda := rfl
@[simp] theorem State.setBuffer_turn (s : State) (p k st : Nat) : (s.setBuffer p k st).turn = s.turn := rfl
@[simp] theorem State.setBuffer_cores (s : State) (p k st : Nat) : (s.setBuffer p k st).cores = s.cores := rfl
@[simp] theorem State.setBuffer_order (s : State) (p k st : Nat) : (s.setBuffer p k st).order = s.order := rfl
@[simp] theorem State.setBuffer_fresh (s : State) (p k st : Nat) : (s.setBuffer p k st).fresh = s.fresh := rfl

/-! ## advanceSeq -/
@[simp] theorem State.advanceSeq_flocks (s : State) (c : Issue) (l n : Nat) : (s.advanceSeq c l n).flocks = (if c.gone.contains l then s else s.modThread c.f c.m c.u l fun t => { t with seq := t.seq + BitVec.ofNat 30 n }).flocks := rfl
@[simp] theorem State.advanceSeq_partitions (s : State) (c : Issue) (l n : Nat) : (s.advanceSeq c l n).partitions = s.partitions := by unfold State.advanceSeq; split <;> rfl
@[simp] theorem State.advanceSeq_device (s : State) (c : Issue) (l n : Nat) : (s.advanceSeq c l n).device = s.device := by unfold State.advanceSeq; split <;> rfl
@[simp] theorem State.advanceSeq_streams (s : State) (c : Issue) (l n : Nat) : (s.advanceSeq c l n).streams = s.streams := by unfold State.advanceSeq; split <;> rfl
@[simp] theorem State.advanceSeq_streamNum (s : State) (c : Issue) (l n : Nat) : (s.advanceSeq c l n).streamNum = s.streamNum := by unfold State.advanceSeq; split <;> rfl
@[simp] theorem State.advanceSeq_landings (s : State) (c : Issue) (l n : Nat) : (s.advanceSeq c l n).landings = s.landings := by unfold State.advanceSeq; split <;> rfl
@[simp] theorem State.advanceSeq_randoms (s : State) (c : Issue) (l n : Nat) : (s.advanceSeq c l n).randoms = s.randoms := by unfold State.advanceSeq; split <;> rfl
@[simp] theorem State.advanceSeq_reclaims (s : State) (c : Issue) (l n : Nat) : (s.advanceSeq c l n).reclaims = s.reclaims := by unfold State.advanceSeq; split <;> rfl
@[simp] theorem State.advanceSeq_swaps (s : State) (c : Issue) (l n : Nat) : (s.advanceSeq c l n).swaps = s.swaps := by unfold State.advanceSeq; split <;> rfl
@[simp] theorem State.advanceSeq_hbm (s : State) (c : Issue) (l n : Nat) : (s.advanceSeq c l n).hbm = s.hbm := by unfold State.advanceSeq; split <;> rfl
@[simp] theorem State.advanceSeq_lineKeys (s : State) (c : Issue) (l n : Nat) : (s.advanceSeq c l n).lineKeys = s.lineKeys := by unfold State.advanceSeq; split <;> rfl
@[simp] theorem State.advanceSeq_l2 (s : State) (c : Issue) (l n : Nat) : (s.advanceSeq c l n).l2 = s.l2 := by unfold State.advanceSeq; split <;> rfl
@[simp] theorem State.advanceSeq_hostMem (s : State) (c : Issue) (l n : Nat) : (s.advanceSeq c l n).hostMem = s.hostMem := by unfold State.advanceSeq; split <;> rfl
@[simp] theorem State.advanceSeq_peerMem (s : State) (c : Issue) (l n : Nat) : (s.advanceSeq c l n).peerMem = s.peerMem := by unfold State.advanceSeq; split <;> rfl
@[simp] theorem State.advanceSeq_peerSpace (s : State) (c : Issue) (l n : Nat) : (s.advanceSeq c l n).peerSpace = s.peerSpace := by unfold State.advanceSeq; split <;> rfl
@[simp] theorem State.advanceSeq_bad (s : State) (c : Issue) (l n : Nat) : (s.advanceSeq c l n).bad = s.bad := by unfold State.advanceSeq; split <;> rfl
@[simp] theorem State.advanceSeq_late (s : State) (c : Issue) (l n : Nat) : (s.advanceSeq c l n).late = s.late := by unfold State.advanceSeq; split <;> rfl
@[simp] theorem State.advanceSeq_oldEntries (s : State) (c : Issue) (l n : Nat) : (s.advanceSeq c l n).oldEntries = s.oldEntries := by unfold State.advanceSeq; split <;> rfl
@[simp] theorem State.advanceSeq_oldCode (s : State) (c : Issue) (l n : Nat) : (s.advanceSeq c l n).oldCode = s.oldCode := by unfold State.advanceSeq; split <;> rfl
@[simp] theorem State.advanceSeq_clocks (s : State) (c : Issue) (l n : Nat) : (s.advanceSeq c l n).clocks = s.clocks := by unfold State.advanceSeq; split <;> rfl
@[simp] theorem State.advanceSeq_homes (s : State) (c : Issue) (l n : Nat) : (s.advanceSeq c l n).homes = s.homes := by unfold State.advanceSeq; split <;> rfl
@[simp] theorem State.advanceSeq_copies (s : State) (c : Issue) (l n : Nat) : (s.advanceSeq c l n).copies = s.copies := by unfold State.advanceSeq; split <;> rfl
@[simp] theorem State.advanceSeq_sliceLast (s : State) (c : Issue) (l n : Nat) : (s.advanceSeq c l n).sliceLast = s.sliceLast := by unfold State.advanceSeq; split <;> rfl
@[simp] theorem State.advanceSeq_scalarLast (s : State) (c : Issue) (l n : Nat) : (s.advanceSeq c l n).scalarLast = s.scalarLast := by unfold State.advanceSeq; split <;> rfl
@[simp] theorem State.advanceSeq_matLast (s : State) (c : Issue) (l n : Nat) : (s.advanceSeq c l n).matLast = s.matLast := by unfold State.advanceSeq; split <;> rfl
@[simp] theorem State.advanceSeq_dieLast (s : State) (c : Issue) (l n : Nat) : (s.advanceSeq c l n).dieLast = s.dieLast := by unfold State.advanceSeq; split <;> rfl
@[simp] theorem State.advanceSeq_cycle (s : State) (c : Issue) (l n : Nat) : (s.advanceSeq c l n).cycle = s.cycle := by unfold State.advanceSeq; split <;> rfl
@[simp] theorem State.advanceSeq_issue (s : State) (c : Issue) (l n : Nat) : (s.advanceSeq c l n).issue = s.issue := by unfold State.advanceSeq; split <;> rfl
@[simp] theorem State.advanceSeq_subject (s : State) (c : Issue) (l n : Nat) : (s.advanceSeq c l n).subject = s.subject := by unfold State.advanceSeq; split <;> rfl
@[simp] theorem State.advanceSeq_agenda (s : State) (c : Issue) (l n : Nat) : (s.advanceSeq c l n).agenda = s.agenda := by unfold State.advanceSeq; split <;> rfl
@[simp] theorem State.advanceSeq_turn (s : State) (c : Issue) (l n : Nat) : (s.advanceSeq c l n).turn = s.turn := by unfold State.advanceSeq; split <;> rfl
@[simp] theorem State.advanceSeq_cores (s : State) (c : Issue) (l n : Nat) : (s.advanceSeq c l n).cores = s.cores := by unfold State.advanceSeq; split <;> rfl
@[simp] theorem State.advanceSeq_order (s : State) (c : Issue) (l n : Nat) : (s.advanceSeq c l n).order = s.order := by unfold State.advanceSeq; split <;> rfl
@[simp] theorem State.advanceSeq_fresh (s : State) (c : Issue) (l n : Nat) : (s.advanceSeq c l n).fresh = s.fresh := by unfold State.advanceSeq; split <;> rfl

/-! ## Late writes that enter the single order: only the late writes and the copies of cores change (R262, R267) -/
theorem State.dropCopies_eq (s : State) (ws : List LateWrite) : s.dropCopies ws = { s with copies := (s.dropCopies ws).copies } := by
  unfold State.dropCopies; split <;> rfl
theorem State.enterThese_eq (s : State) (ws : List LateWrite) :
    s.enterThese ws = { s with late := (s.enterThese ws).late, copies := (s.enterThese ws).copies } := by
  by_cases h : ws.isEmpty = true
  · simp [State.enterThese, h]
  · simp only [State.enterThese, if_neg h]; rw [State.dropCopies_eq]
@[simp] theorem State.enterThese_flocks (s : State) (ws : List LateWrite) : (s.enterThese ws).flocks = s.flocks := by rw [State.enterThese_eq]
@[simp] theorem State.enter_flocks (s : State) (k : Writer → Bool) : (s.enter k).flocks = s.flocks := s.enterThese_flocks _
@[simp] theorem State.enterClasses_flocks (s : State) (m : Nat) : (s.enterClasses m).flocks = s.flocks := s.enter_flocks _
@[simp] theorem State.enterTask_flocks (s : State) (p q : Nat) : (s.enterTask p q).flocks = s.flocks := s.enter_flocks _
@[simp] theorem State.enterOps_flocks (s : State) (p : Nat) (k : WriteOp → Bool) : (s.enterOps p k).flocks = s.flocks := s.enter_flocks _
@[simp] theorem State.enterThese_partitions (s : State) (ws : List LateWrite) : (s.enterThese ws).partitions = s.partitions := by rw [State.enterThese_eq]
@[simp] theorem State.enter_partitions (s : State) (k : Writer → Bool) : (s.enter k).partitions = s.partitions := s.enterThese_partitions _
@[simp] theorem State.enterClasses_partitions (s : State) (m : Nat) : (s.enterClasses m).partitions = s.partitions := s.enter_partitions _
@[simp] theorem State.enterTask_partitions (s : State) (p q : Nat) : (s.enterTask p q).partitions = s.partitions := s.enter_partitions _
@[simp] theorem State.enterOps_partitions (s : State) (p : Nat) (k : WriteOp → Bool) : (s.enterOps p k).partitions = s.partitions := s.enter_partitions _
@[simp] theorem State.enterThese_device (s : State) (ws : List LateWrite) : (s.enterThese ws).device = s.device := by rw [State.enterThese_eq]
@[simp] theorem State.enter_device (s : State) (k : Writer → Bool) : (s.enter k).device = s.device := s.enterThese_device _
@[simp] theorem State.enterClasses_device (s : State) (m : Nat) : (s.enterClasses m).device = s.device := s.enter_device _
@[simp] theorem State.enterTask_device (s : State) (p q : Nat) : (s.enterTask p q).device = s.device := s.enter_device _
@[simp] theorem State.enterOps_device (s : State) (p : Nat) (k : WriteOp → Bool) : (s.enterOps p k).device = s.device := s.enter_device _
@[simp] theorem State.enterThese_streams (s : State) (ws : List LateWrite) : (s.enterThese ws).streams = s.streams := by rw [State.enterThese_eq]
@[simp] theorem State.enter_streams (s : State) (k : Writer → Bool) : (s.enter k).streams = s.streams := s.enterThese_streams _
@[simp] theorem State.enterClasses_streams (s : State) (m : Nat) : (s.enterClasses m).streams = s.streams := s.enter_streams _
@[simp] theorem State.enterTask_streams (s : State) (p q : Nat) : (s.enterTask p q).streams = s.streams := s.enter_streams _
@[simp] theorem State.enterOps_streams (s : State) (p : Nat) (k : WriteOp → Bool) : (s.enterOps p k).streams = s.streams := s.enter_streams _
@[simp] theorem State.enterThese_streamNum (s : State) (ws : List LateWrite) : (s.enterThese ws).streamNum = s.streamNum := by rw [State.enterThese_eq]
@[simp] theorem State.enter_streamNum (s : State) (k : Writer → Bool) : (s.enter k).streamNum = s.streamNum := s.enterThese_streamNum _
@[simp] theorem State.enterClasses_streamNum (s : State) (m : Nat) : (s.enterClasses m).streamNum = s.streamNum := s.enter_streamNum _
@[simp] theorem State.enterTask_streamNum (s : State) (p q : Nat) : (s.enterTask p q).streamNum = s.streamNum := s.enter_streamNum _
@[simp] theorem State.enterOps_streamNum (s : State) (p : Nat) (k : WriteOp → Bool) : (s.enterOps p k).streamNum = s.streamNum := s.enter_streamNum _
@[simp] theorem State.enterThese_landings (s : State) (ws : List LateWrite) : (s.enterThese ws).landings = s.landings := by rw [State.enterThese_eq]
@[simp] theorem State.enter_landings (s : State) (k : Writer → Bool) : (s.enter k).landings = s.landings := s.enterThese_landings _
@[simp] theorem State.enterClasses_landings (s : State) (m : Nat) : (s.enterClasses m).landings = s.landings := s.enter_landings _
@[simp] theorem State.enterTask_landings (s : State) (p q : Nat) : (s.enterTask p q).landings = s.landings := s.enter_landings _
@[simp] theorem State.enterOps_landings (s : State) (p : Nat) (k : WriteOp → Bool) : (s.enterOps p k).landings = s.landings := s.enter_landings _
@[simp] theorem State.enterThese_randoms (s : State) (ws : List LateWrite) : (s.enterThese ws).randoms = s.randoms := by rw [State.enterThese_eq]
@[simp] theorem State.enter_randoms (s : State) (k : Writer → Bool) : (s.enter k).randoms = s.randoms := s.enterThese_randoms _
@[simp] theorem State.enterClasses_randoms (s : State) (m : Nat) : (s.enterClasses m).randoms = s.randoms := s.enter_randoms _
@[simp] theorem State.enterTask_randoms (s : State) (p q : Nat) : (s.enterTask p q).randoms = s.randoms := s.enter_randoms _
@[simp] theorem State.enterOps_randoms (s : State) (p : Nat) (k : WriteOp → Bool) : (s.enterOps p k).randoms = s.randoms := s.enter_randoms _
@[simp] theorem State.enterThese_reclaims (s : State) (ws : List LateWrite) : (s.enterThese ws).reclaims = s.reclaims := by rw [State.enterThese_eq]
@[simp] theorem State.enter_reclaims (s : State) (k : Writer → Bool) : (s.enter k).reclaims = s.reclaims := s.enterThese_reclaims _
@[simp] theorem State.enterClasses_reclaims (s : State) (m : Nat) : (s.enterClasses m).reclaims = s.reclaims := s.enter_reclaims _
@[simp] theorem State.enterTask_reclaims (s : State) (p q : Nat) : (s.enterTask p q).reclaims = s.reclaims := s.enter_reclaims _
@[simp] theorem State.enterOps_reclaims (s : State) (p : Nat) (k : WriteOp → Bool) : (s.enterOps p k).reclaims = s.reclaims := s.enter_reclaims _
@[simp] theorem State.enterThese_swaps (s : State) (ws : List LateWrite) : (s.enterThese ws).swaps = s.swaps := by rw [State.enterThese_eq]
@[simp] theorem State.enter_swaps (s : State) (k : Writer → Bool) : (s.enter k).swaps = s.swaps := s.enterThese_swaps _
@[simp] theorem State.enterClasses_swaps (s : State) (m : Nat) : (s.enterClasses m).swaps = s.swaps := s.enter_swaps _
@[simp] theorem State.enterTask_swaps (s : State) (p q : Nat) : (s.enterTask p q).swaps = s.swaps := s.enter_swaps _
@[simp] theorem State.enterOps_swaps (s : State) (p : Nat) (k : WriteOp → Bool) : (s.enterOps p k).swaps = s.swaps := s.enter_swaps _
@[simp] theorem State.enterThese_hbm (s : State) (ws : List LateWrite) : (s.enterThese ws).hbm = s.hbm := by rw [State.enterThese_eq]
@[simp] theorem State.enter_hbm (s : State) (k : Writer → Bool) : (s.enter k).hbm = s.hbm := s.enterThese_hbm _
@[simp] theorem State.enterClasses_hbm (s : State) (m : Nat) : (s.enterClasses m).hbm = s.hbm := s.enter_hbm _
@[simp] theorem State.enterTask_hbm (s : State) (p q : Nat) : (s.enterTask p q).hbm = s.hbm := s.enter_hbm _
@[simp] theorem State.enterOps_hbm (s : State) (p : Nat) (k : WriteOp → Bool) : (s.enterOps p k).hbm = s.hbm := s.enter_hbm _
@[simp] theorem State.enterThese_lineKeys (s : State) (ws : List LateWrite) : (s.enterThese ws).lineKeys = s.lineKeys := by rw [State.enterThese_eq]
@[simp] theorem State.enter_lineKeys (s : State) (k : Writer → Bool) : (s.enter k).lineKeys = s.lineKeys := s.enterThese_lineKeys _
@[simp] theorem State.enterClasses_lineKeys (s : State) (m : Nat) : (s.enterClasses m).lineKeys = s.lineKeys := s.enter_lineKeys _
@[simp] theorem State.enterTask_lineKeys (s : State) (p q : Nat) : (s.enterTask p q).lineKeys = s.lineKeys := s.enter_lineKeys _
@[simp] theorem State.enterOps_lineKeys (s : State) (p : Nat) (k : WriteOp → Bool) : (s.enterOps p k).lineKeys = s.lineKeys := s.enter_lineKeys _
@[simp] theorem State.enterThese_l2 (s : State) (ws : List LateWrite) : (s.enterThese ws).l2 = s.l2 := by rw [State.enterThese_eq]
@[simp] theorem State.enter_l2 (s : State) (k : Writer → Bool) : (s.enter k).l2 = s.l2 := s.enterThese_l2 _
@[simp] theorem State.enterClasses_l2 (s : State) (m : Nat) : (s.enterClasses m).l2 = s.l2 := s.enter_l2 _
@[simp] theorem State.enterTask_l2 (s : State) (p q : Nat) : (s.enterTask p q).l2 = s.l2 := s.enter_l2 _
@[simp] theorem State.enterOps_l2 (s : State) (p : Nat) (k : WriteOp → Bool) : (s.enterOps p k).l2 = s.l2 := s.enter_l2 _
@[simp] theorem State.enterThese_hostMem (s : State) (ws : List LateWrite) : (s.enterThese ws).hostMem = s.hostMem := by rw [State.enterThese_eq]
@[simp] theorem State.enter_hostMem (s : State) (k : Writer → Bool) : (s.enter k).hostMem = s.hostMem := s.enterThese_hostMem _
@[simp] theorem State.enterClasses_hostMem (s : State) (m : Nat) : (s.enterClasses m).hostMem = s.hostMem := s.enter_hostMem _
@[simp] theorem State.enterTask_hostMem (s : State) (p q : Nat) : (s.enterTask p q).hostMem = s.hostMem := s.enter_hostMem _
@[simp] theorem State.enterOps_hostMem (s : State) (p : Nat) (k : WriteOp → Bool) : (s.enterOps p k).hostMem = s.hostMem := s.enter_hostMem _
@[simp] theorem State.enterThese_peerMem (s : State) (ws : List LateWrite) : (s.enterThese ws).peerMem = s.peerMem := by rw [State.enterThese_eq]
@[simp] theorem State.enter_peerMem (s : State) (k : Writer → Bool) : (s.enter k).peerMem = s.peerMem := s.enterThese_peerMem _
@[simp] theorem State.enterClasses_peerMem (s : State) (m : Nat) : (s.enterClasses m).peerMem = s.peerMem := s.enter_peerMem _
@[simp] theorem State.enterTask_peerMem (s : State) (p q : Nat) : (s.enterTask p q).peerMem = s.peerMem := s.enter_peerMem _
@[simp] theorem State.enterOps_peerMem (s : State) (p : Nat) (k : WriteOp → Bool) : (s.enterOps p k).peerMem = s.peerMem := s.enter_peerMem _
@[simp] theorem State.enterThese_peerSpace (s : State) (ws : List LateWrite) : (s.enterThese ws).peerSpace = s.peerSpace := by rw [State.enterThese_eq]
@[simp] theorem State.enter_peerSpace (s : State) (k : Writer → Bool) : (s.enter k).peerSpace = s.peerSpace := s.enterThese_peerSpace _
@[simp] theorem State.enterClasses_peerSpace (s : State) (m : Nat) : (s.enterClasses m).peerSpace = s.peerSpace := s.enter_peerSpace _
@[simp] theorem State.enterTask_peerSpace (s : State) (p q : Nat) : (s.enterTask p q).peerSpace = s.peerSpace := s.enter_peerSpace _
@[simp] theorem State.enterOps_peerSpace (s : State) (p : Nat) (k : WriteOp → Bool) : (s.enterOps p k).peerSpace = s.peerSpace := s.enter_peerSpace _
@[simp] theorem State.enterThese_bad (s : State) (ws : List LateWrite) : (s.enterThese ws).bad = s.bad := by rw [State.enterThese_eq]
@[simp] theorem State.enter_bad (s : State) (k : Writer → Bool) : (s.enter k).bad = s.bad := s.enterThese_bad _
@[simp] theorem State.enterClasses_bad (s : State) (m : Nat) : (s.enterClasses m).bad = s.bad := s.enter_bad _
@[simp] theorem State.enterTask_bad (s : State) (p q : Nat) : (s.enterTask p q).bad = s.bad := s.enter_bad _
@[simp] theorem State.enterOps_bad (s : State) (p : Nat) (k : WriteOp → Bool) : (s.enterOps p k).bad = s.bad := s.enter_bad _
@[simp] theorem State.enterThese_oldEntries (s : State) (ws : List LateWrite) : (s.enterThese ws).oldEntries = s.oldEntries := by rw [State.enterThese_eq]
@[simp] theorem State.enter_oldEntries (s : State) (k : Writer → Bool) : (s.enter k).oldEntries = s.oldEntries := s.enterThese_oldEntries _
@[simp] theorem State.enterClasses_oldEntries (s : State) (m : Nat) : (s.enterClasses m).oldEntries = s.oldEntries := s.enter_oldEntries _
@[simp] theorem State.enterTask_oldEntries (s : State) (p q : Nat) : (s.enterTask p q).oldEntries = s.oldEntries := s.enter_oldEntries _
@[simp] theorem State.enterOps_oldEntries (s : State) (p : Nat) (k : WriteOp → Bool) : (s.enterOps p k).oldEntries = s.oldEntries := s.enter_oldEntries _
@[simp] theorem State.enterThese_oldCode (s : State) (ws : List LateWrite) : (s.enterThese ws).oldCode = s.oldCode := by rw [State.enterThese_eq]
@[simp] theorem State.enter_oldCode (s : State) (k : Writer → Bool) : (s.enter k).oldCode = s.oldCode := s.enterThese_oldCode _
@[simp] theorem State.enterClasses_oldCode (s : State) (m : Nat) : (s.enterClasses m).oldCode = s.oldCode := s.enter_oldCode _
@[simp] theorem State.enterTask_oldCode (s : State) (p q : Nat) : (s.enterTask p q).oldCode = s.oldCode := s.enter_oldCode _
@[simp] theorem State.enterOps_oldCode (s : State) (p : Nat) (k : WriteOp → Bool) : (s.enterOps p k).oldCode = s.oldCode := s.enter_oldCode _
@[simp] theorem State.enterThese_clocks (s : State) (ws : List LateWrite) : (s.enterThese ws).clocks = s.clocks := by rw [State.enterThese_eq]
@[simp] theorem State.enter_clocks (s : State) (k : Writer → Bool) : (s.enter k).clocks = s.clocks := s.enterThese_clocks _
@[simp] theorem State.enterClasses_clocks (s : State) (m : Nat) : (s.enterClasses m).clocks = s.clocks := s.enter_clocks _
@[simp] theorem State.enterTask_clocks (s : State) (p q : Nat) : (s.enterTask p q).clocks = s.clocks := s.enter_clocks _
@[simp] theorem State.enterOps_clocks (s : State) (p : Nat) (k : WriteOp → Bool) : (s.enterOps p k).clocks = s.clocks := s.enter_clocks _
@[simp] theorem State.enterThese_homes (s : State) (ws : List LateWrite) : (s.enterThese ws).homes = s.homes := by rw [State.enterThese_eq]
@[simp] theorem State.enter_homes (s : State) (k : Writer → Bool) : (s.enter k).homes = s.homes := s.enterThese_homes _
@[simp] theorem State.enterClasses_homes (s : State) (m : Nat) : (s.enterClasses m).homes = s.homes := s.enter_homes _
@[simp] theorem State.enterTask_homes (s : State) (p q : Nat) : (s.enterTask p q).homes = s.homes := s.enter_homes _
@[simp] theorem State.enterOps_homes (s : State) (p : Nat) (k : WriteOp → Bool) : (s.enterOps p k).homes = s.homes := s.enter_homes _
@[simp] theorem State.enterThese_sliceLast (s : State) (ws : List LateWrite) : (s.enterThese ws).sliceLast = s.sliceLast := by rw [State.enterThese_eq]
@[simp] theorem State.enter_sliceLast (s : State) (k : Writer → Bool) : (s.enter k).sliceLast = s.sliceLast := s.enterThese_sliceLast _
@[simp] theorem State.enterClasses_sliceLast (s : State) (m : Nat) : (s.enterClasses m).sliceLast = s.sliceLast := s.enter_sliceLast _
@[simp] theorem State.enterTask_sliceLast (s : State) (p q : Nat) : (s.enterTask p q).sliceLast = s.sliceLast := s.enter_sliceLast _
@[simp] theorem State.enterOps_sliceLast (s : State) (p : Nat) (k : WriteOp → Bool) : (s.enterOps p k).sliceLast = s.sliceLast := s.enter_sliceLast _
@[simp] theorem State.enterThese_scalarLast (s : State) (ws : List LateWrite) : (s.enterThese ws).scalarLast = s.scalarLast := by rw [State.enterThese_eq]
@[simp] theorem State.enter_scalarLast (s : State) (k : Writer → Bool) : (s.enter k).scalarLast = s.scalarLast := s.enterThese_scalarLast _
@[simp] theorem State.enterClasses_scalarLast (s : State) (m : Nat) : (s.enterClasses m).scalarLast = s.scalarLast := s.enter_scalarLast _
@[simp] theorem State.enterTask_scalarLast (s : State) (p q : Nat) : (s.enterTask p q).scalarLast = s.scalarLast := s.enter_scalarLast _
@[simp] theorem State.enterOps_scalarLast (s : State) (p : Nat) (k : WriteOp → Bool) : (s.enterOps p k).scalarLast = s.scalarLast := s.enter_scalarLast _
@[simp] theorem State.enterThese_matLast (s : State) (ws : List LateWrite) : (s.enterThese ws).matLast = s.matLast := by rw [State.enterThese_eq]
@[simp] theorem State.enter_matLast (s : State) (k : Writer → Bool) : (s.enter k).matLast = s.matLast := s.enterThese_matLast _
@[simp] theorem State.enterClasses_matLast (s : State) (m : Nat) : (s.enterClasses m).matLast = s.matLast := s.enter_matLast _
@[simp] theorem State.enterTask_matLast (s : State) (p q : Nat) : (s.enterTask p q).matLast = s.matLast := s.enter_matLast _
@[simp] theorem State.enterOps_matLast (s : State) (p : Nat) (k : WriteOp → Bool) : (s.enterOps p k).matLast = s.matLast := s.enter_matLast _
@[simp] theorem State.enterThese_dieLast (s : State) (ws : List LateWrite) : (s.enterThese ws).dieLast = s.dieLast := by rw [State.enterThese_eq]
@[simp] theorem State.enter_dieLast (s : State) (k : Writer → Bool) : (s.enter k).dieLast = s.dieLast := s.enterThese_dieLast _
@[simp] theorem State.enterClasses_dieLast (s : State) (m : Nat) : (s.enterClasses m).dieLast = s.dieLast := s.enter_dieLast _
@[simp] theorem State.enterTask_dieLast (s : State) (p q : Nat) : (s.enterTask p q).dieLast = s.dieLast := s.enter_dieLast _
@[simp] theorem State.enterOps_dieLast (s : State) (p : Nat) (k : WriteOp → Bool) : (s.enterOps p k).dieLast = s.dieLast := s.enter_dieLast _
@[simp] theorem State.enterThese_cycle (s : State) (ws : List LateWrite) : (s.enterThese ws).cycle = s.cycle := by rw [State.enterThese_eq]
@[simp] theorem State.enter_cycle (s : State) (k : Writer → Bool) : (s.enter k).cycle = s.cycle := s.enterThese_cycle _
@[simp] theorem State.enterClasses_cycle (s : State) (m : Nat) : (s.enterClasses m).cycle = s.cycle := s.enter_cycle _
@[simp] theorem State.enterTask_cycle (s : State) (p q : Nat) : (s.enterTask p q).cycle = s.cycle := s.enter_cycle _
@[simp] theorem State.enterOps_cycle (s : State) (p : Nat) (k : WriteOp → Bool) : (s.enterOps p k).cycle = s.cycle := s.enter_cycle _
@[simp] theorem State.enterThese_issue (s : State) (ws : List LateWrite) : (s.enterThese ws).issue = s.issue := by rw [State.enterThese_eq]
@[simp] theorem State.enter_issue (s : State) (k : Writer → Bool) : (s.enter k).issue = s.issue := s.enterThese_issue _
@[simp] theorem State.enterClasses_issue (s : State) (m : Nat) : (s.enterClasses m).issue = s.issue := s.enter_issue _
@[simp] theorem State.enterTask_issue (s : State) (p q : Nat) : (s.enterTask p q).issue = s.issue := s.enter_issue _
@[simp] theorem State.enterOps_issue (s : State) (p : Nat) (k : WriteOp → Bool) : (s.enterOps p k).issue = s.issue := s.enter_issue _
@[simp] theorem State.enterThese_subject (s : State) (ws : List LateWrite) : (s.enterThese ws).subject = s.subject := by rw [State.enterThese_eq]
@[simp] theorem State.enter_subject (s : State) (k : Writer → Bool) : (s.enter k).subject = s.subject := s.enterThese_subject _
@[simp] theorem State.enterClasses_subject (s : State) (m : Nat) : (s.enterClasses m).subject = s.subject := s.enter_subject _
@[simp] theorem State.enterTask_subject (s : State) (p q : Nat) : (s.enterTask p q).subject = s.subject := s.enter_subject _
@[simp] theorem State.enterOps_subject (s : State) (p : Nat) (k : WriteOp → Bool) : (s.enterOps p k).subject = s.subject := s.enter_subject _
@[simp] theorem State.enterThese_agenda (s : State) (ws : List LateWrite) : (s.enterThese ws).agenda = s.agenda := by rw [State.enterThese_eq]
@[simp] theorem State.enter_agenda (s : State) (k : Writer → Bool) : (s.enter k).agenda = s.agenda := s.enterThese_agenda _
@[simp] theorem State.enterClasses_agenda (s : State) (m : Nat) : (s.enterClasses m).agenda = s.agenda := s.enter_agenda _
@[simp] theorem State.enterTask_agenda (s : State) (p q : Nat) : (s.enterTask p q).agenda = s.agenda := s.enter_agenda _
@[simp] theorem State.enterOps_agenda (s : State) (p : Nat) (k : WriteOp → Bool) : (s.enterOps p k).agenda = s.agenda := s.enter_agenda _
@[simp] theorem State.enterThese_turn (s : State) (ws : List LateWrite) : (s.enterThese ws).turn = s.turn := by rw [State.enterThese_eq]
@[simp] theorem State.enter_turn (s : State) (k : Writer → Bool) : (s.enter k).turn = s.turn := s.enterThese_turn _
@[simp] theorem State.enterClasses_turn (s : State) (m : Nat) : (s.enterClasses m).turn = s.turn := s.enter_turn _
@[simp] theorem State.enterTask_turn (s : State) (p q : Nat) : (s.enterTask p q).turn = s.turn := s.enter_turn _
@[simp] theorem State.enterOps_turn (s : State) (p : Nat) (k : WriteOp → Bool) : (s.enterOps p k).turn = s.turn := s.enter_turn _
@[simp] theorem State.enterThese_cores (s : State) (ws : List LateWrite) : (s.enterThese ws).cores = s.cores := by rw [State.enterThese_eq]
@[simp] theorem State.enter_cores (s : State) (k : Writer → Bool) : (s.enter k).cores = s.cores := s.enterThese_cores _
@[simp] theorem State.enterClasses_cores (s : State) (m : Nat) : (s.enterClasses m).cores = s.cores := s.enter_cores _
@[simp] theorem State.enterTask_cores (s : State) (p q : Nat) : (s.enterTask p q).cores = s.cores := s.enter_cores _
@[simp] theorem State.enterOps_cores (s : State) (p : Nat) (k : WriteOp → Bool) : (s.enterOps p k).cores = s.cores := s.enter_cores _
@[simp] theorem State.enterThese_order (s : State) (ws : List LateWrite) : (s.enterThese ws).order = s.order := by rw [State.enterThese_eq]
@[simp] theorem State.enter_order (s : State) (k : Writer → Bool) : (s.enter k).order = s.order := s.enterThese_order _
@[simp] theorem State.enterClasses_order (s : State) (m : Nat) : (s.enterClasses m).order = s.order := s.enter_order _
@[simp] theorem State.enterTask_order (s : State) (p q : Nat) : (s.enterTask p q).order = s.order := s.enter_order _
@[simp] theorem State.enterOps_order (s : State) (p : Nat) (k : WriteOp → Bool) : (s.enterOps p k).order = s.order := s.enter_order _
@[simp] theorem State.enterThese_fresh (s : State) (ws : List LateWrite) : (s.enterThese ws).fresh = s.fresh := by rw [State.enterThese_eq]
@[simp] theorem State.enter_fresh (s : State) (k : Writer → Bool) : (s.enter k).fresh = s.fresh := s.enterThese_fresh _
@[simp] theorem State.enterClasses_fresh (s : State) (m : Nat) : (s.enterClasses m).fresh = s.fresh := s.enter_fresh _
@[simp] theorem State.enterTask_fresh (s : State) (p q : Nat) : (s.enterTask p q).fresh = s.fresh := s.enter_fresh _
@[simp] theorem State.enterOps_fresh (s : State) (p : Nat) (k : WriteOp → Bool) : (s.enterOps p k).fresh = s.fresh := s.enter_fresh _

end Sys2Proof.Machine
end

