-- ==== Sys2Proof/Laws/Words.lean ====
section
/-! SUPPORT. How a word meets its threads: what the shared operations begin, give and launchResult do when a word is ready. -/
namespace Sys2Proof.Machine
open Sys2Proof

@[simp] theorem Reg.at_zero (r : Reg) : r.at 0 = r := by
  cases r <;> (rename_i n; simp only [Reg.at, Nat.add_zero, Nat.mod_eq_of_lt n.isLt])
@[simp] theorem regSpan_one (r : Reg) : regSpan r 1 = [r] := by simp [regSpan]

theorem lowest_mem {l : List Nat} (h : l ≠ []) : lowest l ∈ l := by
  cases l with
  | nil => exact absurd rfl h
  | cons a rest => exact List.mem_cons_self

/-- Of a chain that takes effect in its whole group, the threads that a word reads are those in which it takes effect. -/
theorem mem_addLane {k l : Nat} {ls : List Nat} (h : l ∈ ls) : l ∈ addLane k ls := by
  induction ls with
  | nil => simp at h
  | cons x xs ih =>
    have g : l = x ∨ l ∈ addLane k xs := (List.mem_cons.1 h).imp id ih
    unfold addLane
    split
    · exact List.mem_cons_of_mem _ h
    · split
      · exact h
      · exact List.mem_cons.2 g
/-- Every thread in which the chain takes effect is of its group, and every one that executes a word is read. -/
theorem Issue.mem_group {c : Issue} {l : Nat} (h : l ∈ c.lanes) : l ∈ c.group := by
  unfold Issue.group
  generalize c.lanes = ls at h
  induction c.gone generalizing ls with
  | nil => exact h
  | cons k ks ih => exact ih _ (mem_addLane h)
theorem Issue.exec_subset_readers (c : Issue) (h : Head) : c.exec h ⊆ c.readers h := fun l hl => by
  simp only [Issue.exec, Issue.readers, List.mem_filter] at hl ⊢
  exact ⟨Issue.mem_group hl.1, hl.2⟩
/-- With no thread gone, the threads that a word reads are those that execute it. -/
theorem Issue.readers_whole {c : Issue} (h : Head) (e : c.gone = []) : c.readers h = c.exec h := by simp [Issue.readers, Issue.exec, Issue.group, e]

/-- What a ready word does is what its continuation does for the threads that it reads and those in which it takes effect. -/
theorem beginAll_ready {s : State} {c : Issue} {h : Head} {uses : List Use} {dests : List Reg} (k : List Nat → List Nat → State → State)
    (r : Ready s c h uses dests) : beginAll s c h uses dests k = k (c.readers h) (c.exec h) s := by
  have hne : (c.exec h).isEmpty = false := by simpa using r.executes
  have hblock : ((c.readers h).any fun l => (uses.any fun u => !u.trap && c.emptyUse l u) || (dests.any fun r => !c.snap.isFull l r)) = false := by
    simp only [List.any_eq_false, Bool.or_eq_true, not_or]
    intro l hl
    constructor
    · simp only [List.any_eq_true, not_exists, not_and, Bool.and_eq_true]
      intro u hu; simp [r.sources l hl u hu]
    · simp only [List.any_eq_true, not_exists, not_and]
      intro d hd; simp [r.room l hl d hd]
  have hbad : ((c.readers h).filter fun l => uses.any fun u => u.trap && c.emptyUse l u) = [] := by
    simp only [List.filter_eq_nil_iff, List.any_eq_true, not_exists, not_and, Bool.and_eq_true]
    intro l hl u hu; simp [r.sources l hl u hu]
  have hlost : ((c.readers h).filter fun l => s.badReg c l uses) = [] := by
    simp only [List.filter_eq_nil_iff]
    intro l hl; simp [r.sound l hl]
  have hgood (l : List Nat) : l.filter (fun _ => true) = l := by simp
  simp only [beginAll, hne, hblock, hbad]
  simp [State.trapLanes, hlost, hgood, r.executes]
/-- The same for a word that reads each thread's sources for that thread alone. -/
theorem begin_ready {s : State} {c : Issue} {h : Head} {uses : List Use} {dests : List Reg} (k : List Nat → State → State)
    (r : Ready s c h uses dests) : begin s c h uses dests k = k (c.exec h) s := beginAll_ready _ r

/-- As begin_ready, for a word that reads one thread's sources. -/
theorem beginAt_ready {s : State} {c : Issue} {h : Head} {uses : List Use} {reader : List Nat → Nat} {dests : List Reg}
    (k : List Nat → State → State) (r : ReadyAt s c h uses reader dests) : beginAt s c h uses reader dests k = k (c.exec h) s := by
  have hne : (c.exec h).isEmpty = false := by simpa using r.executes
  have h1 : (uses.any fun u => !u.trap && c.emptyUse (reader (c.readers h)) u) = false := by
    simp only [List.any_eq_false, Bool.and_eq_true, not_and]
    intro u hu; simp [r.sources u hu]
  have h2 : ((c.readers h).any fun l => dests.any fun d => !c.snap.isFull l d) = false := by
    simp only [List.any_eq_false, List.any_eq_true, not_exists, not_and]
    intro l hl d hd; simp [r.room l hl d hd]
  have h3 : (uses.any fun u => u.trap && c.emptyUse (reader (c.readers h)) u) = false := by
    simp only [List.any_eq_false, Bool.and_eq_true, not_and]
    intro u hu; simp [r.sources u hu]
  simp [beginAt, hne, h1, h2, h3, r.sound]

/-- Updates of one unit, one after another. -/
theorem State.modUnit_modUnit (s : State) (f m u : Nat) (g g' : Warp → Warp) :
    (s.modUnit f m u g).modUnit f m u g' = s.modUnit f m u fun w => g' (g w) := by
  simp only [State.modUnit, State.modWg, State.modFlock, modifyNth_comp]
  congr 1; apply modifyNth_congr; intro fl _
  simp only [Flock.mk.injEq, true_and, and_true]
  apply modifyNth_congr; intro wg _
  simp only [Workgroup.modUnit]
  split <;> simp [modifyNth_comp, Function.comp_def]

theorem State.modUnit_id (s : State) (f m u : Nat) : (s.modUnit f m u fun w => w) = s := by
  have h : ∀ wg : Workgroup, wg.modUnit u (fun w => w) = wg := by
    intro wg; simp only [Workgroup.modUnit]; split <;> simp [modifyNth_id]
  simp [State.modUnit, State.modWg, State.modFlock, h, modifyNth_id]

/-- The unit that modUnit leaves. -/
theorem State.unit?_modUnit_same (s : State) (f m u : Nat) (g : Warp → Warp) :
    (s.modUnit f m u g).unit? f m u = (s.unit? f m u).map g := by
  simp only [State.unit?, State.wg?, State.flock?, State.modUnit, State.modWg, State.modFlock, modifyNth_same]
  cases s.flocks[f]? with
  | none => rfl
  | some fl =>
    simp only [Option.map_some, Option.bind_some, modifyNth_same]
    cases fl.wgs[m]? with
    | none => rfl
    | some wg =>
      simp only [Option.map_some, Option.bind_some, Workgroup.unit?, Workgroup.modUnit]
      split <;> simp [modifyNth_same]

theorem setBit_getLsbD {k : Nat} (x : BitVec k) (n i : Nat) (hi : i < k) (b : Bool) :
    (setBit x n b).getLsbD i = if i = n then b else x.getLsbD i := by
  simp only [setBit]
  have hp : ∀ i, i < k → (BitVec.ofNat k (2 ^ n)).getLsbD i = decide (i = n) := by
    intro i hi
    simp only [BitVec.getLsbD_ofNat, hi, decide_true, Bool.true_and, Nat.testBit_two_pow]
    by_cases h : n = i
    · simp [h]
    · have h' : i ≠ n := fun e => h e.symm
      simp [h, h']
  have hq := hp i hi
  cases b with
  | true => simp only [if_true, BitVec.getLsbD_or, hq]; by_cases h : i = n <;> simp [h]
  | false =>
    simp only [Bool.false_eq_true, if_false, BitVec.getLsbD_and, BitVec.getLsbD_not, hq, hi, decide_true, Bool.true_and]
    by_cases h : i = n <;> simp [h]

/-- A register that was full is full after any register is written. -/
theorem Warp.isFull_put (w : Warp) (l k : Nat) (r d : Reg) (x : Word) (h : w.isFull l r = true) : (w.put k d x).isFull l r = true := by
  cases d with
  | w n =>
    cases r with
    | w i => simp only [Warp.put, Warp.isFull] at h ⊢; rw [setBit_getLsbD _ _ _ i.isLt]; split <;> simp_all
    | v i => exact h
  | v n =>
    cases r with
    | w i => exact h
    | v i =>
      simp only [Warp.put, Warp.isFull, Warp.thread, Warp.modThread, List.getD_eq_getElem?_getD, modifyNth_getElem?] at h ⊢
      split
      · rename_i hk; subst hk
        cases hl : w.threads[l]? with
        | none => simp [hl] at h ⊢; exact h
        | some t => simp only [hl, Option.map_some, Option.getD_some] at h ⊢; rw [setBit_getLsbD _ _ _ i.isLt]; split <;> simp_all
      · exact h

/-- Check bits that are good again, one change after another, and beside a change of a unit. -/
theorem State.mend_all (s : State) : (s.mend fun _ => true) = s :=
  congrArg (fun b => { s with bad := b }) (List.filter_eq_self.mpr fun _ _ => rfl)
theorem State.mend_mend (s : State) (j k : BadWord → Bool) : (s.mend j).mend k = s.mend fun b => j b && k b := by
  simp only [State.mend, List.filter_filter, Bool.and_comm]
theorem State.mend_modUnit (s : State) (f m u : Nat) (g : Warp → Warp) (k : BadWord → Bool) :
    (s.mend k).modUnit f m u g = (s.modUnit f m u g).mend k := rfl

/-- A write to a full register overrides nothing in flight. -/
theorem State.putReg_full {s : State} {f m u l : Nat} {r : Reg} (x : Word) (h : ∀ w, s.unit? f m u = some w → w.isFull l r = true) :
    s.putReg f m u l r x = (s.modUnit f m u fun w => w.put l r x).mend (BadWord.outside f m u l [(r, x)]) := by
  simp only [State.putReg]
  cases hu : s.unit? f m u with
  | none => simp
  | some w => simp [h w hu]

/-- Writes to full registers, one after another, are one update of the unit. -/
theorem State.putRegs_full {f m u l : Nat} (rs : List Reg) (xs : List Word) : ∀ s : State,
    (∀ w, s.unit? f m u = some w → ∀ r ∈ rs, w.isFull l r = true) →
    s.putRegs f m u l rs xs = (s.modUnit f m u fun w => (rs.zip xs).foldl (fun (w : Warp) q => w.put l q.1 q.2) w).mend
      (BadWord.outside f m u l (rs.zip xs)) := by
  have nothing (s : State) : s = (s.modUnit f m u fun w => w).mend (BadWord.outside f m u l []) := by
    rw [State.modUnit_id]; exact s.mend_all.symm
  induction rs generalizing xs with
  | nil => exact fun s _ => nothing s
  | cons r rs ih =>
    intro s h
    cases xs with
    | nil => exact nothing s
    | cons x xs =>
      simp only [State.putRegs, List.zip_cons_cons, List.foldl_cons]
      rw [State.putReg_full x fun w hw => h w hw r (by simp), ih, State.mend_modUnit, State.modUnit_modUnit, State.mend_mend]
      · congr 1; funext b; simp [BadWord.outside]
      intro w hw r' hr'
      change (s.modUnit f m u fun w => w.put l r x).unit? f m u = some w at hw
      rw [State.unit?_modUnit_same] at hw
      cases hu : s.unit? f m u with
      | none => simp [hu] at hw
      | some w0 =>
        simp only [hu, Option.map_some, Option.some.injEq] at hw
        subst hw
        exact Warp.isFull_put _ _ _ _ _ _ (h w0 hu r' (by simp [hr']))

theorem Warp.isFull_puts (w : Warp) (l k : Nat) (r : Reg) (qs : List (Reg × Word)) (h : w.isFull l r = true) :
    (qs.foldl (fun (w : Warp) q => w.put k q.1 q.2) w).isFull l r = true := by
  induction qs generalizing w with
  | nil => exact h
  | cons q qs ih => exact ih _ (Warp.isFull_put w l k r q.1 q.2 h)

/-- give in each of some lanes is one update of the unit. -/
theorem State.foldl_give {c : Issue} {d : Reg} {n : Nat} (x : Nat → List Word) (lanes : List Nat) : ∀ s : State,
    (∀ w, s.unit? c.f c.m c.u = some w → ∀ l ∈ lanes, ∀ r ∈ regSpan d n, w.isFull l r = true) →
    lanes.foldl (fun s l => s.give c l d n (x l)) s = s.writes c lanes d n x := by
  induction lanes with
  | nil => intro s _; simp [State.writes, Warp.writes, State.modUnit_id, State.mend_all]
  | cons l lanes ih =>
    intro s h
    have h0 : s.give c l d n (x l) = (s.modUnit c.f c.m c.u fun w => ((regSpan d n).zip (x l)).foldl (fun (w : Warp) q => w.put l q.1 q.2) w).mend
        (BadWord.outside c.f c.m c.u l ((regSpan d n).zip (x l))) :=
      State.putRegs_full _ _ s fun w hw r hr => h w hw l (by simp) r hr
    simp only [List.foldl_cons, h0]
    rw [ih]
    · simp only [State.writes, Warp.writes, State.mend_modUnit, State.modUnit_modUnit, State.mend_mend, List.foldl_cons, List.all_cons]
    · intro w hw k hk r hr
      change (s.modUnit c.f c.m c.u _).unit? c.f c.m c.u = some w at hw
      rw [State.unit?_modUnit_same] at hw
      cases hu : s.unit? c.f c.m c.u with
      | none => simp [hu] at hw
      | some w0 =>
        simp only [hu, Option.map_some, Option.some.injEq] at hw
        subst hw
        exact Warp.isFull_puts _ _ _ _ _ (h w0 hu k (by simp [hk]) r hr)

theorem State.give_ready {s : State} {c : Issue} {l : Nat} {d : Reg} {n : Nat} {x : List Word}
    (h : ∀ w, s.unit? c.f c.m c.u = some w → ∀ r ∈ regSpan d n, w.isFull l r = true) :
    s.give c l d n x = s.writes c [l] d n fun _ => x := by
  have := State.foldl_give (c := c) (d := d) (n := n) (fun _ => x) [l] s fun w hw k hk r hr => by
    simp only [List.mem_singleton] at hk; subst hk; exact h w hw r hr
  simpa using this

@[simp] theorem State.stick_none (s : State) (c : Issue) (lanes : List Nat) : s.stick c lanes false false false = s := rfl

/-- A pipe-A word that raises nothing writes its result in each target, and changes nothing else. -/
theorem compute_plain {s : State} {c : Issue} {h : Head} {uses : List Use} {d : Reg} {n : Nat} (f : List Word → List Word)
    (r : Ready s c h uses (regSpan d n)) :
    compute s h uses d n .a (fun _ xs => ⟨f xs, false, false, false⟩) =
      .next (s.writes c (c.targets h d) d n fun l => f (c.values l uses)) := by
  have hd : ∀ (s : State) (ls : List Nat) (v : List Word), s.deliver c ls d n .a ⟨v, false, false, false⟩ = s.give c (lowest ls) d n v := by
    intro s ls v; simp [State.deliver, floatCause, Route.runsOn]
  simp only [compute, onIssue, r.issue]
  rw [begin_ready _ r]
  simp only [hd]
  congr 1
  by_cases hw : d.isW = true
  · simp only [hw, if_true, Issue.targets]
    rw [State.give_ready]
    · rfl
    · intro w hw' q hq; exact r.now w hw' _ (lowest_mem r.executes) q hq
  · simp only [Issue.targets]
    rw [if_neg hw, if_neg hw]
    exact State.foldl_give _ _ s r.now

/-- A word that computes delivers its results by the rule of R34 and R102. -/
theorem compute_ready {s : State} {c : Issue} {h : Head} {uses : List Use} {d : Reg} {n : Nat} {q : Route} (f : Nat → List Word → Out)
    (r : Ready s c h uses (regSpan d n)) :
    compute s h uses d n q f = .next (s.delivers c (c.groups h d) d n q fun l => f (s.contractNo c.f) (c.values l uses)) := by
  simp only [compute, onIssue, r.issue]
  rw [begin_ready _ r]
  simp only [State.delivers, Issue.groups]
  congr 1
  split <;> simp [List.foldl_map, lowest]

/-! ## Every case of the shared operations -/

/-- What begin can do: nothing, block the chain, raise traps, or go on with threads in which the word takes effect, after traps of the others. -/
theorem begin_cases (s : State) (c : Issue) (h : Head) (uses : List Use) (dests : List Reg) (k : List Nat → State → State) :
    begin s c h uses dests k = s ∨ begin s c h uses dests k = s.block ∨
    ∃ bad lost : List Nat, (∀ l ∈ bad, l ∈ c.readers h) ∧ (∀ l ∈ lost, l ∈ c.readers h) ∧
      (begin s c h uses dests k = (s.trapLanes bad causeEmptyread 0).trapLanes lost causeUncorr 0 ∨
       ∃ good : List Nat, good ≠ [] ∧ (∀ l ∈ good, l ∈ c.exec h) ∧
        begin s c h uses dests k = k good ((s.trapLanes bad causeEmptyread 0).trapLanes lost causeUncorr 0)) := by
  simp only [begin, beginAll]
  split
  · exact .inl rfl
  · split
    · exact .inr (.inl rfl)
    · have part {g : List Nat} {q : Nat → Bool} : ∀ l ∈ g.filter q, l ∈ g := fun l hl => (List.mem_filter.mp hl).1
      have widened (p : Bool) (q : Nat → Bool) : ∀ l ∈ (if p = true then c.readers h else (c.readers h).filter q), l ∈ c.readers h := by
        cases p
        · exact part
        · exact fun _ => id
      have ends (bad lost : List Nat) (t : State) (hb : ∀ l ∈ bad, l ∈ c.readers h) (hl : ∀ l ∈ lost, l ∈ c.readers h)
          (e : t = (s.trapLanes bad causeEmptyread 0).trapLanes lost causeUncorr 0) (good : List Nat) (hg : ∀ l ∈ good, l ∈ c.exec h) :
          (if good.isEmpty = true then t else k good t) = s ∨ (if good.isEmpty = true then t else k good t) = s.block ∨
          ∃ bad lost : List Nat, (∀ l ∈ bad, l ∈ c.readers h) ∧ (∀ l ∈ lost, l ∈ c.readers h) ∧
            ((if good.isEmpty = true then t else k good t) = (s.trapLanes bad causeEmptyread 0).trapLanes lost causeUncorr 0 ∨
             ∃ g : List Nat, g ≠ [] ∧ (∀ l ∈ g, l ∈ c.exec h) ∧
              (if good.isEmpty = true then t else k good t) = k g ((s.trapLanes bad causeEmptyread 0).trapLanes lost causeUncorr 0)) := by
        subst e
        refine .inr (.inr ⟨bad, lost, hb, hl, ?_⟩)
        by_cases g : good.isEmpty = true
        · exact .inl (if_pos g)
        · exact .inr ⟨good, fun e => g (List.isEmpty_iff.mpr e), hg, if_neg g⟩
      exact ends _ _ _ (widened _ _) (widened _ _) rfl _ part

/-- A word with no executing thread has no effect. -/
theorem begin_none {s : State} {c : Issue} {h : Head} {uses : List Use} {dests : List Reg} (k : List Nat → State → State) (e : c.exec h = []) :
    begin s c h uses dests k = s := by simp [begin, beginAll, e]
theorem beginAt_none {s : State} {c : Issue} {h : Head} {uses : List Use} {reader : List Nat → Nat} {dests : List Reg}
    (k : List Nat → State → State) (e : c.exec h = []) : beginAt s c h uses reader dests k = s := by simp [beginAt, e]
/-- A word that meets an issue runs its body on it; without one it is the fault of no issuer. -/
theorem onIssue_some {s : State} {c : Issue} (k : Issue → State → State) (h : s.issue = some c) : onIssue s k = .next (k c s) := by
  simp [onIssue, h]
/-- A result is delivered in one of three ways: a trap in each thread, a result in flight, or written at once. -/
theorem State.deliver_cases (s : State) (c : Issue) (lanes : List Nat) (d : Reg) (n : Nat) (r : Route) (o : Out) :
    (∃ cause, floatCause (lanes.map c.snap.thread) o.fmtbad o.inv o.ovf = some cause ∧ s.deliver c lanes d n r o = s.trapLanes lanes cause 0) ∨
    (r ≠ .a ∧ s.deliver c lanes d n r o = s.launchResult c lanes d n o.vals true o.inv o.ovf) ∨
    s.deliver c lanes d n r o = (s.give c (lowest lanes) d n o.vals).stick c lanes o.inv o.ovf false := by
  simp only [State.deliver]
  split
  · exact .inl ⟨_, by assumption, rfl⟩
  · split
    · rename_i h; exact .inr (.inl ⟨by rintro rfl; simp [Route.runsOn] at h, rfl⟩)
    · exact .inr (.inr rfl)
/-- Traps change only the issue. -/
theorem State.trapLanes_frame (s : State) (lanes : List Nat) (cause : Nat) (addr : DWord) :
    ∃ i, s.trapLanes lanes cause addr = { s with issue := i } := by
  induction lanes generalizing s with
  | nil => exact ⟨s.issue, rfl⟩
  | cons l ls ih =>
    obtain ⟨i, h⟩ := ih (s.trapLane l cause addr)
    exact ⟨i, h⟩

end Sys2Proof.Machine
end

