-- ==== Sys2Proof/Laws/Memory.lean ====
section
/-! SUPPORT. Byte memories: every operation keeps the canonical form, a byte written reads back, and every other byte stays. -/
namespace Sys2Proof.Machine
open Sys2Proof

theorem cellsWfFrom_mono {lo lo' : Nat} {m : List Host.Cell} (h : lo' ≤ lo) (w : cellsWfFrom lo m = true) : cellsWfFrom lo' m = true := by
  cases m with
  | nil => rfl
  | cons c rest =>
    obtain ⟨a, b⟩ := c
    simp only [cellsWfFrom, Bool.and_eq_true, decide_eq_true_eq] at w ⊢
    exact ⟨⟨by omega, w.1.2⟩, w.2⟩

/-- Below its first entry a memory reads 0. -/
theorem cellGet_below {lo a : Nat} {m : List Host.Cell} (w : cellsWfFrom lo m = true) (h : a < lo) : cellGet m a = 0 := by
  induction m generalizing lo with
  | nil => rfl
  | cons c rest ih =>
    obtain ⟨k, b⟩ := c
    simp only [cellsWfFrom, Bool.and_eq_true, decide_eq_true_eq] at w
    have hk : k ≠ a := by omega
    simp only [cellGet, assocGet, hk, if_false]
    exact ih w.2 (by omega)

theorem cellsWfFrom_cellSet {lo a : Nat} {b : Byte} {m : List Host.Cell} (w : cellsWfFrom lo m = true) (h : lo ≤ a) :
    cellsWfFrom lo (cellSet a b m) = true := by
  induction m generalizing lo with
  | nil =>
    simp only [cellSet, assocSet]
    split
    · rfl
    · rename_i hb
      simp only [cellsWfFrom, Bool.and_eq_true, decide_eq_true_eq]
      exact ⟨⟨h, hb⟩, trivial⟩
  | cons c rest ih =>
    obtain ⟨k, x⟩ := c
    simp only [cellsWfFrom, Bool.and_eq_true, decide_eq_true_eq] at w
    simp only [cellSet, assocSet]
    split
    · split
      · simp only [cellsWfFrom, Bool.and_eq_true, decide_eq_true_eq]; exact w
      · rename_i hlt hb
        simp only [cellsWfFrom, Bool.and_eq_true, decide_eq_true_eq]
        exact ⟨⟨h, hb⟩, ⟨by omega, w.1.2⟩, w.2⟩
    · split
      · rename_i hk
        split
        · exact cellsWfFrom_mono (by omega) w.2
        · rename_i hb
          simp only [cellsWfFrom, Bool.and_eq_true, decide_eq_true_eq]
          exact ⟨⟨h, hb⟩, by rw [hk]; exact w.2⟩
      · simp only [cellsWfFrom, Bool.and_eq_true, decide_eq_true_eq]
        exact ⟨w.1, ih w.2 (by omega)⟩

/-- A byte write keeps the canonical form. -/
theorem Memory.wf_cellSet {a : Nat} {b : Byte} {m : List Host.Cell} (w : Memory.wf m = true) : Memory.wf (cellSet a b m) = true :=
  cellsWfFrom_cellSet w (Nat.zero_le a)

/-- A write of any bytes keeps the canonical form. -/
theorem Memory.wf_cellsWrite {a : Nat} {bs : List Byte} {m : List Host.Cell} (w : Memory.wf m = true) :
    Memory.wf (cellsWrite m a bs) = true := by
  induction bs generalizing a m with
  | nil => exact w
  | cons b bs ih => exact ih (Memory.wf_cellSet w)

theorem Memory.wf_nil : Memory.wf [] = true := rfl

/-- Dropping entries keeps the canonical form. -/
theorem cellsWfFrom_filter {lo : Nat} {p : Host.Cell → Bool} {m : List Host.Cell} (w : cellsWfFrom lo m = true) :
    cellsWfFrom lo (m.filter p) = true := by
  induction m generalizing lo with
  | nil => rfl
  | cons c rest ih =>
    obtain ⟨k, x⟩ := c
    simp only [cellsWfFrom, Bool.and_eq_true, decide_eq_true_eq] at w
    simp only [List.filter]
    split
    · simp only [cellsWfFrom, Bool.and_eq_true, decide_eq_true_eq]; exact ⟨w.1, ih w.2⟩
    · exact cellsWfFrom_mono (by omega) (ih w.2)

theorem Memory.wf_filter {p : Host.Cell → Bool} {m : List Host.Cell} (w : Memory.wf m = true) : Memory.wf (m.filter p) = true :=
  cellsWfFrom_filter w

/-- A byte write leaves every other byte. -/
theorem cellGet_cellSet_other {a k : Nat} (b : Byte) (m : List Host.Cell) (h : k ≠ a) : cellGet (cellSet a b m) k = cellGet m k :=
  assocGet_assocSet_other 0 b a k m h

theorem cellGet_cellSet_sameFrom {lo a : Nat} {b : Byte} {m : List Host.Cell} (w : cellsWfFrom lo m = true) (h : lo ≤ a) :
    cellGet (cellSet a b m) a = b := by
  by_cases hb : b = 0
  · subst hb
    induction m generalizing lo with
    | nil => rfl
    | cons c rest ih =>
      obtain ⟨k, x⟩ := c
      simp only [cellsWfFrom, Bool.and_eq_true, decide_eq_true_eq] at w
      simp only [cellGet, cellSet, assocSet, if_true]
      split
      · rename_i hlt
        have hk : k ≠ a := by omega
        simp only [assocGet, hk, if_false]
        exact cellGet_below w.2 (by omega)
      · split
        · rename_i hk
          exact cellGet_below w.2 (by omega)
        · rename_i hk
          simp only [assocGet, Ne.symm hk, if_false]
          exact ih w.2 (by omega)
  · exact assocGet_assocSet_same 0 b a m hb

/-- A byte written reads back. -/
theorem cellGet_cellSet_same {a : Nat} {b : Byte} {m : List Host.Cell} (w : Memory.wf m = true) : cellGet (cellSet a b m) a = b :=
  cellGet_cellSet_sameFrom w (Nat.zero_le a)

/-- A write leaves every byte below and above it. -/
theorem cellGet_cellsWrite_outside {a k : Nat} {bs : List Byte} {m : List Host.Cell} (h : k < a ∨ a + bs.length ≤ k) :
    cellGet (cellsWrite m a bs) k = cellGet m k := by
  induction bs generalizing a m with
  | nil => rfl
  | cons b bs ih =>
    simp only [cellsWrite, List.length_cons] at h ⊢
    rw [ih (by omega), cellGet_cellSet_other b m (by omega)]

/-- Byte k of a write reads back. -/
theorem cellGet_cellsWrite_inside {a k : Nat} {bs : List Byte} {m : List Host.Cell} (w : Memory.wf m = true) (h : k < bs.length) :
    cellGet (cellsWrite m a bs) (a + k) = bs[k] := by
  induction bs generalizing a m k with
  | nil => simp at h
  | cons b bs ih =>
    cases k with
    | zero =>
      simp only [cellsWrite, Nat.add_zero, List.getElem_cons_zero]
      rw [cellGet_cellsWrite_outside (by omega), cellGet_cellSet_same w]
    | succ k =>
      simp only [cellsWrite, List.getElem_cons_succ]
      have := ih (a := a + 1) (k := k) (Memory.wf_cellSet (a := a) (b := b) w) (by simpa using h)
      rwa [show a + 1 + k = a + (k + 1) by omega] at this

/-- Bytes written read back. -/
theorem cellsRead_cellsWrite {a : Nat} {bs : List Byte} {m : List Host.Cell} (w : Memory.wf m = true) :
    cellsRead (cellsWrite m a bs) a bs.length = bs := by
  apply List.ext_getElem
  · simp [cellsRead]
  · intro k h1 h2
    simp only [cellsRead, List.getElem_map, List.getElem_range]
    exact cellGet_cellsWrite_inside w h2

end Sys2Proof.Machine
end

