-- ==== Sys2Proof/Laws/Writes.lean ====
section
/-! SUPPORT. What reading and writing memory can do: every operation that moves bytes through keys, pages or windows changes only the byte
memories and what stands around them (the L2, keys, check bits, late writes, leases, entries and code that were overwritten, pages that walks
have read, and counts of errors and requests), and keeps the canonical form. -/
namespace Sys2Proof.Machine
open Sys2Proof

/-- The second state differs from the first only in what an access to memory may change, and its memories are canonical if the first's are. -/
def Wrote (s t : State) : Prop := t.unaccessed = s.unaccessed ∧ (s.memoriesWf = true → t.memoriesWf = true)

theorem Wrote.refl (s : State) : Wrote s s := ⟨rfl, id⟩
theorem Wrote.trans {s t u : State} (a : Wrote s t) (b : Wrote t u) : Wrote s u := ⟨b.1.trans a.1, b.2 ∘ a.2⟩
theorem Wrote.flocks {s t : State} (a : Wrote s t) : t.flocks = s.flocks := (congrArg State.flocks a.1 : t.unaccessed.flocks = s.unaccessed.flocks)
theorem Wrote.scratchWf {s t : State} (a : Wrote s t) : t.scratchWf = s.scratchWf := by simp [State.scratchWf, a.flocks]
/-- What changes no byte memory keeps them canonical. -/
theorem Wrote.aside {s t : State} (h : t.unaccessed = s.unaccessed)
    (m : (t.hbm, t.hostMem, t.peerMem, t.peerSpace) = (s.hbm, s.hostMem, s.peerMem, s.peerSpace)) : Wrote s t := by
  simp only [Prod.mk.injEq] at m
  exact ⟨h, fun w => by simpa only [State.memoriesWf, m.1, m.2.1, m.2.2.1, m.2.2.2] using w⟩
/-- A fold of accesses is an access. -/
theorem Wrote.fold {α : Type} {g : State → α → State} (h : ∀ s x, Wrote s (g s x)) (l : List α) (s : State) : Wrote s (l.foldl g s) :=
  List.foldlRecOn l g (Wrote.refl s) fun t ht x _ => ht.trans (h t x)
/-- A choice between two accesses is one. -/
theorem Wrote.choice {s t u : State} {p : Prop} [Decidable p] (a : Wrote s t) (b : Wrote s u) : Wrote s (if p then t else u) := by
  by_cases h : p
  · rwa [if_pos h]
  · rwa [if_neg h]

/-- Every state that an operation may answer comes from an access. -/
def Writes? (s : State) (o : Option State) : Prop := ∀ t, o = some t → Wrote s t
theorem Writes?.none {s : State} : Writes? s none := fun t e => (Option.some_ne_none t e.symm).elim
theorem Writes?.some {s t : State} (h : Wrote s t) : Writes? s (some t) := fun _ e => Option.some.inj e ▸ h
theorem Writes?.map {α : Type} {s : State} {o : Option α} {g : α → State} (h : ∀ x, Wrote s (g x)) : Writes? s (o.map g) :=
  Option.rec .none (fun x => .some (h x)) o
theorem Writes?.bind {α : Type} {s : State} {o : Option α} {g : α → Option State} (h : ∀ x, Writes? s (g x)) : Writes? s (o.bind g) :=
  Option.rec .none h o

theorem State.memoriesWf_iff (s : State) : s.memoriesWf = true ↔
    Memory.wf s.hbm = true ∧ Memory.wf s.hostMem = true ∧ Memory.wf s.peerMem = true ∧ Memory.wf s.peerSpace = true := by
  simp only [State.memoriesWf, Bool.and_eq_true, and_assoc]

/-! ## What stands beside the bytes -/

theorem Beside.refl (s : State) : Beside s s := ⟨rfl, rfl, rfl, rfl, rfl, rfl⟩
theorem Beside.trans {s t u : State} (a : Beside s t) (b : Beside t u) : Beside s u :=
  ⟨b.rest.trans a.rest, b.hbm.trans a.hbm, b.keys.trans a.keys, b.host.trans a.host, b.peers.trans a.peers, b.entries.trans a.entries⟩
theorem Beside.flocks {s t : State} (a : Beside s t) : t.flocks = s.flocks := (congrArg State.flocks a.rest : t.unaccessed.flocks = s.unaccessed.flocks)
theorem Beside.wrote {s t : State} (a : Beside s t) : Wrote s t :=
  .aside a.rest (by
    have e : t.peerSpace = s.peerSpace := (congrArg State.peerSpace a.rest : t.unaccessed.peerSpace = s.unaccessed.peerSpace)
    rw [a.hbm, a.host, a.peers, e])
/-- A change of the L2, of check bits, late writes, overwritten code, clocks, leases and copies. -/
theorem State.beside_around (s : State) (l2 : List L2Line) (b : List BadWord) (late : List LateWrite) (oc : List OldWord) (cl : List (Nat × Nat))
    (ho : List (Nat × (Nat × Nat))) (co : List Copy) :
    Beside s { s with l2 := l2, bad := b, late := late, oldCode := oc, clocks := cl, homes := ho, copies := co } := ⟨rfl, rfl, rfl, rfl, rfl, rfl⟩
/-- A fold of such changes is one, and so is a choice between two. -/
theorem Beside.fold {α : Type} {g : State → α → State} (h : ∀ s x, Beside s (g s x)) (l : List α) (s : State) : Beside s (l.foldl g s) :=
  List.foldlRecOn l g (Beside.refl s) fun t ht x _ => ht.trans (h t x)
theorem Beside.choice {s t u : State} {p : Prop} [Decidable p] (a : Beside s t) (b : Beside s u) : Beside s (if p then t else u) := by
  by_cases h : p
  · rwa [if_pos h]
  · rwa [if_neg h]

theorem modifyNth_map_unwalked {g : Partition → Partition} (h : ∀ q, (g q).unwalked = q.unwalked) (p : Nat) (l : List Partition) :
    (modifyNth g p l).map Partition.unwalked = l.map Partition.unwalked :=
  List.ext_getElem? fun n => by
    simp only [List.getElem?_map, modifyNth_getElem?]
    by_cases e : n = p
    · simp [e, Function.comp_def, h]
    · simp [e]
/-- A partition's walks. -/
theorem State.beside_modPart (s : State) (p : Nat) {g : Partition → Partition} (h : ∀ q, (g q).unwalked = q.unwalked) : Beside s (s.modPart p g) :=
  ⟨by simp [State.unaccessed, State.modPart, modifyNth_map_unwalked h], rfl, rfl, rfl, rfl, rfl⟩
theorem State.beside_modDevice (s : State) {g : Device → Device} (h : (g s.device).uncounted = s.device.uncounted) : Beside s (s.modDevice g) :=
  ⟨by simp [State.unaccessed, State.modDevice, h], rfl, rfl, rfl, rfl, rfl⟩
theorem State.beside_countStack (s : State) (a : Nat) (u : Bool) : Beside s (s.countStack a u) := s.beside_modDevice rfl
theorem State.beside_countDie (s : State) (die : Nat) (u : Bool) : Beside s (s.countDie die u) := s.beside_modDevice rfl
theorem State.beside_reportError (s : State) (pa : Nat) : Beside s (s.reportError pa) := by
  simp only [State.reportError, State.msix]
  exact (s.beside_modDevice rfl).trans (State.beside_modDevice _ rfl)
theorem State.beside_request (s : State) (fn a n : Nat) (op : HostOp) : Beside s (s.request fn a n op) := s.beside_modDevice rfl

/-- A line that leaves the L2, that is hit, that is filled, that is accessed. -/
theorem State.beside_l2Drop (s : State) (e : L2Line) : Beside s (s.l2Drop e) := by
  simp only [State.l2Drop]
  refine .choice (s.beside_around ..) (.choice (s.beside_around ..) ?_)
  exact ((s.beside_around ..).trans (State.beside_countDie _ _ _)).trans (State.beside_reportError _ _)
theorem State.beside_l2Hit (s : State) (e : L2Line) (wr : Bool) : Beside s (s.l2Hit e wr) := s.beside_around ..
theorem State.beside_l2Fill (s : State) (ways slot line : Nat) (wr : Bool) : Beside s (s.l2Fill ways slot line wr) := by
  simp only [State.l2Fill]
  split
  · exact s.beside_around ..
  · exact (s.beside_l2Drop _).trans (State.beside_around ..)
  · exact .refl s
theorem State.beside_touchLine (s : State) (ways slot : Nat) (wr : Bool) (line : Nat) : Beside s (s.touchLine ways slot wr line) := by
  simp only [State.touchLine]
  cases s.l2Line? line with
  | none => exact s.beside_l2Fill ..
  | some e => exact .choice (s.beside_l2Hit ..) ((s.beside_l2Drop e).trans (State.beside_l2Fill ..))
theorem State.beside_touch (s : State) (p cls slot : Nat) (wr : Bool) (pa n : Nat) : Beside s (s.touch p cls slot wr pa n) := by
  simp only [State.touch]
  cases s.device.physOf pa <;> dsimp only <;> first | exact .refl s | exact Beside.fold (fun t _ => t.beside_touchLine ..) _ s
theorem State.beside_touchPhys (s : State) (p cls slot : Nat) (wr : Bool) (pa n : Nat) : Beside s (s.touchPhys p cls slot wr pa n) := by
  simp only [State.touchPhys]
  cases s.device.physOf pa <;> dsimp only <;> first | exact s.beside_request .. | exact s.beside_touch ..
theorem State.beside_touchPage (s : State) (p : Nat) (l : Leaf) (wr : Bool) (va n : Nat) : Beside s (s.touchPage p l wr va n) := by
  simp only [State.touchPage]
  cases s.spot p l va n wr with
  | none => dsimp only; cases s.hostAt l va <;> first | exact .refl s | exact s.beside_request ..
  | some sp =>
    dsimp only
    cases sp.block with
    | none => exact s.beside_touch ..
    | some b =>
      exact ((s.beside_touch ..).trans (Beside.fold (fun t _ => t.beside_touch ..) _ _)).trans (Beside.fold (fun t _ => t.beside_touch ..) _ _)
/-- A memory word asks once for each line, block or line of the host's (R223). -/
theorem State.beside_asked (s : State) (c : Issue) (ks : List (Nat × Nat)) (h : s.issue.map Issue.unlooked = some c.unlooked) :
    Beside s { s with issue := some { c with asked := ks } } :=
  ⟨by simp only [State.unaccessed, h]; rfl, rfl, rfl, rfl, rfl, rfl⟩
theorem State.beside_growRequest (s : State) (fn a n : Nat) : Beside s (s.growRequest fn a n) := s.beside_modDevice rfl
theorem State.beside_touchOnce (s : State) (p : Nat) (l : Leaf) (wr : Bool) (va n : Nat) : Beside s (s.touchOnce p l wr va n) := by
  have w := s.beside_touchPage p l wr va n
  simp only [State.touchOnce]
  cases hi : s.issue with
  | none => exact w
  | some c =>
    dsimp only
    refine .choice ?_ (w.trans (State.beside_asked _ c _ ?_))
    · cases s.hostAt l va <;> first | exact .refl s | exact s.beside_growRequest ..
    · have e := congrArg State.issue w.rest
      simpa [State.unaccessed, hi] using e
/-- A walk. -/
theorem State.beside_noteWalk (s : State) (p va : Nat) : Beside s (s.noteWalk p va) := by
  simp only [State.noteWalk]
  refine .choice (.refl s) ?_
  cases s.keyOf p (bitsOf (s.part p).mem.ptroot.toNat 10 1) with
  | none => exact .refl s
  | some key =>
    refine .choice (.refl s) ?_
    have h (l : List Nat) := Beside.fold (fun t a => t.beside_touchPhys p 0 (bitsOf (s.part p).mem.ptroot.toNat 10 1) false a 8) l s
    split
    · exact (h _).trans (State.beside_modPart _ _ fun _ => rfl)
    · exact h _

/-- Overwritten table entries and words of code, late writes, clocks and copies. -/
theorem State.beside_noteCode (s : State) (p : Nat) (l : Leaf) (va n : Nat) : Beside s (s.noteCode p l va n) := by
  simp only [State.noteCode]; exact .choice (.refl s) (s.beside_around ..)
theorem State.beside_raiseClock (s : State) (core x : Nat) : Beside s (s.raiseClock core x) := by
  simp only [State.raiseClock]; exact .choice (.refl s) (s.beside_around ..)
theorem State.beside_storeTime (s : State) (core : Nat) (sp : Spot) : Beside s (s.storeTime core sp) :=
  Beside.trans (t := s.setHome sp.line _) (s.beside_around ..) (State.beside_raiseClock ..)
theorem State.beside_enterThese (s : State) (ws : List LateWrite) : Beside s (s.enterThese ws) := by
  rw [State.enterThese_eq]; exact s.beside_around ..
theorem State.beside_enter (s : State) (k : Writer → Bool) : Beside s (s.enter k) := s.beside_enterThese _
theorem State.beside_noteHbm (s : State) (by_ : Writer) (key a n : Nat) : Beside s (s.noteHbm by_ key a n) := by
  simp only [State.noteHbm]; exact .choice (.refl s) (s.beside_around ..)
theorem State.beside_noteLate (s : State) (by_ : Writer) (p : Nat) (l : Leaf) (va n : Nat) : Beside s (s.noteLate by_ p l va n) := by
  simp only [State.noteLate]
  cases s.spot p l va n true with
  | none => exact .refl s
  | some sp =>
    dsimp only
    cases sp.block with
    | none => exact s.beside_noteHbm ..
    | some b => dsimp only; cases s.readBlock p sp.key l ((va - l.start) / 2048) <;> first | exact .refl s | exact s.beside_around ..
theorem State.beside_storeOver (s : State) (p core : Nat) (l : Leaf) (va : Nat) (bs : List Byte) : Beside s (s.storeOver p core l va bs) := by
  simp only [State.storeOver]
  cases s.spot p l va bs.length true with
  | none => exact .refl s
  | some sp => exact (s.beside_storeTime core sp).trans (.choice (.refl _) (State.beside_around ..))
theorem State.beside_enterAt (s : State) (p core : Nat) (l : Leaf) (va n : Nat) (op : HostOp) : Beside s (s.enterAt p core l va n op) := by
  simp only [State.enterAt]
  cases s.spot p l va n true <;> cases s.hostAt l va <;> first
    | exact (s.beside_touchOnce ..).trans (State.beside_enterThese ..)
    | exact (s.beside_request ..).trans (State.beside_raiseClock ..)
    | exact s.beside_raiseClock ..
theorem State.beside_stepTime (s : State) (p core : Nat) (l : Leaf) (va n : Nat) : Beside s (s.stepTime p core l va n) := by
  simp only [State.stepTime]
  cases s.spot p l va n true with
  | none => exact .refl s
  | some sp => exact s.beside_storeTime ..

/-- A look-up of a page: what it leaves of the table and of the export entries, and the page itself, which the chain keeps (R221, R223). -/
theorem State.beside_pages (s : State) (g : Issue → Issue) (h : ∀ c, (g c).unlooked = c.unlooked) : Beside s { s with issue := s.issue.map g } :=
  ⟨by simp [State.unaccessed, Function.comp_def, h], rfl, rfl, rfl, rfl, rfl⟩
theorem State.beside_look (s : State) (p va : Nat) : Beside s (s.look p va) := by
  simp only [State.look]
  refine .choice (.refl s) ?_
  exact (s.beside_noteWalk p va).trans (State.beside_pages _ _ fun _ => rfl)
theorem State.beside_cacheExports (s : State) (p : Nat) : Beside s (s.cacheExports p) := by
  simp only [State.cacheExports]; exact .choice (.refl s) (s.beside_modPart p fun _ => rfl)
theorem State.beside_lookAt (s : State) (f : Nat) (va : DWord) : Beside s (s.lookAt f va) := by
  simp only [State.lookAt]
  cases s.flock? f with
  | none => exact .refl s
  | some fl =>
    refine .choice (.refl s) ?_
    have w := s.beside_look fl.p va.toNat
    cases (s.look fl.p va.toNat).lookedUp va.toNat <;> dsimp only
    · exact w
    · exact .choice (w.trans (State.beside_cacheExports ..)) w
/-- An access to the window of a member on another core. -/
theorem State.beside_meetClocks (s : State) (f m : Nat) (at_ : Place) : Beside s (s.meetClocks f m at_) := by
  cases at_ <;> simp only [State.meetClocks]
  · exact .choice (.refl s) ((s.beside_raiseClock ..).trans (State.beside_raiseClock ..))
  · exact .refl s

/-- A plain load of a core thread: a hit of a copy, or a miss, at the home of the line or of the block (R231, R262, R267). -/
theorem State.beside_fresh (s : State) (n : Nat) : Beside s { s with fresh := n } := ⟨rfl, rfl, rfl, rfl, rfl, rfl⟩
theorem State.beside_noteBlock (s : State) (sp : Spot) (bs : List Byte) : Beside s (s.noteBlock sp bs) := by
  simp only [State.noteBlock]
  cases sp.block with
  | none => exact .refl s
  | some b =>
    cases hi : s.issue with
    | none => exact .refl s
    | some c => exact ⟨by simp [State.unaccessed, hi, Issue.unlooked], rfl, rfl, rfl, rfl, rfl⟩
theorem State.beside_loadMiss (s : State) (core : Nat) (sp : Spot) (data : Option (List Byte)) (news : List LateWrite) :
    Beside s (s.loadMiss core sp data news) := by
  have w : Beside s ((s.setHome sp.line ((s.home sp.line).1, max (s.home sp.line).2 (s.clock core + leaseTicks))).raiseClock core (s.home sp.line).1) :=
    (s.beside_around ..).trans (State.beside_raiseClock ..)
  cases data <;> exact w.trans (State.beside_around ..)
theorem State.beside_missRead (s : State) (core : Nat) (sp : Spot) (n : Nat) (home unit : List Byte) : Beside s (s.missRead core sp n home unit).1 := by
  simp only [State.missRead]
  by_cases h : (!s.late.any fun w => s.isLate w && w.key == sp.key && w.meets sp.block sp.at_ n) = true
  · rw [if_pos h]; exact s.beside_loadMiss ..
  · rw [if_neg h]; exact ((s.beside_enterThese _).trans (State.beside_fresh _ _)).trans (State.beside_loadMiss ..)
theorem State.beside_coreMiss (s : State) (p core : Nat) (l : Leaf) (va n : Nat) (sp : Spot) : Beside s (s.coreMiss p core l va n sp).1 := by
  have w := s.beside_touchOnce p l false va n
  simp only [State.coreMiss]
  by_cases h : sp.block.isSome = true
  · rw [if_pos h]; exact (w.trans (State.beside_missRead ..)).trans (State.beside_noteBlock ..)
  · rw [if_neg h]; exact w.trans (State.beside_missRead ..)
theorem State.beside_coreRead (s : State) (p core : Nat) (l : Leaf) (va n : Nat) : Beside s (s.coreRead p core l va n).1 := by
  simp only [State.coreRead]
  cases s.spot p l va n false with
  | none => exact (s.beside_touchOnce ..).trans (State.beside_raiseClock ..)
  | some sp =>
    dsimp only
    cases s.blockSeen sp with
    | some bs => exact .refl s
    | none =>
      cases s.copyFor core sp with
      | none => exact s.beside_coreMiss ..
      | some c =>
        dsimp only
        by_cases h : Config.keepsCopy s.fresh = true
        · rw [if_pos h]; exact ((s.beside_enterThese _).trans (State.beside_noteBlock ..)).trans (State.beside_fresh _ _)
        · rw [if_neg h]; exact (s.beside_fresh _).trans (State.beside_coreMiss ..)
theorem State.beside_viewAt (s : State) (f m : Nat) (l : Leaf) (va : DWord) (n : Nat) : Beside s (s.viewAt f m l va n).1 := by
  simp only [State.viewAt]
  cases s.flock? f <;> first | exact .refl s | exact s.beside_coreRead ..

/-! ## Bytes -/

/-- Noting table entries that are about to be overwritten (R222). -/
theorem State.wrote_noteEntries (s : State) (m : List Host.Cell) (base a n : Nat) : Wrote s (s.noteEntries m base a n) := by
  simp only [State.noteEntries]; exact .choice (.refl s) (.aside rfl rfl)
/-- A change of one byte memory by a write of bytes. -/
theorem State.wrote_hbm (s : State) (a : Nat) (bs : List Byte) (k : List (Nat × Nat)) (b : List BadWord) :
    Wrote s { s with hbm := cellsWrite s.hbm a bs, lineKeys := k, bad := b } :=
  ⟨rfl, fun w => by
    rw [State.memoriesWf_iff] at w ⊢
    exact ⟨Memory.wf_cellsWrite w.1, w.2⟩⟩
theorem State.wrote_rekey (s : State) (key line : Nat) : Wrote s (s.rekey key line) := by
  unfold State.rekey
  refine .choice (.refl s) ?_
  by_cases g : assocGet 0 s.lineKeys line = 0
  · simp only [if_pos g]; exact .aside rfl rfl
  · simp only [if_neg g]; exact (s.wrote_noteEntries s.hbm 0 (line * 128) 128).trans (State.wrote_hbm _ _ _ _ _)
theorem State.wrote_hbmWrite (s : State) (key a : Nat) (bs : List Byte) : Wrote s (s.hbmWrite key a bs) := by
  simp only [State.hbmWrite]
  refine .choice (.refl s) ?_
  exact ((Wrote.fold (fun t l => t.wrote_rekey key l) _ s).trans (State.wrote_noteEntries _ _ 0 a bs.length)).trans (State.wrote_hbm _ a bs _ _)
theorem State.wrote_peerPut (s : State) (a : Nat) (bs : List Byte) : Wrote s (s.peerPut a bs) := by
  obtain ⟨u, m⟩ := s.wrote_noteEntries s.peerMem peerBase a bs.length
  refine ⟨u, fun w => ?_⟩
  have v := m w
  have e : (s.noteEntries s.peerMem peerBase a bs.length).peerMem = s.peerMem := by simp only [State.noteEntries]; split <;> rfl
  rw [State.memoriesWf_iff, e] at v
  rw [State.memoriesWf_iff]
  exact ⟨v.1, v.2.1, Memory.wf_cellsWrite v.2.2.1, v.2.2.2⟩
theorem State.wrote_hostPut (s : State) (a : Nat) (bs : List Byte) : Wrote s (s.hostPut a bs) := by
  obtain ⟨u, m⟩ := s.wrote_noteEntries s.hostMem hostBase a bs.length
  refine ⟨u, fun w => ?_⟩
  have v := m w
  have e : (s.noteEntries s.hostMem hostBase a bs.length).hostMem = s.hostMem := by simp only [State.noteEntries]; split <;> rfl
  rw [State.memoriesWf_iff, e] at v
  rw [State.memoriesWf_iff]
  exact ⟨v.1, Memory.wf_cellsWrite v.2.1, v.2.2⟩
theorem State.wrote_physWrite (s : State) (key pa : Nat) (bs : List Byte) : Wrote s (s.physWrite key pa bs) := by
  simp only [State.physWrite]
  cases s.device.physOf pa <;> first | exact s.wrote_hbmWrite .. | exact s.wrote_peerPut .. | exact s.wrote_hostPut .. | exact .refl s
theorem State.wrote_setLink (s : State) (p c next : Nat) : Wrote s (s.setLink p c next) := s.wrote_hbmWrite ..
theorem State.wrote_setMapWord (s : State) (key : Nat) (l : Leaf) (j n : Nat) (raw : Bool) (first : Nat) :
    Wrote s (s.setMapWord key l j n raw first) := s.wrote_hbmWrite ..
theorem State.wrote_storeChunks (p key : Nat) (cs : List Nat) : ∀ (s : State) (b : List Byte), Wrote s (s.storeChunks p key cs b) :=
  cs.rec (fun s _ => .refl s) fun _ _ ih s _ => (s.wrote_hbmWrite ..).trans (ih _ _)
theorem State.writes_writeMutable (s : State) (p key : Nat) (l : Leaf) (j : Nat) (block : List Byte) : Writes? s (s.writeMutable p key l j block) :=
  Writes?.map fun _ => (State.wrote_storeChunks p key _ s _).trans (State.wrote_setMapWord ..)
/-- A write through a page changes what an access may change, whatever the page maps. -/
theorem State.writes_pageWrite (s : State) (p : Nat) (l : Leaf) (va : Nat) (bs : List Byte) : Writes? s (s.pageWrite p l va bs) := by
  have n := (s.beside_noteCode p l va bs.length).wrote
  have here {o : Option State} (h : Writes? (s.noteCode p l va bs.length) o) : Writes? s o := fun t e => n.trans (h t e)
  simp only [State.pageWrite]
  apply here
  generalize s.noteCode p l va bs.length = s
  cases s.spot p l va bs.length true with
  | some sp =>
    by_cases h : sp.block.isSome = true
    · simp only [if_pos h]; exact .bind fun _ => s.writes_writeMutable _ _ _ _ _
    · simp only [if_neg h]; exact .some (s.wrote_hbmWrite ..)
  | none =>
    rcases s.phys? l va with _ | (_ | a | a | _) <;> dsimp only <;> first | exact .none | skip
    · by_cases h : s.peerAccepts p a bs.length true = true
      · rw [if_pos h]; exact .some (s.wrote_peerPut ..)
      · rw [if_neg h]; exact .none
    · by_cases h : (s.keyOf p l.key).isSome = true
      · rw [if_pos h]; exact .some (s.wrote_hostPut ..)
      · rw [if_neg h]; exact .none
theorem State.wrote_pageWrite {s t : State} {p va : Nat} {l : Leaf} {bs : List Byte} (h : s.pageWrite p l va bs = some t) : Wrote s t :=
  s.writes_pageWrite p l va bs t h


/-! ## Engines, hosts and threads -/

/-- An error that is found is counted. -/
theorem State.beside_countFound (s : State) (a : Nat) : Beside s (s.countFound a) := by
  simp only [State.countFound]; exact .choice (s.beside_countStack ..) (s.beside_countDie ..)
theorem State.beside_countFoundAt (s : State) (die p va n : Nat) : Beside s (s.countFoundAt die p va n) := by
  have h (r : List (Nat × Nat)) : Beside s (match s.firstBad r with | some a => s.countFound a | none => s) := by
    cases s.firstBad r <;> first | exact .refl s | exact s.beside_countFound _
  simp only [State.countFoundAt]
  rcases s.lookup p va with _ | _ | _ | l <;> dsimp only
  · exact .refl s
  · exact .refl s
  · exact h _
  · refine .choice (s.beside_countDie ..) ?_
    cases s.spot p l va n false <;> first | exact .refl s | exact h _
/-- An engine's write changes only what an access may, up to where it stops. -/
theorem State.wrote_engineWrite (by_ : Writer) (p : Nat) (st : Option Stamped) (fuel : Nat) : ∀ (s : State) (va : Nat) (bs : List Byte),
    Wrote s (s.engineWrite by_ p st fuel va bs).1 := by
  refine fuel.rec (fun s _ _ => .refl s) fun n ih s va bs => ?_
  have walk := (s.beside_noteWalk p va).wrote
  simp only [State.engineWrite]
  by_cases e : bs.isEmpty = true
  · rw [if_pos e]; exact .refl s
  rw [if_neg e]
  generalize s.noteWalk p va = t at walk ⊢
  rcases t.translate p va .write with _ | _ | _ | l <;> dsimp only
  · exact walk
  · exact walk
  · exact walk.trans (t.beside_countFoundAt ..).wrote
  by_cases h1 : stampStops st l = true
  · rw [if_pos h1]; exact walk
  by_cases h2 : (l.packed && !l.mut_) = true
  · rw [if_neg h1, if_pos h2]; exact walk
  by_cases h3 : (l.packed && t.pageBad p l va (spanHere va bs.length)) = true
  · rw [if_neg h1, if_neg h2, if_pos h3]; exact walk.trans (t.beside_countFoundAt ..).wrote
  rw [if_neg h1, if_neg h2, if_neg h3]
  cases h : (((t.touchPage p l true va (spanHere va bs.length)).noteLate by_ p l va (spanHere va bs.length)).pageWrite p l va
      (bs.take (spanHere va bs.length))) with
  | none => exact walk
  | some u =>
    have w := ((walk.trans ((t.beside_touchPage ..).wrote)).trans ((State.beside_noteLate ..).wrote)).trans (State.wrote_pageWrite h)
    have v := ih u (va + spanHere va bs.length) (bs.drop (spanHere va bs.length))
    dsimp only
    generalize u.engineWrite by_ p st n (va + spanHere va bs.length) (bs.drop (spanHere va bs.length)) = r at v ⊢
    rcases r with ⟨u', x | a | k⟩ <;> exact w.trans v
theorem State.wrote_writeVa (s : State) (p : Nat) (st : Option Stamped) (va : Nat) (bs : List Byte) (by_ : Writer) :
    Wrote s (s.writeVa p st va bs by_).1 :=
  State.wrote_engineWrite ..
theorem State.wrote_hostWriteVa (s : State) (p va : Nat) (bs : List Byte) : Wrote s (s.hostWriteVa p va bs).1 := State.wrote_engineWrite ..
/-- What an engine's read leaves. -/
theorem State.wrote_serve (p : Nat) (fuel : Nat) : ∀ (s : State) (va n : Nat), Wrote s (s.serve p fuel va n) := by
  refine fuel.rec (fun s _ _ => .refl s) fun k ih s va n => ?_
  have walk := (s.beside_noteWalk p va).wrote
  simp only [State.serve]
  by_cases e : n = 0
  · rw [if_pos e]; exact .refl s
  rw [if_neg e]
  generalize s.noteWalk p va = t at walk ⊢
  have found (k : Nat) := walk.trans (t.beside_countFoundAt 4 p va k).wrote
  rcases t.translate p va .read with _ | _ | _ | l
  · exact walk
  · exact walk
  · exact found _
  · exact Wrote.choice (found _) (walk.trans ((t.beside_touchPage ..).wrote.trans (ih _ _ _)))
theorem State.wrote_served (s : State) (p va n : Nat) : Wrote s (s.served p va n) := State.wrote_serve ..

/-! ## Scratchpads and threads' accesses -/

/-- A change of one workgroup that keeps its scratchpad canonical keeps them all so. -/
theorem State.scratchWf_modWg {s : State} {f m : Nat} {g : Workgroup → Workgroup}
    (h : ∀ wg : Workgroup, Memory.wf wg.scratch = true → Memory.wf (g wg).scratch = true) (w : s.scratchWf = true) : (s.modWg f m g).scratchWf = true := by
  simp only [State.scratchWf, List.all_eq_true] at w ⊢
  apply forall_mem_modifyNth (P := fun fl : Flock => ∀ wg ∈ fl.wgs, Memory.wf wg.scratch = true) _ w
  intro fl hf
  exact forall_mem_modifyNth (P := fun wg : Workgroup => Memory.wf wg.scratch = true) h hf
theorem State.memoriesWf_modWg (s : State) (f m : Nat) (g : Workgroup → Workgroup) : (s.modWg f m g).memoriesWf = s.memoriesWf := rfl
/-- A write of scratchpad bytes keeps every memory and every scratchpad canonical. -/
theorem State.wf_scratchPut {s : State} {f m off : Nat} {bs : List Byte} (w : s.memoriesWf = true) (v : s.scratchWf = true) :
    (s.scratchPut f m off bs).memoriesWf = true ∧ (s.scratchPut f m off bs).scratchWf = true := by
  simp only [State.scratchPut]
  by_cases e : s.bad.isEmpty = true
  · rw [if_pos e]; exact ⟨w, State.scratchWf_modWg (fun _ h => Memory.wf_cellsWrite h) v⟩
  · rw [if_neg e]; exact ⟨w, State.scratchWf_modWg (s := { s with bad := _ }) (fun _ h => Memory.wf_cellsWrite h) v⟩
/-- The write of a checked access keeps every memory and every scratchpad canonical. -/
theorem State.wf_writeAt {s : State} {f m : Nat} {at_ : Place} {va : DWord} {bs : List Byte} (w : s.memoriesWf = true) (v : s.scratchWf = true) :
    (s.writeAt f m at_ va bs).memoriesWf = true ∧ (s.writeAt f m at_ va bs).scratchWf = true := by
  simp only [State.writeAt]
  cases s.flock? f with
  | none => exact ⟨w, v⟩
  | some fl =>
    rcases at_ with ⟨tm, off⟩ | l
    · exact State.wf_scratchPut w v
    · dsimp only
      generalize hu : (if ((s.touchOnce fl.p l true va.toNat bs.length).spot fl.p l va.toNat bs.length true).isSome = true then
        s.touchOnce fl.p l true va.toNat bs.length else
        (s.touchOnce fl.p l true va.toNat bs.length).raiseClock (s.coreOf f m) (s.touchOnce fl.p l true va.toNat bs.length).clockMax) = u
      have a : Wrote s u := hu ▸ ((s.beside_touchOnce ..).wrote).trans (.choice (.refl _) ((State.beside_raiseClock ..).wrote))
      have b : Wrote s (((u.pageWrite fl.p l va.toNat bs).map fun t => t.storeOver fl.p (s.coreOf f m) l va.toNat bs).getD u) := by
        cases h : u.pageWrite fl.p l va.toNat bs with
        | none => exact a
        | some t => exact (a.trans (State.wrote_pageWrite h)).trans ((t.beside_storeOver ..).wrote)
      exact ⟨b.2 w, b.scratchWf.trans v⟩

end Sys2Proof.Machine
end

