-- ==== Sys2Proof/Laws/Access.lean ====
section
/-! SUPPORT. What an access of a thread, a memory word and the taking of a trap can do. -/
namespace Sys2Proof.Machine
open Sys2Proof

/-- What an access does once its page has been looked up (R221, R223): it raises one trap in each of its threads, parks them as strays, or goes
on at the place that its checks give. -/
theorem State.access_cases (s : State) (c : Issue) (lanes : List Nat) (va : DWord) (n qual : Nat) (perm : Perm) (go : Place → State → State) :
    Beside s (s.lookAt c.f va) ∧
    match (s.lookAt c.f va).checkAccess c.f c.m (lanes.any fun l => (c.snap.thread l).stampEn) va n qual perm with
    | .ok at_ masked => s.access c lanes va n qual perm go =
        go at_ (((s.lookAt c.f va).meetClocks c.f c.m at_).stick c lanes false false masked)
    | .absent => s.access c lanes va n qual perm go = (s.lookAt c.f va).strayLanes lanes va perm.detail
    | _ => ∃ cause, s.access c lanes va n qual perm go = (s.lookAt c.f va).trapLanes lanes cause va := by
  refine ⟨s.beside_lookAt c.f va, ?_⟩
  simp only [State.access]
  cases (s.lookAt c.f va).checkAccess c.f c.m (lanes.any fun l => (c.snap.thread l).stampEn) va n qual perm <;>
    first | rfl | exact ⟨_, rfl⟩

/-- A ready memory word whose threads wait for no load accesses once if it is uniform, else once for each executing thread in order. -/
theorem memoryWord_ready {s : State} {c : Issue} {h : Head} {uses : List Use} {dests : List Reg} (uniform : Bool)
    (body : Issue → List Nat → List Word → State → State) (r : Ready s c h uses dests) (w : unwaited s c h) :
    memoryWord s h uses dests uniform body =
      .next (if uniform then body c (c.exec h) (c.values (lowest (c.exec h)) uses) s
        else (c.exec h).foldl (fun s l => body c [l] (c.values l uses) s) s) := by
  have hw : ((c.exec h).any (s.waiting c)) = false := by
    simp only [List.any_eq_false]
    intro l hl; simp [w l hl]
  simp only [memoryWord, onIssue, r.issue, begin_ready _ r, hw, Bool.and_false, Bool.false_eq_true, if_false]

/-- A trap of a thread outside trap mode whose handler is set: the records, the trap-mode bit and the PC change, and nothing else. -/
theorem State.takeTrap_enters {s : State} {f m u lane cause pc next : Nat} {addr : DWord} {wg : Workgroup} {t : Thread}
    (hw : s.wg? f m = some wg) (ht : s.thread? f m u lane = some t) (h0 : t.trapMode = false) (h1 : t.trapvec.toNat % 2 ^ 24 ≠ 0) :
    s.takeTrap f m u lane cause pc next addr = s.modThread f m u lane fun t =>
      { t.record cause (if isUserTrap cause then next else pc) addr with
        trapMode := true, pc := BitVec.ofNat 24 t.trapvec.toNat, hold := .none } := by
  simp only [State.takeTrap, hw, ht, h0]
  rw [if_neg Bool.false_ne_true, if_pos h1]

/-- A trap changes threads and workgroups only, and the status of its flock. -/
theorem State.takeTrap_memories (s : State) (f m u lane cause pc next : Nat) (addr : DWord) :
    (s.takeTrap f m u lane cause pc next addr).memoriesWf = s.memoriesWf := by
  simp only [State.takeTrap]
  split
  · split
    · split
      · rfl
      · split <;> rfl
    · split <;> rfl
  · rfl

end Sys2Proof.Machine
end

