-- ==== Sys2Proof/Laws/PerInstr.lean ====
section
/-! SUPPORT. A law of every instruction: the word of a well-formed one has 32 bits and carries its major opcode (R36, R58). -/
namespace Sys2Proof
open Sys2Proof

theorem Reg.code_lt (r : Reg) : r.code < 32 := by cases r <;> simp only [Reg.code] <;> omega
theorem natOfBool_lt (b : Bool) : natOfBool b < 2 := by cases b <;> decide
/-- A word of a major opcode below 128 and a payload of 18 bits has 32 bits, and its bits 24 to 18 are the opcode. -/
theorem encWord_major (h : Head) (x : Nat) {o p : Nat} (ho : o < 2 ^ 7) (hp : p < 2 ^ 18) : encWord h x o p < 2 ^ 32 ∧ opOf (encWord h x o p) = o := by
  have hc := natOfBool_lt h.chain
  simp only [encWord, opOf, bitsOf]
  cases h.guard with
  | none => have := Nat.mod_lt x (show 0 < 32 by decide); constructor <;> simp <;> omega
  | some g => have := g.index.isLt; have := natOfBool_lt g.sense; constructor <;> simp <;> omega
theorem encWord_law (i : Instr) (h : Head) (x : Nat) {o p : Nat} (hi : encodeCrook i = none) (h0 : 0 < o) (ho : o < 2 ^ 7) (hp : p < 2 ^ 18) :
    encWord h x o p < 2 ^ 32 ∧ 0 < opOf (encWord h x o p) ∧ encodeCrook i = none := by
  have r := encWord_major h x ho hp
  exact ⟨r.1, r.2.symm ▸ h0, hi⟩
theorem payR_lt {d a b : Nat} {fa fb m : Bool} (hd : d < 32) (ha : a < 32) (hb : b < 32) : payR d a b fa fb m < 2 ^ 18 := by
  have := natOfBool_lt fa; have := natOfBool_lt fb; have := natOfBool_lt m
  simp only [payR]; omega
theorem payC_lt {k : Bool} {gd : Fin 16} {a b : Nat} {cc : Fin 8} (ha : a < 32) (hb : b < 32) : payC k gd.val a b cc.val < 2 ^ 18 := by
  have := natOfBool_lt k; have := gd.isLt; have := cc.isLt
  simp only [payC]; omega
theorem immLow_lt (n : Nat) (imm : Int) : immLow n imm < 2 ^ n := by
  have h : (0 : Int) < 2 ^ n := by positivity
  have := Int.emod_lt_of_pos imm h; have := Int.emod_nonneg imm (ne_of_gt h)
  simp only [immLow]
  have : ((imm % 2 ^ n).toNat : Int) < ((2 ^ n : Nat) : Int) := by rw [Int.toNat_of_nonneg (by assumption)]; push_cast; assumption
  exact_mod_cast this
theorem tileField_lt (t : Bool) (tile : Fin 8) : tileField t tile < 32 := by
  have := natOfBool_lt t; have := tile.isLt
  simp only [tileField]; omega

namespace Laws.Encoding

/-- The word of a well-formed instruction has 32 bits and a major opcode other than 0, and no crook operation shares it. -/
def Statement (i : Instr) : Prop := i.wf = true → ∀ w, encodeWord i = some w → w < 2 ^ 32 ∧ 0 < opOf w ∧ encodeCrook i = none

theorem iadd (h : Head) (d : Reg) (a : Src) (b : Src) : Statement (.iadd h d a b) := by
  intro wf w e; cases e; exact encWord_law _ _ _ rfl (by decide) (by decide) (payR_lt (Reg.code_lt _) (Reg.code_lt _) (Reg.code_lt _))
theorem isub (h : Head) (d : Reg) (a : Src) (b : Src) : Statement (.isub h d a b) := by
  intro wf w e; cases e; exact encWord_law _ _ _ rfl (by decide) (by decide) (payR_lt (Reg.code_lt _) (Reg.code_lt _) (Reg.code_lt _))
theorem imul (h : Head) (d : Reg) (a : Src) (b : Src) : Statement (.imul h d a b) := by
  intro wf w e; cases e; exact encWord_law _ _ _ rfl (by decide) (by decide) (payR_lt (Reg.code_lt _) (Reg.code_lt _) (Reg.code_lt _))
theorem imulh (h : Head) (m : Bool) (d : Reg) (a : Src) (b : Src) : Statement (.imulh h m d a b) := by
  intro wf w e; cases e; exact encWord_law _ _ _ rfl (by decide) (by decide) (payR_lt (Reg.code_lt _) (Reg.code_lt _) (Reg.code_lt _))
theorem imad (h : Head) (d : Reg) (a : Src) (b : Src) (c : Reg) : Statement (.imad h d a b c) := by
  intro wf w e; cases e; exact encWord_law _ _ _ rfl (by decide) (by decide) (payR_lt (Reg.code_lt _) (Reg.code_lt _) (Reg.code_lt _))
theorem imin (h : Head) (m : Bool) (d : Reg) (a : Src) (b : Src) : Statement (.imin h m d a b) := by
  intro wf w e; cases e; exact encWord_law _ _ _ rfl (by decide) (by decide) (payR_lt (Reg.code_lt _) (Reg.code_lt _) (Reg.code_lt _))
theorem imax (h : Head) (m : Bool) (d : Reg) (a : Src) (b : Src) : Statement (.imax h m d a b) := by
  intro wf w e; cases e; exact encWord_law _ _ _ rfl (by decide) (by decide) (payR_lt (Reg.code_lt _) (Reg.code_lt _) (Reg.code_lt _))
theorem and (h : Head) (d : Reg) (a : Src) (b : Src) : Statement (.and h d a b) := by
  intro wf w e; cases e; exact encWord_law _ _ _ rfl (by decide) (by decide) (payR_lt (Reg.code_lt _) (Reg.code_lt _) (Reg.code_lt _))
theorem or (h : Head) (d : Reg) (a : Src) (b : Src) : Statement (.or h d a b) := by
  intro wf w e; cases e; exact encWord_law _ _ _ rfl (by decide) (by decide) (payR_lt (Reg.code_lt _) (Reg.code_lt _) (Reg.code_lt _))
theorem xor (h : Head) (d : Reg) (a : Src) (b : Src) : Statement (.xor h d a b) := by
  intro wf w e; cases e; exact encWord_law _ _ _ rfl (by decide) (by decide) (payR_lt (Reg.code_lt _) (Reg.code_lt _) (Reg.code_lt _))
theorem andn (h : Head) (d : Reg) (a : Src) (b : Src) : Statement (.andn h d a b) := by
  intro wf w e; cases e; exact encWord_law _ _ _ rfl (by decide) (by decide) (payR_lt (Reg.code_lt _) (Reg.code_lt _) (Reg.code_lt _))
theorem shl (h : Head) (d : Reg) (a : Src) (b : Src) : Statement (.shl h d a b) := by
  intro wf w e; cases e; exact encWord_law _ _ _ rfl (by decide) (by decide) (payR_lt (Reg.code_lt _) (Reg.code_lt _) (Reg.code_lt _))
theorem shr (h : Head) (d : Reg) (a : Src) (b : Src) : Statement (.shr h d a b) := by
  intro wf w e; cases e; exact encWord_law _ _ _ rfl (by decide) (by decide) (payR_lt (Reg.code_lt _) (Reg.code_lt _) (Reg.code_lt _))
theorem sar (h : Head) (d : Reg) (a : Src) (b : Src) : Statement (.sar h d a b) := by
  intro wf w e; cases e; exact encWord_law _ _ _ rfl (by decide) (by decide) (payR_lt (Reg.code_lt _) (Reg.code_lt _) (Reg.code_lt _))
theorem rotl (h : Head) (d : Reg) (a : Src) (b : Src) : Statement (.rotl h d a b) := by
  intro wf w e; cases e; exact encWord_law _ _ _ rfl (by decide) (by decide) (payR_lt (Reg.code_lt _) (Reg.code_lt _) (Reg.code_lt _))
theorem fshr (h : Head) (d : Reg) (a : Src) (b : Src) (c : Reg) : Statement (.fshr h d a b c) := by
  intro wf w e; cases e; exact encWord_law _ _ _ rfl (by decide) (by decide) (payR_lt (Reg.code_lt _) (Reg.code_lt _) (Reg.code_lt _))
theorem bfe (h : Head) (m : Bool) (d : Reg) (a : Src) (b : Src) : Statement (.bfe h m d a b) := by
  intro wf w e; cases e; exact encWord_law _ _ _ rfl (by decide) (by decide) (payR_lt (Reg.code_lt _) (Reg.code_lt _) (Reg.code_lt _))
theorem bfi (h : Head) (d : Reg) (a : Src) (b : Src) (c : Reg) : Statement (.bfi h d a b c) := by
  intro wf w e; cases e; exact encWord_law _ _ _ rfl (by decide) (by decide) (payR_lt (Reg.code_lt _) (Reg.code_lt _) (Reg.code_lt _))
theorem bshuf (h : Head) (d : Reg) (a : Src) (b : Src) (c : Reg) : Statement (.bshuf h d a b c) := by
  intro wf w e; cases e; exact encWord_law _ _ _ rfl (by decide) (by decide) (payR_lt (Reg.code_lt _) (Reg.code_lt _) (Reg.code_lt _))
theorem sel (chain : Bool) (g : Fin 16) (sense : Bool) (d : Reg) (a : Src) (b : Src) : Statement (.sel chain g sense d a b) := by
  intro wf w e; cases e; exact encWord_law _ _ _ rfl (by decide) (by decide) (payR_lt (Reg.code_lt _) (Reg.code_lt _) (Reg.code_lt _))
theorem iadd64 (h : Head) (d : Reg) (a : Src) (b : Src) : Statement (.iadd64 h d a b) := by
  intro wf w e; cases e; exact encWord_law _ _ _ rfl (by decide) (by decide) (payR_lt (Reg.code_lt _) (Reg.code_lt _) (Reg.code_lt _))
theorem lea64 (chain : Bool) (n : Fin 16) (d : Reg) (a : Src) (b : Src) : Statement (.lea64 chain n d a b) := by
  intro wf w e; cases e; exact encWord_law _ _ _ rfl (by decide) (by decide) (payR_lt (Reg.code_lt _) (Reg.code_lt _) (Reg.code_lt _))
theorem lea64s (chain : Bool) (n : Fin 16) (d : Reg) (a : Src) (b : Src) : Statement (.lea64s chain n d a b) := by
  intro wf w e; cases e; exact encWord_law _ _ _ rfl (by decide) (by decide) (payR_lt (Reg.code_lt _) (Reg.code_lt _) (Reg.code_lt _))
theorem mov (h : Head) (d : Reg) (a : Src) : Statement (.mov h d a) := by
  intro wf w e; cases e; exact encWord_law _ _ _ rfl (by decide) (by decide) (payR_lt (Reg.code_lt _) (Reg.code_lt _) (by decide))
theorem not (h : Head) (d : Reg) (a : Src) : Statement (.not h d a) := by
  intro wf w e; cases e; exact encWord_law _ _ _ rfl (by decide) (by decide) (payR_lt (Reg.code_lt _) (Reg.code_lt _) (by decide))
theorem ineg (h : Head) (d : Reg) (a : Src) : Statement (.ineg h d a) := by
  intro wf w e; cases e; exact encWord_law _ _ _ rfl (by decide) (by decide) (payR_lt (Reg.code_lt _) (Reg.code_lt _) (by decide))
theorem iabs (h : Head) (d : Reg) (a : Src) : Statement (.iabs h d a) := by
  intro wf w e; cases e; exact encWord_law _ _ _ rfl (by decide) (by decide) (payR_lt (Reg.code_lt _) (Reg.code_lt _) (by decide))
theorem popc (h : Head) (d : Reg) (a : Src) : Statement (.popc h d a) := by
  intro wf w e; cases e; exact encWord_law _ _ _ rfl (by decide) (by decide) (payR_lt (Reg.code_lt _) (Reg.code_lt _) (by decide))
theorem clz (h : Head) (d : Reg) (a : Src) : Statement (.clz h d a) := by
  intro wf w e; cases e; exact encWord_law _ _ _ rfl (by decide) (by decide) (payR_lt (Reg.code_lt _) (Reg.code_lt _) (by decide))
theorem brev (h : Head) (d : Reg) (a : Src) : Statement (.brev h d a) := by
  intro wf w e; cases e; exact encWord_law _ _ _ rfl (by decide) (by decide) (payR_lt (Reg.code_lt _) (Reg.code_lt _) (by decide))
theorem ctz (h : Head) (d : Reg) (a : Src) : Statement (.ctz h d a) := by
  intro wf w e; cases e; exact encWord_law _ _ _ rfl (by decide) (by decide) (payR_lt (Reg.code_lt _) (Reg.code_lt _) (by decide))
theorem addi (h : Head) (d : Reg) (a : Reg) (imm : Int) : Statement (.addi h d a imm) := by
  intro wf w e; cases e; exact encWord_law _ _ _ rfl (by decide) (by decide) ((by have := d.code_lt; have := a.code_lt; have := immLow_lt 8 imm; omega))
theorem andi (h : Head) (d : Reg) (a : Reg) (imm : Int) : Statement (.andi h d a imm) := by
  intro wf w e; cases e; exact encWord_law _ _ _ rfl (by decide) (by decide) ((by have := d.code_lt; have := a.code_lt; have := immLow_lt 8 imm; omega))
theorem ori (h : Head) (d : Reg) (a : Reg) (imm : Int) : Statement (.ori h d a imm) := by
  intro wf w e; cases e; exact encWord_law _ _ _ rfl (by decide) (by decide) ((by have := d.code_lt; have := a.code_lt; have := immLow_lt 8 imm; omega))
theorem xori (h : Head) (d : Reg) (a : Reg) (imm : Int) : Statement (.xori h d a imm) := by
  intro wf w e; cases e; exact encWord_law _ _ _ rfl (by decide) (by decide) ((by have := d.code_lt; have := a.code_lt; have := immLow_lt 8 imm; omega))
theorem shli (h : Head) (d : Reg) (a : Reg) (imm : Int) : Statement (.shli h d a imm) := by
  intro wf w e; cases e; exact encWord_law _ _ _ rfl (by decide) (by decide) ((by have := d.code_lt; have := a.code_lt; have := immLow_lt 8 imm; omega))
theorem shri (h : Head) (d : Reg) (a : Reg) (imm : Int) : Statement (.shri h d a imm) := by
  intro wf w e; cases e; exact encWord_law _ _ _ rfl (by decide) (by decide) ((by have := d.code_lt; have := a.code_lt; have := immLow_lt 8 imm; omega))
theorem sari (h : Head) (d : Reg) (a : Reg) (imm : Int) : Statement (.sari h d a imm) := by
  intro wf w e; cases e; exact encWord_law _ _ _ rfl (by decide) (by decide) ((by have := d.code_lt; have := a.code_lt; have := immLow_lt 8 imm; omega))
theorem muli (h : Head) (d : Reg) (a : Reg) (imm : Int) : Statement (.muli h d a imm) := by
  intro wf w e; cases e; exact encWord_law _ _ _ rfl (by decide) (by decide) ((by have := d.code_lt; have := a.code_lt; have := immLow_lt 8 imm; omega))
theorem movi (h : Head) (d : Reg) (imm : Int) : Statement (.movi h d imm) := by
  intro wf w e; cases e; exact encWord_law _ _ _ rfl (by decide) (by decide) ((by have := d.code_lt; have := immLow_lt 13 imm; omega))
theorem movl (h : Head) (d : Reg) (lit : Word) : Statement (.movl h d lit) := by
  intro wf w e; cases e; exact encWord_law _ _ _ rfl (by decide) (by decide) ((by have := d.code_lt; omega))
theorem icmp (h : Head) (k : Bool) (gd : Fin 16) (cc : Fin 8) (a : Reg) (b : Reg) : Statement (.icmp h k gd cc a b) := by
  intro wf w e; cases e; exact encWord_law _ _ _ rfl (by decide) (by decide) (payC_lt (Reg.code_lt _) (Reg.code_lt _))
theorem icmpi (h : Head) (k : Bool) (gd : Fin 16) (cc : Fin 8) (a : Reg) (imm : Int) : Statement (.icmpi h k gd cc a imm) := by
  intro wf w e; cases e; exact encWord_law _ _ _ rfl (by decide) (by decide) (payC_lt (Reg.code_lt _) (immLow_lt 5 imm))
theorem fcmp (h : Head) (k : Bool) (gd : Fin 16) (cc : Fin 8) (a : Reg) (b : Reg) : Statement (.fcmp h k gd cc a b) := by
  intro wf w e; cases e; exact encWord_law _ _ _ rfl (by decide) (by decide) (payC_lt (Reg.code_lt _) (Reg.code_lt _))
theorem plop (h : Head) (gd : Fin 16) (ga : Fin 16) (gb : Fin 16) (tt : Fin 16) : Statement (.plop h gd ga gb tt) := by
  intro wf w e; cases e; exact encWord_law _ _ _ rfl (by decide) (by decide) ((by have := gd.isLt; have := ga.isLt; have := gb.isLt; have := tt.isLt; omega))
theorem pmov (h : Head) (d : Reg) (a : Src) (b : Src) : Statement (.pmov h d a b) := by
  intro wf w e; cases e; exact encWord_law _ _ _ rfl (by decide) (by decide) (payR_lt (Reg.code_lt _) (Reg.code_lt _) (Reg.code_lt _))
theorem fadd (h : Head) (d : Reg) (a : Src) (b : Src) : Statement (.fadd h d a b) := by
  intro wf w e; cases e; exact encWord_law _ _ _ rfl (by decide) (by decide) (payR_lt (Reg.code_lt _) (Reg.code_lt _) (Reg.code_lt _))
theorem fsub (h : Head) (d : Reg) (a : Src) (b : Src) : Statement (.fsub h d a b) := by
  intro wf w e; cases e; exact encWord_law _ _ _ rfl (by decide) (by decide) (payR_lt (Reg.code_lt _) (Reg.code_lt _) (Reg.code_lt _))
theorem fmul (h : Head) (d : Reg) (a : Src) (b : Src) : Statement (.fmul h d a b) := by
  intro wf w e; cases e; exact encWord_law _ _ _ rfl (by decide) (by decide) (payR_lt (Reg.code_lt _) (Reg.code_lt _) (Reg.code_lt _))
theorem ffma (h : Head) (d : Reg) (a : Src) (b : Src) (c : Reg) : Statement (.ffma h d a b c) := by
  intro wf w e; cases e; exact encWord_law _ _ _ rfl (by decide) (by decide) (payR_lt (Reg.code_lt _) (Reg.code_lt _) (Reg.code_lt _))
theorem fmin (h : Head) (d : Reg) (a : Src) (b : Src) : Statement (.fmin h d a b) := by
  intro wf w e; cases e; exact encWord_law _ _ _ rfl (by decide) (by decide) (payR_lt (Reg.code_lt _) (Reg.code_lt _) (Reg.code_lt _))
theorem fmax (h : Head) (d : Reg) (a : Src) (b : Src) : Statement (.fmax h d a b) := by
  intro wf w e; cases e; exact encWord_law _ _ _ rfl (by decide) (by decide) (payR_lt (Reg.code_lt _) (Reg.code_lt _) (Reg.code_lt _))
theorem frndNe (h : Head) (d : Reg) (a : Src) : Statement (.frndNe h d a) := by
  intro wf w e; cases e; exact encWord_law _ _ _ rfl (by decide) (by decide) (payR_lt (Reg.code_lt _) (Reg.code_lt _) (by decide))
theorem frndFl (h : Head) (d : Reg) (a : Src) : Statement (.frndFl h d a) := by
  intro wf w e; cases e; exact encWord_law _ _ _ rfl (by decide) (by decide) (payR_lt (Reg.code_lt _) (Reg.code_lt _) (by decide))
theorem frndCe (h : Head) (d : Reg) (a : Src) : Statement (.frndCe h d a) := by
  intro wf w e; cases e; exact encWord_law _ _ _ rfl (by decide) (by decide) (payR_lt (Reg.code_lt _) (Reg.code_lt _) (by decide))
theorem frndTr (h : Head) (d : Reg) (a : Src) : Statement (.frndTr h d a) := by
  intro wf w e; cases e; exact encWord_law _ _ _ rfl (by decide) (by decide) (payR_lt (Reg.code_lt _) (Reg.code_lt _) (by decide))
theorem hadd2 (h : Head) (m : Bool) (d : Reg) (a : Src) (b : Src) : Statement (.hadd2 h m d a b) := by
  intro wf w e; cases e; exact encWord_law _ _ _ rfl (by decide) (by decide) (payR_lt (Reg.code_lt _) (Reg.code_lt _) (Reg.code_lt _))
theorem hmul2 (h : Head) (m : Bool) (d : Reg) (a : Src) (b : Src) : Statement (.hmul2 h m d a b) := by
  intro wf w e; cases e; exact encWord_law _ _ _ rfl (by decide) (by decide) (payR_lt (Reg.code_lt _) (Reg.code_lt _) (Reg.code_lt _))
theorem hfma2 (h : Head) (m : Bool) (d : Reg) (a : Src) (b : Src) (c : Reg) : Statement (.hfma2 h m d a b c) := by
  intro wf w e; cases e; exact encWord_law _ _ _ rfl (by decide) (by decide) (payR_lt (Reg.code_lt _) (Reg.code_lt _) (Reg.code_lt _))
theorem hmin2 (h : Head) (m : Bool) (d : Reg) (a : Src) (b : Src) : Statement (.hmin2 h m d a b) := by
  intro wf w e; cases e; exact encWord_law _ _ _ rfl (by decide) (by decide) (payR_lt (Reg.code_lt _) (Reg.code_lt _) (Reg.code_lt _))
theorem hmax2 (h : Head) (m : Bool) (d : Reg) (a : Src) (b : Src) : Statement (.hmax2 h m d a b) := by
  intro wf w e; cases e; exact encWord_law _ _ _ rfl (by decide) (by decide) (payR_lt (Reg.code_lt _) (Reg.code_lt _) (Reg.code_lt _))
theorem rcp (h : Head) (d : Reg) (a : Src) : Statement (.rcp h d a) := by
  intro wf w e; cases e; exact encWord_law _ _ _ rfl (by decide) (by decide) (payR_lt (Reg.code_lt _) (Reg.code_lt _) (by decide))
theorem rsq (h : Head) (d : Reg) (a : Src) : Statement (.rsq h d a) := by
  intro wf w e; cases e; exact encWord_law _ _ _ rfl (by decide) (by decide) (payR_lt (Reg.code_lt _) (Reg.code_lt _) (by decide))
theorem sqrt (h : Head) (d : Reg) (a : Src) : Statement (.sqrt h d a) := by
  intro wf w e; cases e; exact encWord_law _ _ _ rfl (by decide) (by decide) (payR_lt (Reg.code_lt _) (Reg.code_lt _) (by decide))
theorem exp2 (h : Head) (d : Reg) (a : Src) : Statement (.exp2 h d a) := by
  intro wf w e; cases e; exact encWord_law _ _ _ rfl (by decide) (by decide) (payR_lt (Reg.code_lt _) (Reg.code_lt _) (by decide))
theorem log2 (h : Head) (d : Reg) (a : Src) : Statement (.log2 h d a) := by
  intro wf w e; cases e; exact encWord_law _ _ _ rfl (by decide) (by decide) (payR_lt (Reg.code_lt _) (Reg.code_lt _) (by decide))
theorem sin (h : Head) (d : Reg) (a : Src) : Statement (.sin h d a) := by
  intro wf w e; cases e; exact encWord_law _ _ _ rfl (by decide) (by decide) (payR_lt (Reg.code_lt _) (Reg.code_lt _) (by decide))
theorem cos (h : Head) (d : Reg) (a : Src) : Statement (.cos h d a) := by
  intro wf w e; cases e; exact encWord_law _ _ _ rfl (by decide) (by decide) (payR_lt (Reg.code_lt _) (Reg.code_lt _) (by decide))
theorem tanh (h : Head) (d : Reg) (a : Src) : Statement (.tanh h d a) := by
  intro wf w e; cases e; exact encWord_law _ _ _ rfl (by decide) (by decide) (payR_lt (Reg.code_lt _) (Reg.code_lt _) (by decide))
theorem cvt (h : Head) (code : Nat) (d : Reg) (a : Src) : Statement (.cvt h code d a) := by
  intro wf w e; cases e; exact encWord_law _ _ _ rfl (by decide) (by decide) (payR_lt (Reg.code_lt _) (Reg.code_lt _) (by simp [Instr.wf] at wf; omega))
theorem cvtsr (chain : Bool) (k : Nat) (m : Bool) (d : Reg) (a : Src) : Statement (.cvtsr chain k m d a) := by
  intro wf w e; cases e; exact encWord_law _ _ _ rfl (by decide) (by decide) (payR_lt (Reg.code_lt _) (Reg.code_lt _) (by decide))
theorem fpack (h : Head) (d : Reg) (a : Src) (b : Src) : Statement (.fpack h d a b) := by
  intro wf w e; cases e; exact encWord_law _ _ _ rfl (by decide) (by decide) (payR_lt (Reg.code_lt _) (Reg.code_lt _) (Reg.code_lt _))
theorem funpk (h : Head) (code : Nat) (d : Reg) (a : Src) : Statement (.funpk h code d a) := by
  intro wf w e; cases e; exact encWord_law _ _ _ rfl (by decide) (by decide) (payR_lt (Reg.code_lt _) (Reg.code_lt _) (by simp [Instr.wf] at wf; omega))
theorem qexp (h : Head) (d : Reg) (a : Src) (b : Src) : Statement (.qexp h d a b) := by
  intro wf w e; cases e; exact encWord_law _ _ _ rfl (by decide) (by decide) (payR_lt (Reg.code_lt _) (Reg.code_lt _) (Reg.code_lt _))
theorem qcvt (h : Head) (d : Reg) (a : Src) (b : Src) : Statement (.qcvt h d a b) := by
  intro wf w e; cases e; exact encWord_law _ _ _ rfl (by decide) (by decide) (payR_lt (Reg.code_lt _) (Reg.code_lt _) (Reg.code_lt _))
theorem bra (h : Head) (off : Int) : Statement (.bra h off) := by
  intro wf w e; cases e; exact encWord_law _ _ _ rfl (by decide) (by decide) (immLow_lt 18 _)
theorem brx (h : Head) (a : Src) : Statement (.brx h a) := by
  intro wf w e; cases e; exact encWord_law _ _ _ rfl (by decide) (by decide) (payR_lt (by decide) (Reg.code_lt _) (by decide))
theorem call (h : Head) (off : Int) : Statement (.call h off) := by
  intro wf w e; cases e; exact encWord_law _ _ _ rfl (by decide) (by decide) (immLow_lt 18 _)
theorem ret (h : Head) : Statement (.ret h) := by
  intro wf w e; cases e; exact encWord_law _ _ _ rfl (by decide) (by decide) ((by decide))
theorem join (h : Head) : Statement (.join h) := by
  intro wf w e; cases e; exact encWord_law _ _ _ rfl (by decide) (by decide) ((by decide))
theorem yield (h : Head) : Statement (.yield h) := by
  intro wf w e; cases e; exact encWord_law _ _ _ rfl (by decide) (by decide) ((by decide))
theorem exit (h : Head) : Statement (.exit h) := by
  intro wf w e; cases e; exact encWord_law _ _ _ rfl (by decide) (by decide) ((by decide))
theorem trap (h : Head) (code : Fin 32) : Statement (.trap h code) := by
  intro wf w e; cases e; exact encWord_law _ _ _ rfl (by decide) (by decide) ((by have := code.isLt; omega))
theorem tret (h : Head) : Statement (.tret h) := by
  intro wf w e; cases e; exact encWord_law _ _ _ rfl (by decide) (by decide) ((by decide))
theorem bkpt (h : Head) (code : Fin 256) : Statement (.bkpt h code) := by
  intro wf w e; cases e; exact encWord_law _ _ _ rfl (by decide) (by decide) ((by have := code.isLt; omega))
theorem nop (h : Head) : Statement (.nop h) := by
  intro wf w e; cases e; exact encWord_law _ _ _ rfl (by decide) (by decide) ((by decide))
theorem movs (h : Head) (n : Nat) (d : Reg) : Statement (.movs h n d) := by
  intro wf w e; cases e; exact encWord_law _ _ _ rfl (by decide) (by decide) (payR_lt (Reg.code_lt _) (by decide) (by simp [Instr.wf] at wf; omega))
theorem movcRead (h : Head) (r : Nat) (d : Reg) : Statement (.movcRead h r d) := by
  intro wf w e; cases e; exact encWord_law _ _ _ rfl (by decide) (by decide) (payR_lt (Reg.code_lt _) (by decide) (by simp [Instr.wf] at wf; omega))
theorem movcWrite (h : Head) (r : Nat) (a : Src) : Statement (.movcWrite h r a) := by
  intro wf w e; cases e; exact encWord_law _ _ _ rfl (by decide) (by decide) (payR_lt (by decide) (Reg.code_lt _) (by simp [Instr.wf] at wf; omega))
theorem brdq (h : Head) (off : Int) : Statement (.brdq h off) := by
  intro wf w e; cases e; exact encWord_law _ _ _ rfl (by decide) (by decide) (immLow_lt 18 _)
theorem dqpush (h : Head) (a : Src) : Statement (.dqpush h a) := by
  intro wf w e; cases e; exact encWord_law _ _ _ rfl (by decide) (by decide) (payR_lt (by decide) (Reg.code_lt _) (by decide))
theorem dqpop (h : Head) (d : Reg) : Statement (.dqpop h d) := by
  intro wf w e; cases e; exact encWord_law _ _ _ rfl (by decide) (by decide) (payR_lt (Reg.code_lt _) (by decide) (by decide))
theorem ldb (h : Head) (q : Fin 4) (d : Reg) (a : Reg) (off : Int) : Statement (.ldb h q d a off) := by
  intro wf w e; cases e; exact encWord_law _ _ _ rfl (by decide) (by decide) ((by have := d.code_lt; have := a.code_lt; have := immLow_lt 6 off; have := q.isLt; omega))
theorem ldbs (h : Head) (q : Fin 4) (d : Reg) (a : Reg) (off : Int) : Statement (.ldbs h q d a off) := by
  intro wf w e; cases e; exact encWord_law _ _ _ rfl (by decide) (by decide) ((by have := d.code_lt; have := a.code_lt; have := immLow_lt 6 off; have := q.isLt; omega))
theorem ldh (h : Head) (q : Fin 4) (d : Reg) (a : Reg) (off : Int) : Statement (.ldh h q d a off) := by
  intro wf w e; cases e; exact encWord_law _ _ _ rfl (by decide) (by decide) ((by have := d.code_lt; have := a.code_lt; have := immLow_lt 6 off; have := q.isLt; omega))
theorem ldhs (h : Head) (q : Fin 4) (d : Reg) (a : Reg) (off : Int) : Statement (.ldhs h q d a off) := by
  intro wf w e; cases e; exact encWord_law _ _ _ rfl (by decide) (by decide) ((by have := d.code_lt; have := a.code_lt; have := immLow_lt 6 off; have := q.isLt; omega))
theorem ldw (h : Head) (q : Fin 4) (d : Reg) (a : Reg) (off : Int) : Statement (.ldw h q d a off) := by
  intro wf w e; cases e; exact encWord_law _ _ _ rfl (by decide) (by decide) ((by have := d.code_lt; have := a.code_lt; have := immLow_lt 6 off; have := q.isLt; omega))
theorem ldd (h : Head) (q : Fin 4) (d : Reg) (a : Reg) (off : Int) : Statement (.ldd h q d a off) := by
  intro wf w e; cases e; exact encWord_law _ _ _ rfl (by decide) (by decide) ((by have := d.code_lt; have := a.code_lt; have := immLow_lt 6 off; have := q.isLt; omega))
theorem ldq (h : Head) (q : Fin 4) (d : Reg) (a : Reg) (off : Int) : Statement (.ldq h q d a off) := by
  intro wf w e; cases e; exact encWord_law _ _ _ rfl (by decide) (by decide) ((by have := d.code_lt; have := a.code_lt; have := immLow_lt 6 off; have := q.isLt; omega))
theorem stb (h : Head) (q : Bool) (a : Reg) (off : Int) (src : Reg) : Statement (.stb h q a off src) := by
  intro wf w e; cases e; exact encWord_law _ _ _ rfl (by decide) (by decide) ((by have := src.code_lt; have := a.code_lt; have := immLow_lt 6 off; have := natOfBool_lt q; omega))
theorem sth (h : Head) (q : Bool) (a : Reg) (off : Int) (src : Reg) : Statement (.sth h q a off src) := by
  intro wf w e; cases e; exact encWord_law _ _ _ rfl (by decide) (by decide) ((by have := src.code_lt; have := a.code_lt; have := immLow_lt 6 off; have := natOfBool_lt q; omega))
theorem stw (h : Head) (q : Bool) (a : Reg) (off : Int) (src : Reg) : Statement (.stw h q a off src) := by
  intro wf w e; cases e; exact encWord_law _ _ _ rfl (by decide) (by decide) ((by have := src.code_lt; have := a.code_lt; have := immLow_lt 6 off; have := natOfBool_lt q; omega))
theorem std (h : Head) (q : Bool) (a : Reg) (off : Int) (src : Reg) : Statement (.std h q a off src) := by
  intro wf w e; cases e; exact encWord_law _ _ _ rfl (by decide) (by decide) ((by have := src.code_lt; have := a.code_lt; have := immLow_lt 6 off; have := natOfBool_lt q; omega))
theorem stq (h : Head) (q : Bool) (a : Reg) (off : Int) (src : Reg) : Statement (.stq h q a off src) := by
  intro wf w e; cases e; exact encWord_law _ _ _ rfl (by decide) (by decide) ((by have := src.code_lt; have := a.code_lt; have := immLow_lt 6 off; have := natOfBool_lt q; omega))
theorem atomiAdd (h : Head) (d : Reg) (a : Reg) (b : Reg) : Statement (.atomiAdd h d a b) := by
  intro wf w e; cases e; exact encWord_law _ _ _ rfl (by decide) (by decide) ((by have := d.code_lt; have := a.code_lt; have := b.code_lt; omega))
theorem atomiMin (h : Head) (d : Reg) (a : Reg) (b : Reg) : Statement (.atomiMin h d a b) := by
  intro wf w e; cases e; exact encWord_law _ _ _ rfl (by decide) (by decide) ((by have := d.code_lt; have := a.code_lt; have := b.code_lt; omega))
theorem atomiMax (h : Head) (d : Reg) (a : Reg) (b : Reg) : Statement (.atomiMax h d a b) := by
  intro wf w e; cases e; exact encWord_law _ _ _ rfl (by decide) (by decide) ((by have := d.code_lt; have := a.code_lt; have := b.code_lt; omega))
theorem atomiMinu (h : Head) (d : Reg) (a : Reg) (b : Reg) : Statement (.atomiMinu h d a b) := by
  intro wf w e; cases e; exact encWord_law _ _ _ rfl (by decide) (by decide) ((by have := d.code_lt; have := a.code_lt; have := b.code_lt; omega))
theorem atomiMaxu (h : Head) (d : Reg) (a : Reg) (b : Reg) : Statement (.atomiMaxu h d a b) := by
  intro wf w e; cases e; exact encWord_law _ _ _ rfl (by decide) (by decide) ((by have := d.code_lt; have := a.code_lt; have := b.code_lt; omega))
theorem atomiAnd (h : Head) (d : Reg) (a : Reg) (b : Reg) : Statement (.atomiAnd h d a b) := by
  intro wf w e; cases e; exact encWord_law _ _ _ rfl (by decide) (by decide) ((by have := d.code_lt; have := a.code_lt; have := b.code_lt; omega))
theorem atomiOr (h : Head) (d : Reg) (a : Reg) (b : Reg) : Statement (.atomiOr h d a b) := by
  intro wf w e; cases e; exact encWord_law _ _ _ rfl (by decide) (by decide) ((by have := d.code_lt; have := a.code_lt; have := b.code_lt; omega))
theorem atomiXor (h : Head) (d : Reg) (a : Reg) (b : Reg) : Statement (.atomiXor h d a b) := by
  intro wf w e; cases e; exact encWord_law _ _ _ rfl (by decide) (by decide) ((by have := d.code_lt; have := a.code_lt; have := b.code_lt; omega))
theorem atomfFadd (h : Head) (d : Reg) (a : Reg) (b : Reg) : Statement (.atomfFadd h d a b) := by
  intro wf w e; cases e; exact encWord_law _ _ _ rfl (by decide) (by decide) ((by have := d.code_lt; have := a.code_lt; have := b.code_lt; omega))
theorem atomfFmin (h : Head) (d : Reg) (a : Reg) (b : Reg) : Statement (.atomfFmin h d a b) := by
  intro wf w e; cases e; exact encWord_law _ _ _ rfl (by decide) (by decide) ((by have := d.code_lt; have := a.code_lt; have := b.code_lt; omega))
theorem atomfFmax (h : Head) (d : Reg) (a : Reg) (b : Reg) : Statement (.atomfFmax h d a b) := by
  intro wf w e; cases e; exact encWord_law _ _ _ rfl (by decide) (by decide) ((by have := d.code_lt; have := a.code_lt; have := b.code_lt; omega))
theorem atomfBfadd2 (h : Head) (d : Reg) (a : Reg) (b : Reg) : Statement (.atomfBfadd2 h d a b) := by
  intro wf w e; cases e; exact encWord_law _ _ _ rfl (by decide) (by decide) ((by have := d.code_lt; have := a.code_lt; have := b.code_lt; omega))
theorem atomfHadd2 (h : Head) (d : Reg) (a : Reg) (b : Reg) : Statement (.atomfHadd2 h d a b) := by
  intro wf w e; cases e; exact encWord_law _ _ _ rfl (by decide) (by decide) ((by have := d.code_lt; have := a.code_lt; have := b.code_lt; omega))
theorem atomfXchg (h : Head) (d : Reg) (a : Reg) (b : Reg) : Statement (.atomfXchg h d a b) := by
  intro wf w e; cases e; exact encWord_law _ _ _ rfl (by decide) (by decide) ((by have := d.code_lt; have := a.code_lt; have := b.code_lt; omega))
theorem cas (h : Head) (d : Reg) (a : Src) (b : Src) (c : Reg) : Statement (.cas h d a b c) := by
  intro wf w e; cases e; exact encWord_law _ _ _ rfl (by decide) (by decide) (payR_lt (Reg.code_lt _) (Reg.code_lt _) (Reg.code_lt _))
theorem ldx (h : Head) (mask : Nat) (d : Reg) (a : Src) : Statement (.ldx h mask d a) := by
  intro wf w e; cases e; exact encWord_law _ _ _ rfl (by decide) (by decide) (payR_lt (Reg.code_lt _) (Reg.code_lt _) (by simp [Instr.wf, WellFormed.mask5] at wf; omega))
theorem stx (h : Head) (mask : Nat) (a : Src) (b : Src) : Statement (.stx h mask a b) := by
  intro wf w e; cases e; exact encWord_law _ _ _ rfl (by decide) (by decide) (payR_lt (by simp [Instr.wf, WellFormed.mask5] at wf; omega) (Reg.code_lt _) (Reg.code_lt _))
theorem fence (h : Head) (mask : Nat) : Statement (.fence h mask) := by
  intro wf w e; cases e; exact encWord_law _ _ _ rfl (by decide) (by decide) ((by simp [Instr.wf, WellFormed.mask5] at wf; omega))
theorem tagq (h : Head) (d : Reg) (a : Src) : Statement (.tagq h d a) := by
  intro wf w e; cases e; exact encWord_law _ _ _ rfl (by decide) (by decide) (payR_lt (Reg.code_lt _) (Reg.code_lt _) (by decide))
theorem tagw (h : Head) (d : Reg) (a : Src) (b : Src) : Statement (.tagw h d a b) := by
  intro wf w e; cases e; exact encWord_law _ _ _ rfl (by decide) (by decide) (payR_lt (Reg.code_lt _) (Reg.code_lt _) (Reg.code_lt _))
theorem fest (h : Head) (d : Reg) (a : Src) (b : Src) : Statement (.fest h d a b) := by
  intro wf w e; cases e; exact encWord_law _ _ _ rfl (by decide) (by decide) (payR_lt (Reg.code_lt _) (Reg.code_lt _) (Reg.code_lt _))
theorem pref (h : Head) (a : Src) (b : Src) : Statement (.pref h a b) := by
  intro wf w e; cases e; exact encWord_law _ _ _ rfl (by decide) (by decide) (payR_lt (by decide) (Reg.code_lt _) (Reg.code_lt _))
theorem vany (h : Head) (d : Reg) (a : Src) : Statement (.vany h d a) := by
  intro wf w e; cases e; exact encWord_law _ _ _ rfl (by decide) (by decide) (payR_lt (Reg.code_lt _) (Reg.code_lt _) (by decide))
theorem vall (h : Head) (d : Reg) (a : Src) : Statement (.vall h d a) := by
  intro wf w e; cases e; exact encWord_law _ _ _ rfl (by decide) (by decide) (payR_lt (Reg.code_lt _) (Reg.code_lt _) (by decide))
theorem ballot (h : Head) (d : Reg) (a : Src) : Statement (.ballot h d a) := by
  intro wf w e; cases e; exact encWord_law _ _ _ rfl (by decide) (by decide) (payR_lt (Reg.code_lt _) (Reg.code_lt _) (by decide))
theorem actm (h : Head) (d : Reg) : Statement (.actm h d) := by
  intro wf w e; cases e; exact encWord_law _ _ _ rfl (by decide) (by decide) (payR_lt (Reg.code_lt _) (by decide) (by decide))
theorem first (h : Head) (d : Reg) (a : Src) : Statement (.first h d a) := by
  intro wf w e; cases e; exact encWord_law _ _ _ rfl (by decide) (by decide) (payR_lt (Reg.code_lt _) (Reg.code_lt _) (by decide))
theorem count (h : Head) (d : Reg) (a : Src) : Statement (.count h d a) := by
  intro wf w e; cases e; exact encWord_law _ _ _ rfl (by decide) (by decide) (payR_lt (Reg.code_lt _) (Reg.code_lt _) (by decide))
theorem wsync (h : Head) : Statement (.wsync h) := by
  intro wf w e; cases e; exact encWord_law _ _ _ rfl (by decide) (by decide) ((by decide))
theorem shflIdx (h : Head) (d : Reg) (a : Src) (b : Reg) : Statement (.shflIdx h d a b) := by
  intro wf w e; cases e; exact encWord_law _ _ _ rfl (by decide) (by decide) (payR_lt (Reg.code_lt _) (Reg.code_lt _) (Reg.code_lt _))
theorem shflUp (h : Head) (d : Reg) (a : Src) (b : Reg) : Statement (.shflUp h d a b) := by
  intro wf w e; cases e; exact encWord_law _ _ _ rfl (by decide) (by decide) (payR_lt (Reg.code_lt _) (Reg.code_lt _) (Reg.code_lt _))
theorem shflDown (h : Head) (d : Reg) (a : Src) (b : Reg) : Statement (.shflDown h d a b) := by
  intro wf w e; cases e; exact encWord_law _ _ _ rfl (by decide) (by decide) (payR_lt (Reg.code_lt _) (Reg.code_lt _) (Reg.code_lt _))
theorem shflXor (h : Head) (d : Reg) (a : Src) (b : Reg) : Statement (.shflXor h d a b) := by
  intro wf w e; cases e; exact encWord_law _ _ _ rfl (by decide) (by decide) (payR_lt (Reg.code_lt _) (Reg.code_lt _) (Reg.code_lt _))
theorem wredAdd (h : Head) (d : Reg) (a : Src) : Statement (.wredAdd h d a) := by
  intro wf w e; cases e; exact encWord_law _ _ _ rfl (by decide) (by decide) (payR_lt (Reg.code_lt _) (Reg.code_lt _) (by decide))
theorem wredMin (h : Head) (d : Reg) (a : Src) : Statement (.wredMin h d a) := by
  intro wf w e; cases e; exact encWord_law _ _ _ rfl (by decide) (by decide) (payR_lt (Reg.code_lt _) (Reg.code_lt _) (by decide))
theorem wredMax (h : Head) (d : Reg) (a : Src) : Statement (.wredMax h d a) := by
  intro wf w e; cases e; exact encWord_law _ _ _ rfl (by decide) (by decide) (payR_lt (Reg.code_lt _) (Reg.code_lt _) (by decide))
theorem wredMinu (h : Head) (d : Reg) (a : Src) : Statement (.wredMinu h d a) := by
  intro wf w e; cases e; exact encWord_law _ _ _ rfl (by decide) (by decide) (payR_lt (Reg.code_lt _) (Reg.code_lt _) (by decide))
theorem wredMaxu (h : Head) (d : Reg) (a : Src) : Statement (.wredMaxu h d a) := by
  intro wf w e; cases e; exact encWord_law _ _ _ rfl (by decide) (by decide) (payR_lt (Reg.code_lt _) (Reg.code_lt _) (by decide))
theorem wredAnd (h : Head) (d : Reg) (a : Src) : Statement (.wredAnd h d a) := by
  intro wf w e; cases e; exact encWord_law _ _ _ rfl (by decide) (by decide) (payR_lt (Reg.code_lt _) (Reg.code_lt _) (by decide))
theorem wredOr (h : Head) (d : Reg) (a : Src) : Statement (.wredOr h d a) := by
  intro wf w e; cases e; exact encWord_law _ _ _ rfl (by decide) (by decide) (payR_lt (Reg.code_lt _) (Reg.code_lt _) (by decide))
theorem wredXor (h : Head) (d : Reg) (a : Src) : Statement (.wredXor h d a) := by
  intro wf w e; cases e; exact encWord_law _ _ _ rfl (by decide) (by decide) (payR_lt (Reg.code_lt _) (Reg.code_lt _) (by decide))
theorem wredFadd (h : Head) (d : Reg) (a : Src) : Statement (.wredFadd h d a) := by
  intro wf w e; cases e; exact encWord_law _ _ _ rfl (by decide) (by decide) (payR_lt (Reg.code_lt _) (Reg.code_lt _) (by decide))
theorem wredFmin (h : Head) (d : Reg) (a : Src) : Statement (.wredFmin h d a) := by
  intro wf w e; cases e; exact encWord_law _ _ _ rfl (by decide) (by decide) (payR_lt (Reg.code_lt _) (Reg.code_lt _) (by decide))
theorem wredFmax (h : Head) (d : Reg) (a : Src) : Statement (.wredFmax h d a) := by
  intro wf w e; cases e; exact encWord_law _ _ _ rfl (by decide) (by decide) (payR_lt (Reg.code_lt _) (Reg.code_lt _) (by decide))
theorem hurdle (h : Head) (n : Fin 16) : Statement (.hurdle h n) := by
  intro wf w e; cases e; exact encWord_law _ _ _ rfl (by decide) (by decide) ((by have := n.isLt; omega))
theorem hurdleF (h : Head) (n : Fin 16) : Statement (.hurdleF h n) := by
  intro wf w e; cases e; exact encWord_law _ _ _ rfl (by decide) (by decide) ((by have := n.isLt; omega))
theorem arrive (h : Head) (d : Reg) (a : Src) : Statement (.arrive h d a) := by
  intro wf w e; cases e; exact encWord_law _ _ _ rfl (by decide) (by decide) (payR_lt (Reg.code_lt _) (Reg.code_lt _) (by decide))
theorem await (h : Head) (a : Src) (b : Src) : Statement (.await h a b) := by
  intro wf w e; cases e; exact encWord_law _ _ _ rfl (by decide) (by decide) (payR_lt (by decide) (Reg.code_lt _) (Reg.code_lt _))
theorem prog (h : Head) (a : Src) : Statement (.prog h a) := by
  intro wf w e; cases e; exact encWord_law _ _ _ rfl (by decide) (by decide) (payR_lt (by decide) (Reg.code_lt _) (by decide))
theorem cont (h : Head) (a : Src) (b : Src) : Statement (.cont h a b) := by
  intro wf w e; cases e; exact encWord_law _ _ _ rfl (by decide) (by decide) (payR_lt (by decide) (Reg.code_lt _) (Reg.code_lt _))
theorem gang (h : Head) (a : Src) : Statement (.gang h a) := by
  intro wf w e; cases e; exact encWord_law _ _ _ rfl (by decide) (by decide) (payR_lt (by decide) (Reg.code_lt _) (by decide))
theorem qpush (h : Head) (a : Src) : Statement (.qpush h a) := by
  intro wf w e; cases e; exact encWord_law _ _ _ rfl (by decide) (by decide) (payR_lt (by decide) (Reg.code_lt _) (by decide))
theorem qpop (h : Head) (n : Nat) (d : Reg) : Statement (.qpop h n d) := by
  intro wf w e; cases e; exact encWord_law _ _ _ rfl (by decide) (by decide) (payR_lt (Reg.code_lt _) (by decide) (by simp [Instr.wf] at wf; omega))
theorem mma (h : Head) (z : Bool) (t : Bool) (tile : Fin 8) (a : Src) (b : Src) : Statement (.mma h z t tile a b) := by
  intro wf w e; cases e; exact encWord_law _ _ _ rfl (by decide) (by decide) (payR_lt (tileField_lt _ _) (Reg.code_lt _) (Reg.code_lt _))
theorem mlut (h : Head) (z : Bool) (t : Bool) (tile : Fin 8) (a : Src) (b : Src) : Statement (.mlut h z t tile a b) := by
  intro wf w e; cases e; exact encWord_law _ _ _ rfl (by decide) (by decide) (payR_lt (tileField_lt _ _) (Reg.code_lt _) (Reg.code_lt _))
theorem mzero (h : Head) (t : Bool) (tile : Fin 8) : Statement (.mzero h t tile) := by
  intro wf w e; cases e; exact encWord_law _ _ _ rfl (by decide) (by decide) (payR_lt (tileField_lt _ _) (by decide) (by decide))
theorem mload (h : Head) (m : Bool) (t : Bool) (tile : Fin 8) (a : Src) : Statement (.mload h m t tile a) := by
  intro wf w e; cases e; exact encWord_law _ _ _ rfl (by decide) (by decide) (payR_lt (tileField_lt _ _) (Reg.code_lt _) (by decide))
theorem mstore (h : Head) (m : Bool) (t : Bool) (tile : Fin 8) (a : Src) : Statement (.mstore h m t tile a) := by
  intro wf w e; cases e; exact encWord_law _ _ _ rfl (by decide) (by decide) (payR_lt (tileField_lt _ _) (Reg.code_lt _) (by decide))
theorem mstoresr (chain : Bool) (k : Nat) (t : Bool) (tile : Fin 8) (a : Src) : Statement (.mstoresr chain k t tile a) := by
  intro wf w e; cases e; exact encWord_law _ _ _ rfl (by decide) (by decide) (payR_lt (tileField_lt _ _) (Reg.code_lt _) (by decide))
theorem mstoresrGuarded (chain : Bool) (g : Guard) (t : Bool) (tile : Fin 8) (a : Src) : Statement (.mstoresrGuarded chain g t tile a) := by
  intro wf w e; cases e; exact encWord_law _ _ _ rfl (by decide) (by decide) (payR_lt (tileField_lt _ _) (Reg.code_lt _) (by decide))
theorem xform (h : Head) (a : Src) (b : Src) : Statement (.xform h a b) := by
  intro wf w e; cases e; exact encWord_law _ _ _ rfl (by decide) (by decide) (payR_lt (by decide) (Reg.code_lt _) (Reg.code_lt _))
theorem post (h : Head) (a : Src) (b : Src) : Statement (.post h a b) := by
  intro wf w e; cases e; exact encWord_law _ _ _ rfl (by decide) (by decide) (payR_lt (by decide) (Reg.code_lt _) (Reg.code_lt _))
theorem tlwait (h : Head) (d : Reg) (a : Src) : Statement (.tlwait h d a) := by
  intro wf w e; cases e; exact encWord_law _ _ _ rfl (by decide) (by decide) (payR_lt (Reg.code_lt _) (Reg.code_lt _) (by decide))
theorem tlread (h : Head) (d : Reg) (a : Src) : Statement (.tlread h d a) := by
  intro wf w e; cases e; exact encWord_law _ _ _ rfl (by decide) (by decide) (payR_lt (Reg.code_lt _) (Reg.code_lt _) (by decide))
theorem bwaitFull (h : Head) (a : Src) : Statement (.bwaitFull h a) := by
  intro wf w e; cases e; exact encWord_law _ _ _ rfl (by decide) (by decide) (payR_lt (by decide) (Reg.code_lt _) (by decide))
theorem bwaitFree (h : Head) (a : Src) : Statement (.bwaitFree h a) := by
  intro wf w e; cases e; exact encWord_law _ _ _ rfl (by decide) (by decide) (payR_lt (by decide) (Reg.code_lt _) (by decide))
theorem bstate (h : Head) (d : Reg) (a : Src) : Statement (.bstate h d a) := by
  intro wf w e; cases e; exact encWord_law _ _ _ rfl (by decide) (by decide) (payR_lt (Reg.code_lt _) (Reg.code_lt _) (by decide))
theorem brel (h : Head) (a : Src) : Statement (.brel h a) := by
  intro wf w e; cases e; exact encWord_law _ _ _ rfl (by decide) (by decide) (payR_lt (by decide) (Reg.code_lt _) (by decide))
theorem boinit (h : Head) (d : Reg) (a : Src) : Statement (.boinit h d a) := by
  intro wf w e; cases e; exact encWord_law _ _ _ rfl (by decide) (by decide) (payR_lt (Reg.code_lt _) (Reg.code_lt _) (by decide))
theorem boarr (h : Head) (d : Reg) (a : Src) : Statement (.boarr h d a) := by
  intro wf w e; cases e; exact encWord_law _ _ _ rfl (by decide) (by decide) (payR_lt (Reg.code_lt _) (Reg.code_lt _) (by decide))
theorem boexp (h : Head) (d : Reg) (a : Src) : Statement (.boexp h d a) := by
  intro wf w e; cases e; exact encWord_law _ _ _ rfl (by decide) (by decide) (payR_lt (Reg.code_lt _) (Reg.code_lt _) (by decide))
theorem botest (h : Head) (d : Reg) (a : Src) : Statement (.botest h d a) := by
  intro wf w e; cases e; exact encWord_law _ _ _ rfl (by decide) (by decide) (payR_lt (Reg.code_lt _) (Reg.code_lt _) (by decide))
theorem bowait (h : Head) (a : Src) : Statement (.bowait h a) := by
  intro wf w e; cases e; exact encWord_law _ _ _ rfl (by decide) (by decide) (payR_lt (by decide) (Reg.code_lt _) (by decide))
theorem crkLdf (d : Fin 16) (f : Fin 16) : Statement (.crkLdf d f) := fun _ _ e => nomatch e
theorem crkLdg (d : Fin 16) (g : Fin 16) : Statement (.crkLdg d g) := fun _ _ e => nomatch e
theorem crkLdi (d : Fin 16) (imm : Int) : Statement (.crkLdi d imm) := fun _ _ e => nomatch e
theorem crkAdd (d : Fin 16) (a : Fin 16) (b : Fin 16) : Statement (.crkAdd d a b) := fun _ _ e => nomatch e
theorem crkSub (d : Fin 16) (a : Fin 16) (b : Fin 16) : Statement (.crkSub d a b) := fun _ _ e => nomatch e
theorem crkMul (d : Fin 16) (a : Fin 16) (b : Fin 16) : Statement (.crkMul d a b) := fun _ _ e => nomatch e
theorem crkMin (d : Fin 16) (a : Fin 16) (b : Fin 16) : Statement (.crkMin d a b) := fun _ _ e => nomatch e
theorem crkMax (d : Fin 16) (a : Fin 16) (b : Fin 16) : Statement (.crkMax d a b) := fun _ _ e => nomatch e
theorem crkAnd (d : Fin 16) (a : Fin 16) (b : Fin 16) : Statement (.crkAnd d a b) := fun _ _ e => nomatch e
theorem crkOr (d : Fin 16) (a : Fin 16) (b : Fin 16) : Statement (.crkOr d a b) := fun _ _ e => nomatch e
theorem crkShl (d : Fin 16) (a : Fin 16) (b : Fin 16) : Statement (.crkShl d a b) := fun _ _ e => nomatch e
theorem crkShr (d : Fin 16) (a : Fin 16) (b : Fin 16) : Statement (.crkShr d a b) := fun _ _ e => nomatch e
theorem crkClt (d : Fin 16) (a : Fin 16) (b : Fin 16) : Statement (.crkClt d a b) := fun _ _ e => nomatch e
theorem crkCeq (d : Fin 16) (a : Fin 16) (b : Fin 16) : Statement (.crkCeq d a b) := fun _ _ e => nomatch e
theorem crkBf (a : Fin 16) (off : Nat) : Statement (.crkBf a off) := fun _ _ e => nomatch e
theorem crkBnf (a : Fin 16) (off : Nat) : Statement (.crkBnf a off) := fun _ _ e => nomatch e
theorem crkScore (a : Fin 16) : Statement (.crkScore a) := fun _ _ e => nomatch e
theorem crkVerdict (v : Fin 4) : Statement (.crkVerdict v) := fun _ _ e => nomatch e
theorem crkHalt : Statement .crkHalt := fun _ _ e => nomatch e
theorem resultLand : Statement .resultLand := fun _ _ e => nomatch e
theorem randomWordDelivery : Statement .randomWordDelivery := fun _ _ e => nomatch e
theorem joinlimExpiry : Statement .joinlimExpiry := fun _ _ e => nomatch e
theorem threadCease : Statement .threadCease := fun _ _ e => nomatch e
theorem workgroupEnd : Statement .workgroupEnd := fun _ _ e => nomatch e
theorem nestedNotice : Statement .nestedNotice := fun _ _ e => nomatch e
theorem xfthreshNotice : Statement .xfthreshNotice := fun _ _ e => nomatch e
theorem flockAbort : Statement .flockAbort := fun _ _ e => nomatch e
theorem timeLimitExpiry : Statement .timeLimitExpiry := fun _ _ e => nomatch e
theorem poolFlushTimeout : Statement .poolFlushTimeout := fun _ _ e => nomatch e
theorem poolDrain : Statement .poolDrain := fun _ _ e => nomatch e
theorem matrixOpExecute : Statement .matrixOpExecute := fun _ _ e => nomatch e
theorem matrixOpComplete : Statement .matrixOpComplete := fun _ _ e => nomatch e
theorem tileCopyToScratchpad : Statement .tileCopyToScratchpad := fun _ _ e => nomatch e
theorem tileCopyToTensor : Statement .tileCopyToTensor := fun _ _ e => nomatch e
theorem tileCopyComplete : Statement .tileCopyComplete := fun _ _ e => nomatch e
theorem xformCopy : Statement .xformCopy := fun _ _ e => nomatch e
theorem xformCast : Statement .xformCast := fun _ _ e => nomatch e
theorem xformQuant : Statement .xformQuant := fun _ _ e => nomatch e
theorem xformDequant : Statement .xformDequant := fun _ _ e => nomatch e
theorem xformTrans : Statement .xformTrans := fun _ _ e => nomatch e
theorem xformPack : Statement .xformPack := fun _ _ e => nomatch e
theorem xformUnpack : Statement .xformUnpack := fun _ _ e => nomatch e
theorem xformGather : Statement .xformGather := fun _ _ e => nomatch e
theorem xformScatadd : Statement .xformScatadd := fun _ _ e => nomatch e
theorem xformMxin : Statement .xformMxin := fun _ _ e => nomatch e
theorem xformMxout : Statement .xformMxout := fun _ _ e => nomatch e
theorem transformTurn : Statement .transformTurn := fun _ _ e => nomatch e
theorem transformComplete : Statement .transformComplete := fun _ _ e => nomatch e
theorem poolemptyResume : Statement .poolemptyResume := fun _ _ e => nomatch e
theorem packedChainReclaim : Statement .packedChainReclaim := fun _ _ e => nomatch e
theorem logicalClockAdvance : Statement .logicalClockAdvance := fun _ _ e => nomatch e
theorem bulkCopy : Statement .bulkCopy := fun _ _ e => nomatch e
theorem bulkFill : Statement .bulkFill := fun _ _ e => nomatch e
theorem bulkSignal : Statement .bulkSignal := fun _ _ e => nomatch e
theorem bulkWait : Statement .bulkWait := fun _ _ e => nomatch e
theorem taskRun : Statement .taskRun := fun _ _ e => nomatch e
theorem taskPool : Statement .taskPool := fun _ _ e => nomatch e
theorem taskCopy : Statement .taskCopy := fun _ _ e => nomatch e
theorem taskXform : Statement .taskXform := fun _ _ e => nomatch e
theorem taskOffload : Statement .taskOffload := fun _ _ e => nomatch e
theorem taskRecall : Statement .taskRecall := fun _ _ e => nomatch e
theorem taskWait : Statement .taskWait := fun _ _ e => nomatch e
theorem taskSignal : Statement .taskSignal := fun _ _ e => nomatch e
theorem taskAlloc : Statement .taskAlloc := fun _ _ e => nomatch e
theorem taskFree : Statement .taskFree := fun _ _ e => nomatch e
theorem taskFence : Statement .taskFence := fun _ _ e => nomatch e
theorem taskRepeat : Statement .taskRepeat := fun _ _ e => nomatch e
theorem taskEndrep : Statement .taskEndrep := fun _ _ e => nomatch e
theorem taskMark : Statement .taskMark := fun _ _ e => nomatch e
theorem collRun : Statement .collRun := fun _ _ e => nomatch e
theorem collCreate : Statement .collCreate := fun _ _ e => nomatch e
theorem collDestroy : Statement .collDestroy := fun _ _ e => nomatch e
theorem copyForward : Statement .copyForward := fun _ _ e => nomatch e
theorem allocZeroFill : Statement .allocZeroFill := fun _ _ e => nomatch e
theorem taskEngineStreamComplete : Statement .taskEngineStreamComplete := fun _ _ e => nomatch e
theorem taskRetire : Statement .taskRetire := fun _ _ e => nomatch e
theorem taskFaultRecovery : Statement .taskFaultRecovery := fun _ _ e => nomatch e
theorem sqctlEnable : Statement .sqctlEnable := fun _ _ e => nomatch e
theorem sqctlResumeRetry : Statement .sqctlResumeRetry := fun _ _ e => nomatch e
theorem sqctlResumeSkip : Statement .sqctlResumeSkip := fun _ _ e => nomatch e
theorem sqwriteWrite : Statement .sqwriteWrite := fun _ _ e => nomatch e
theorem registerWrite : Statement .registerWrite := fun _ _ e => nomatch e
theorem tlbinvPage : Statement .tlbinvPage := fun _ _ e => nomatch e
theorem tlbinvAll : Statement .tlbinvAll := fun _ _ e => nomatch e
theorem tlbinvComplete : Statement .tlbinvComplete := fun _ _ e => nomatch e
theorem chkpush : Statement .chkpush := fun _ _ e => nomatch e
theorem btvalWrite : Statement .btvalWrite := fun _ _ e => nomatch e
theorem bqdescEnable : Statement .bqdescEnable := fun _ _ e => nomatch e
theorem bqdescDisable : Statement .bqdescDisable := fun _ _ e => nomatch e
theorem expbaseWrite : Statement .expbaseWrite := fun _ _ e => nomatch e
theorem crkctlLoad : Statement .crkctlLoad := fun _ _ e => nomatch e
theorem crkProgramActivate : Statement .crkProgramActivate := fun _ _ e => nomatch e
theorem faultcmdReplay : Statement .faultcmdReplay := fun _ _ e => nomatch e
theorem faultcmdCancel : Statement .faultcmdCancel := fun _ _ e => nomatch e
theorem haltres : Statement .haltres := fun _ _ e => nomatch e
theorem faultRingFree : Statement .faultRingFree := fun _ _ e => nomatch e
theorem dispatch : Statement .dispatch := fun _ _ e => nomatch e
theorem preempt : Statement .preempt := fun _ _ e => nomatch e
theorem faultDecision : Statement .faultDecision := fun _ _ e => nomatch e
theorem crkBudgetOverrun : Statement .crkBudgetOverrun := fun _ _ e => nomatch e
theorem sliceBoundary : Statement .sliceBoundary := fun _ _ e => nomatch e
theorem grantDeadline : Statement .grantDeadline := fun _ _ e => nomatch e
theorem foldAreaWrite : Statement .foldAreaWrite := fun _ _ e => nomatch e
theorem wholeDeviceReset : Statement .wholeDeviceReset := fun _ _ e => nomatch e
theorem partitionReset : Statement .partitionReset := fun _ _ e => nomatch e
theorem functionLevelReset : Statement .functionLevelReset := fun _ _ e => nomatch e
theorem partitionStart : Statement .partitionStart := fun _ _ e => nomatch e
theorem firmwareImageStart : Statement .firmwareImageStart := fun _ _ e => nomatch e
theorem firmwareNudge : Statement .firmwareNudge := fun _ _ e => nomatch e
theorem firmwareCoreRestart : Statement .firmwareCoreRestart := fun _ _ e => nomatch e
theorem bellWord : Statement .bellWord := fun _ _ e => nomatch e
theorem freezePin : Statement .freezePin := fun _ _ e => nomatch e
theorem freezeWrite : Statement .freezeWrite := fun _ _ e => nomatch e
theorem powerWindow : Statement .powerWindow := fun _ _ e => nomatch e
theorem mbResync : Statement .mbResync := fun _ _ e => nomatch e
theorem mbResume : Statement .mbResume := fun _ _ e => nomatch e
theorem mbKeygen : Statement .mbKeygen := fun _ _ e => nomatch e
theorem mbKeyassign : Statement .mbKeyassign := fun _ _ e => nomatch e
theorem mbKeyclear : Statement .mbKeyclear := fun _ _ e => nomatch e
theorem mbAttest : Statement .mbAttest := fun _ _ e => nomatch e
theorem mbPartcfg : Statement .mbPartcfg := fun _ _ e => nomatch e
theorem hostRead : Statement .hostRead := fun _ _ e => nomatch e
theorem hostWrite : Statement .hostWrite := fun _ _ e => nomatch e
theorem hostAtomicCompletion : Statement .hostAtomicCompletion := fun _ _ e => nomatch e
theorem peerAccess : Statement .peerAccess := fun _ _ e => nomatch e
theorem peerAccessTimeout : Statement .peerAccessTimeout := fun _ _ e => nomatch e
theorem uncorrFound : Statement .uncorrFound := fun _ _ e => nomatch e
theorem mctpReadout : Statement .mctpReadout := fun _ _ e => nomatch e
theorem mctpReadCertificate : Statement .mctpReadCertificate := fun _ _ e => nomatch e
theorem mctpWritePwrlim : Statement .mctpWritePwrlim := fun _ _ e => nomatch e
theorem collSend : Statement .collSend := fun _ _ e => nomatch e
theorem collRecv : Statement .collRecv := fun _ _ e => nomatch e
theorem collRrs : Statement .collRrs := fun _ _ e => nomatch e
theorem collLcopy : Statement .collLcopy := fun _ _ e => nomatch e
theorem collCwait : Statement .collCwait := fun _ _ e => nomatch e
theorem collArm : Statement .collArm := fun _ _ e => nomatch e
theorem collLoop : Statement .collLoop := fun _ _ e => nomatch e
theorem collEndl : Statement .collEndl := fun _ _ e => nomatch e
theorem collPeer : Statement .collPeer := fun _ _ e => nomatch e
theorem collCbar : Statement .collCbar := fun _ _ e => nomatch e
theorem collChunkSend : Statement .collChunkSend := fun _ _ e => nomatch e
theorem collChunkReceive : Statement .collChunkReceive := fun _ _ e => nomatch e
theorem collCreateComplete : Statement .collCreateComplete := fun _ _ e => nomatch e
theorem collRunComplete : Statement .collRunComplete := fun _ _ e => nomatch e
theorem collPeerAbort : Statement .collPeerAbort := fun _ _ e => nomatch e
theorem collPeerdown : Statement .collPeerdown := fun _ _ e => nomatch e
theorem illegalWord : Statement .illegalWord := fun _ _ e => nomatch e
theorem fetchBeyondCodeObject : Statement .fetchBeyondCodeObject := fun _ _ e => nomatch e
theorem illegalRecord : Statement .illegalRecord := fun _ _ e => nomatch e
theorem bulkQueueError : Statement .bulkQueueError := fun _ _ e => nomatch e
theorem illegalStep : Statement .illegalStep := fun _ _ e => nomatch e
theorem collCbarRelease : Statement .collCbarRelease := fun _ _ e => nomatch e
theorem loadStoreDomainJoin : Statement .loadStoreDomainJoin := fun _ _ e => nomatch e
theorem storageError : Statement .storageError := fun _ _ e => nomatch e

end Laws.Encoding
end Sys2Proof
end

