-- ==== Sys2Proof/Tests/Slice0.lean ====
section
/-! SUPPORT. Tests: ill-formed terms, words of the spec's own tables, steps on small states, and a witness for the hypotheses of each statement. -/
namespace Sys2Proof.Tests
open Sys2Proof Sys2Proof.Machine
set_option Elab.async false

/-! ## Ill-formed terms: one for each check of WellFormed -/

def bareH : Head := ⟨false, none⟩
def guardH : Head := ⟨false, some ⟨1, false⟩⟩
def sv (n : Fin 24) : Src := ⟨.v n, false⟩
def sw (n : Fin 8) : Src := ⟨.w n, false⟩

theorem test_wf_uniform : Instr.wf (.iadd bareH (.w 0) (sv 1) (sw 2)) = false ∧ Instr.wf (.iadd bareH (.w 0) (sw 1) (sw 2)) = true := by decide
theorem test_wf_third : Instr.wf (.ffma guardH (.v 5) (sv 6) (sv 7) (.v 9)) = false ∧ Instr.wf (.ffma guardH (.v 5) (sv 6) (sv 7) (.v 5)) = true := by decide
theorem test_wf_signed : Instr.wf (.addi bareH (.v 0) (.v 1) 4096) = false ∧ Instr.wf (.addi bareH (.v 0) (.v 1) (-4096)) = true ∧
    Instr.wf (.addi guardH (.v 0) (.v 1) 128) = false := by decide
theorem test_wf_zero_extended : Instr.wf (.andi bareH (.v 0) (.v 1) (-1)) = false ∧ Instr.wf (.andi bareH (.v 0) (.v 1) 8191) = true ∧
    Instr.wf (.andi guardH (.v 0) (.v 1) 256) = false := by decide
theorem test_wf_mask : Instr.wf (.fence bareH 0) = false ∧ Instr.wf (.fence bareH 32) = false ∧ Instr.wf (.fence bareH 31) = true := by decide
theorem test_wf_pair : Instr.wf (.ldd bareH 0 (.v 4) (.v 5) 0) = false ∧ Instr.wf (.ldd bareH 0 (.v 5) (.v 6) 0) = false := by decide
theorem test_wf_four : Instr.wf (.ldq bareH 0 (.v 6) (.v 2) 0) = false ∧ Instr.wf (.ldq bareH 0 (.v 8) (.v 2) 0) = true ∧
    Instr.wf (.stq bareH false (.v 2) 0 (.v 2)) = false := by decide
theorem test_wf_matrix_pair : Instr.wf (.mma bareH false false 0 (sw 1) (sw 2)) = false ∧ Instr.wf (.mma bareH false false 0 (sv 0) (sw 2)) = false := by decide
theorem test_wf_gang : Instr.wf (.gang bareH (sv 2)) = false ∧ Instr.wf (.gang bareH (sw 2)) = true := by decide
theorem test_wf_selectors : Instr.wf (.movs bareH 28 (.v 0)) = false ∧ Instr.wf (.movcRead bareH 6 (.v 0)) = false ∧ Instr.wf (.qpop bareH 0 (.v 0)) = false ∧
    Instr.wf (.cvt bareH 24 (.v 0) (sv 0)) = false ∧ Instr.wf (.cvt bareH 8 (.v 0) (sv 1)) = false ∧ Instr.wf (.funpk bareH 20 (.v 0) (sv 0)) = false := by decide
theorem test_wf_random_bits : Instr.wf (.cvtsr false 0 false (.v 0) (sv 0)) = false ∧ Instr.wf (.cvtsr false 25 false (.v 0) (sv 0)) = false ∧
    Instr.wf (.mstoresr false 25 false 0 (sw 0)) = false := by decide
theorem test_wf_offset : Instr.wf (.bra bareH 4194304) = false ∧ Instr.wf (.bra guardH 131072) = false ∧ Instr.wf (.ldw bareH 0 (.v 1) (.v 2) 1024) = false ∧
    Instr.wf (.icmpi bareH false 0 0 (.v 1) 16) = false ∧ Instr.wf (.movi bareH (.v 0) 131072) = false := by decide
theorem test_wf_crook : Instr.wf (.crkBf 0 0) = false ∧ Instr.wf (.crkBf 0 127) = true ∧ Instr.wf (.crkLdi 0 16384) = false := by decide
theorem test_wf_engine_pairs : Instr.wf (.xform bareH (sv 1) (sv 2)) = false ∧ Instr.wf (.tlwait bareH (.v 5) (sv 4)) = false ∧ Instr.wf (.post bareH (sv 4) (sv 5)) = false ∧
    Instr.wf (.cas bareH (.v 1) (sv 3) (sv 4) (.v 5)) = false ∧ Instr.wf (.iadd64 bareH (.v 1) (sv 2) (sv 4)) = false := by decide

/-! ## Words that the spec writes out (01, 02, 04, 06, 08, 10, 12, 13, 14, 15, 21) -/

/-- A word decodes to an instruction, and the instruction encodes to the word. -/
def WordIs (w : Nat) (i : Instr) : Prop := decodeWord w 0 = some i ∧ encodeWord i = some w
def chainH : Head := ⟨true, none⟩
def onG (g : Fin 16) : Head := ⟨false, some ⟨g, false⟩⟩

theorem test_decode_integer : WordIs 0x0004C218 (.iadd bareH (.v 6) (sv 2) (sv 3)) ∧ WordIs 0x28502218 (.sel false 4 true (.v 1) (sv 2) (sv 3)) ∧
    WordIs 0x06588640 (.lea64 false 3 (.v 4) (sv 6) (sv 8)) ∧ WordIs 0x26588640 (.lea64s false 3 (.v 4) (sv 6) (sv 8)) ∧
    WordIs 0xBE60C6FF (.addi chainH (.v 6) (.v 6) (-1)) ∧ WordIs 0x0260A000 (.addi bareH (.v 5) (.v 0) 256) ∧ WordIs 0x3E80BFFF (.movi bareH (.v 5) (-1)) ∧
    WordIs 0x00742001 (.shri bareH (.v 1) (.v 0) 1) ∧ WordIs 0xC4604201 (.addi ⟨true, some ⟨1, false⟩⟩ (.v 2) (.v 2) 1) := by unfold WordIs; decide
theorem test_decode_literal : decodeWord 0x00852000 0x0000000D = some (.movl bareH (.v 9) 13) ∧ encodeWord (.movl bareH (.v 9) 13) = some 0x00852000 ∧
    decodeWord 0x00846000 0x40490FDB = some (.movl bareH (.v 3) 0x40490FDB) := by decide
theorem test_decode_compares : WordIs 0x0088221A (.icmp bareH false 1 2 (.v 2) (.v 3)) ∧ WordIs 0x008A221A (.icmp bareH true 1 2 (.v 2) (.v 3)) ∧
    WordIs 0x808C2252 (.icmpi chainH false 1 2 (.v 2) 10) ∧ WordIs 0x009448E0 (.plop bareH 1 2 3 8) := by unfold WordIs; decide
theorem test_decode_floats : WordIs 0x00A0E414 (.fadd bareH (.v 7) ⟨.v 4, true⟩ (sv 2)) ∧ WordIs 0x00A84108 (.fmul bareH (.v 2) (sv 1) (sv 1)) ∧
    WordIs 0x12ACA638 (.ffma bareH (.v 5) (sv 6) (sv 7) (.v 9)) ∧ WordIs 0x48ACA638 (.ffma (onG 2) (.v 5) (sv 6) (sv 7) (.v 5)) ∧
    WordIs 0x00D10300 (.rcp bareH (.v 8) (sv 3)) ∧ WordIs 0x00D46258 (.cvt bareH 11 (.v 3) (sv 2)) ∧
    WordIs 0x30DA3100 (.cvtsr false 24 false (.v 17) (sv 17)) ∧ WordIs 0x00BD4849 (.hadd2 bareH true (.v 10) (sv 8) (sv 9)) := by unfold WordIs; decide
theorem test_decode_control : WordIs 0x4503FFFC (.bra (onG 1) (-4)) ∧ WordIs 0x3F0BFFFA (.call bareH (-6)) ∧ WordIs 0x01100000 (.join bareH) ∧ WordIs 0x01140000 (.yield bareH) ∧
    WordIs 0x7D180000 (.exit (onG 15)) ∧ WordIs 0x011C0005 (.trap bareH 5) ∧ WordIs 0x01200000 (.tret bareH) ∧ WordIs 0x01240001 (.bkpt bareH 1) ∧
    WordIs 0x01280000 (.nop bareH) := by unfold WordIs; decide
theorem test_decode_specials : WordIs 0x012C0008 (.movs bareH 1 (.v 0)) ∧ WordIs 0x01308008 (.movcRead bareH 1 (.v 4)) ∧ WordIs 0x01300409 (.movcWrite bareH 1 (sv 4)) ∧
    WordIs 0x01300901 (.movcWrite bareH 0 (sv 9)) := by unfold WordIs; decide
theorem test_decode_memory : WordIs 0x81508000 (.ldw chainH 0 (.v 4) (.v 0) 0) ∧ WordIs 0x8150A608 (.ldw chainH 0 (.v 5) (.v 6) 2) ∧ WordIs 0x01648608 (.stw bareH false (.v 6) 2 (.v 4)) ∧
    WordIs 0x01508641 (.ldw bareH 1 (.v 4) (.v 6) 16) ∧ WordIs 0x01648641 (.stw bareH true (.v 6) 16 (.v 4)) ∧ WordIs 0x01590202 (.ldq bareH 2 (.v 8) (.v 2) 0) ∧
    WordIs 0x01545800 (.ldd bareH 0 (.v 2) (.w 0) 0) ∧ WordIs 0x01706430 (.atomiAdd bareH (.v 3) (.v 4) (.v 6)) ∧ WordIs 0x01742220 (.atomfFadd bareH (.v 1) (.v 2) (.v 4)) ∧
    WordIs 0x0B782220 (.cas bareH (.v 1) (sv 2) (sv 4) (.v 5)) := by unfold WordIs; decide
theorem test_decode_parallel : WordIs 0x01340002 (.brdq bareH 2) ∧ WordIs 0x01380400 (.dqpush bareH (sv 4)) ∧ WordIs 0x01A86140 (.wredFadd bareH (.v 3) (sv 1)) ∧
    WordIs 0x01AC0001 (.hurdleF bareH 0) := by unfold WordIs; decide
theorem test_decode_matrix : WordIs 0x01C01A00 (.gang bareH (sw 2)) ∧ WordIs 0x01CC78D0 (.mma bareH false false 3 (sw 0) (sw 2)) ∧
    WordIs 0x01CD1CF1 (.mma bareH true true 0 (sw 4) (sw 6)) ∧ WordIs 0x01D038D0 (.mlut bareH false false 1 (sw 0) (sw 2)) ∧ WordIs 0x01D44000 (.mzero bareH false 2) ∧
    WordIs 0x01D45808 (.mload bareH false false 2 (sw 0)) ∧ WordIs 0x01D45811 (.mstore bareH true false 2 (sw 0)) ∧
    WordIs 0x4DD41C11 (.mstore (onG 3) true false 0 (sw 4)) := by unfold WordIs; decide
theorem test_decode_engines : WordIs 0x01D818D0 (.xform bareH (sw 0) (sw 2)) ∧ WordIs 0x01DC0430 (.post bareH (sv 4) (sv 6)) ∧ WordIs 0x01E0C400 (.tlwait bareH (.v 6) (sv 4)) ∧
    WordIs 0x01E0C408 (.tlread bareH (.v 6) (sv 4)) ∧ WordIs 0x01E40500 (.bwaitFull bareH (sv 5)) ∧ WordIs 0x01E40508 (.bwaitFree bareH (sv 5)) ∧
    WordIs 0x01E46510 (.bstate bareH (.v 3) (sv 5)) ∧ WordIs 0x01E40518 (.brel bareH (sv 5)) ∧ WordIs 0x01E86400 (.boinit bareH (.v 3) (sv 4)) ∧
    WordIs 0x01E86408 (.boarr bareH (.v 3) (sv 4)) ∧ WordIs 0x01E86410 (.boexp bareH (.v 3) (sv 4)) ∧ WordIs 0x01E86418 (.botest bareH (.v 3) (sv 4)) ∧
    WordIs 0x01E80420 (.bowait bareH (sv 4)) := by unfold WordIs; decide
/-- 02, the table of words that are not instructions. -/
theorem test_decode_illegal : decodeWord 0x00000000 0 = none ∧ decodeWord 0xFFFFFFFF 0 = none ∧ decodeWord 0x000701D0 0 = none ∧ decodeWord 0x01548500 0 = none := by decide
/-- R355: the operation is bits 31-27, D 26-23, A 22-19, B 18-15 and the immediate below; no operation is 0. -/
theorem test_decode_crook : encodeCrook (.crkAdd 1 2 3) = some (4 * 2 ^ 27 + 1 * 2 ^ 23 + 2 * 2 ^ 19 + 3 * 2 ^ 15) ∧
    decodeCrook (4 * 2 ^ 27 + 1 * 2 ^ 23 + 2 * 2 ^ 19 + 3 * 2 ^ 15) = some (.crkAdd 1 2 3) ∧ decodeCrook (1 * 2 ^ 27 + 3 * 2 ^ 23 + 5) = some (.crkLdf 3 5) ∧
    decodeCrook (0x13 * 2 ^ 27) = some .crkHalt ∧ decodeCrook 0 = none ∧ decodeCrook (0x0F * 2 ^ 27) = none := by decide

/-! ## Small states -/

/-- A warp of n new threads. -/
def tWarp (n : Nat) : Warp := Warp.new benchLaunch (List.replicate n Thread.new) 0
/-- A warp of two threads whose registers v1, v2 and v3 hold given words. -/
def valWarp (a b c : Word) : Warp :=
  { tWarp 0 with threads := List.replicate 2 { Thread.new with v := (((Vector.replicate 24 (0 : Word)).set 1 a).set 2 b).set 3 c } }
/-- A workgroup with one warp, and a herder of the same registers. -/
def tWg (w : Warp) : Workgroup := { newWorkgroup benchLaunch 0 0 benchCore [0] [] with warps := [w], herder := some w }
/-- A flock of one workgroup. -/
def tFlock (wg : Workgroup) : Flock := { benchFlock with wgs := [wg] }
/-- A chain of one word at word 0, issued by some lanes of unit u. -/
def tIssue (w : Warp) (u : Nat) (lanes : List Nat) : Issue := Issue.start 0 0 u lanes 0 1 w
/-- A state in which unit u of the one workgroup issues a word for some lanes. -/
def tState (w : Warp) (u : Nat) (lanes : List Nat) : State := { State.reset with flocks := [tFlock (tWg w)], issue := some (tIssue w u lanes) }

/-- Whether the registers of a warp's lanes are all full. -/
def fullB (w : Warp) (lanes : List Nat) : Bool := w.wfull == BitVec.allOnes 8 && lanes.all fun l => (w.thread l).full == BitVec.allOnes 24
theorem isFull_of_fullB {w : Warp} {lanes : List Nat} (h : fullB w lanes = true) {l : Nat} (hl : l ∈ lanes) (r : Reg) : w.isFull l r = true := by
  simp only [fullB, Bool.and_eq_true, beq_iff_eq, List.all_eq_true] at h
  cases r with
  | v n => simp only [Warp.isFull, h.2 l hl]; revert n; decide
  | w n => simp only [Warp.isFull, h.1]; revert n; decide
/-- A word whose threads have every register full is ready, whatever it reads and writes. -/
theorem readers_of {c : Issue} (gone : c.gone = []) (h : Head) : c.readers h = c.exec h := by simp [Issue.readers, Issue.exec, Issue.group, gone]
theorem ready_of {s : State} {c : Issue} {w : Warp} {h : Head} (uses : List Use) (dests : List Reg) (issue : s.issue = some c) (snap : c.snap = w)
    (unit : s.unit? c.f c.m c.u = some w) (bad : s.bad = []) (nodup : c.lanes.Nodup) (executes : c.exec h ≠ []) (full : fullB w c.lanes = true)
    (gone : c.gone = [] := by rfl) : Ready s c h uses dests := by
  have mem : ∀ l ∈ c.exec h, l ∈ c.lanes := fun l hl => (List.mem_filter.mp hl).1
  refine ⟨issue, nodup, executes, fun l hl u _ => ?_, fun l hl r _ => ?_, fun v hv l hl r _ => ?_, fun l _ => ?_⟩
  · simp only [Issue.emptyUse, snap, List.any_eq_false, Bool.not_eq_true, Bool.not_eq_false']
    intro r _; exact isFull_of_fullB full (mem l (readers_of gone h ▸ hl)) r
  · rw [snap]; exact isFull_of_fullB full (mem l (readers_of gone h ▸ hl)) r
  · rw [unit] at hv; cases hv; exact isFull_of_fullB full (mem l hl) r
  · simp [State.badReg, bad]
/-- As ready_of, for a word that reads one thread's sources. -/
theorem readyAt_of {s : State} {c : Issue} {w : Warp} {h : Head} (uses : List Use) (reader : List Nat → Nat) (dests : List Reg) (issue : s.issue = some c)
    (snap : c.snap = w) (unit : s.unit? c.f c.m c.u = some w) (bad : s.bad = []) (nodup : c.lanes.Nodup) (executes : c.exec h ≠ [])
    (rd : reader (c.exec h) ∈ c.exec h) (full : fullB w c.lanes = true) (gone : c.gone = [] := by rfl) : ReadyAt s c h uses reader dests := by
  have r := ready_of (h := h) uses dests issue snap unit bad nodup executes full gone
  rw [← readers_of gone h] at rd
  exact ⟨issue, nodup, executes, fun u hu => r.sources _ rd u hu, r.room, r.now, r.sound _ rd⟩

def lit : State := tState (tWarp 3) 0 [0, 1]
def litC : Issue := tIssue (tWarp 3) 0 [0, 1]
/-- The hypotheses of every statement that asks only for a ready word, whatever it reads and writes: IntegerTwoSource, ThirdSourcesSelectAndPairs,
IntegerOneSourceAndMov, IntegerImmediate, ComparesAndGuards, ControlTransfer, SpecialRegisters, ControlRegisters, FloatArithmetic, PackedArithmetic,
FunctionWords, Conversions, WarpQueriesAndShuffles and WarpReductions. -/
theorem witness_ready (uses : List Use) (dests : List Reg) : Ready lit litC bareH uses dests :=
  ready_of uses dests rfl rfl rfl rfl (by decide) (by decide) (by decide)
theorem witness_readyAt_lowest (uses : List Use) (dests : List Reg) : ReadyAt lit litC bareH uses lowest dests :=
  readyAt_of uses lowest dests rfl rfl rfl rfl (by decide) (by decide) (by decide) (by decide)
theorem witness_readyAt_highest (uses : List Use) (dests : List Reg) : ReadyAt lit litC bareH uses highest dests :=
  readyAt_of uses highest dests rfl rfl rfl rfl (by decide) (by decide) (by decide) (by decide)
/-- A herder's word is ready. -/
theorem witness_ready_herder (uses : List Use) (dests : List Reg) : Ready (tState (tWarp 1) 32 [0]) (tIssue (tWarp 1) 32 [0]) bareH uses dests :=
  ready_of uses dests rfl rfl rfl rfl (by decide) (by decide) (by decide)

/-- The register that a step leaves, of lane 0 of the first warp. -/
def regAfter (o : Outcome) (l : Nat) (r : Reg) : Option (Word × Bool) := match o with | .next t => t.reg? 0 0 0 l r | _ => none
/-- The guards that a step leaves. -/
def guardsAfter (o : Outcome) (l : Nat) : Option (BitVec 16) := match o with | .next t => (t.thread? 0 0 0 l).map fun q => q.g | _ => none
/-- A word run on v1 = a, v2 = b, v3 = c by lane 0, and what it writes to v4. -/
def runs (i : Instr) (a b c : Word) : Option (Word × Bool) := regAfter (Sys2Proof.Machine.exec i (tState (valWarp a b c) 0 [0])) 0 (.v 4)

/-! ## Integer and guard words -/

theorem test_iadd_wraps : runs (.iadd bareH (.v 4) (sv 1) (sv 2)) 0xFFFFFFFF 2 0 = some (1, true) := by decide +kernel
theorem test_isub_wraps : runs (.isub bareH (.v 4) (sv 1) (sv 2)) 1 2 0 = some (0xFFFFFFFF, true) := by decide +kernel
theorem test_imulh_signs : runs (.imulh bareH false (.v 4) (sv 1) (sv 2)) 0xFFFFFFFF 2 0 = some (0xFFFFFFFF, true) ∧
    runs (.imulh bareH true (.v 4) (sv 1) (sv 2)) 0xFFFFFFFF 2 0 = some (1, true) := by decide +kernel
theorem test_imin_signed : runs (.imin bareH false (.v 4) (sv 1) (sv 2)) 0x80000000 1 0 = some (0x80000000, true) ∧
    runs (.imin bareH true (.v 4) (sv 1) (sv 2)) 0x80000000 1 0 = some (1, true) := by decide +kernel
theorem test_imax_signed : runs (.imax bareH false (.v 4) (sv 1) (sv 2)) 0x80000000 1 0 = some (1, true) := by decide +kernel
/-- R104: a count of 32 or more. -/
theorem test_shift_by_32 : runs (.shl bareH (.v 4) (sv 1) (sv 2)) 1 32 0 = some (0, true) ∧ runs (.shr bareH (.v 4) (sv 1) (sv 2)) 0x80000000 32 0 = some (0, true) ∧
    runs (.sar bareH (.v 4) (sv 1) (sv 2)) 0x80000000 0xFFFFFFFF 0 = some (0xFFFFFFFF, true) := by decide +kernel
theorem test_rotl : runs (.rotl bareH (.v 4) (sv 1) (sv 2)) 0x80000001 33 0 = some (3, true) := by decide +kernel
theorem test_fshr : runs (.fshr bareH (.v 4) (sv 1) (sv 2) (.v 3)) 0x12345678 0xABCDEF01 8 = some (0x01123456, true) := by decide +kernel
theorem test_bfe_sign : runs (.bfe bareH true (.v 4) (sv 1) (sv 2)) 0xF0 0x0404 0 = some (0xFFFFFFFF, true) ∧ runs (.bfe bareH false (.v 4) (sv 1) (sv 2)) 0xF0 0x0404 0 = some (15, true) := by
  decide +kernel
theorem test_bfi : runs (.bfi bareH (.v 4) (sv 1) (sv 2) (.v 3)) 0xF 0x0408 0xFFFF0000 = some (0xFFFF0F00, true) := by decide +kernel
/-- 04, after R105: the worked BSHUF. -/
theorem test_bshuf : runs (.bshuf bareH (.v 4) (sv 1) (sv 2) (.v 3)) 0x44332211 0x88776655 0x00002977 = some (0x55660088, true) := by decide +kernel
theorem test_iabs_minimum : runs (.iabs bareH (.v 4) (sv 1)) 0x80000000 0 0 = some (0x80000000, true) ∧ runs (.ineg bareH (.v 4) (sv 1)) 0x80000000 0 0 = some (0x80000000, true) := by
  decide +kernel
theorem test_clz_of_0 : runs (.clz bareH (.v 4) (sv 1)) 0 0 0 = some (32, true) ∧ runs (.ctz bareH (.v 4) (sv 1)) 0 0 0 = some (32, true) ∧ runs (.ctz bareH (.v 4) (sv 1)) 8 0 0 = some (3, true) := by
  decide +kernel
theorem test_brev_popc : runs (.brev bareH (.v 4) (sv 1)) 1 0 0 = some (0x80000000, true) ∧ runs (.popc bareH (.v 4) (sv 1)) 0xF0F0 0 0 = some (8, true) := by decide +kernel
theorem test_andi_extends_zero : runs (.andi bareH (.v 4) (.v 1) 8191) 0xFFFFFFFF 0 0 = some (8191, true) ∧ runs (.addi bareH (.v 4) (.v 1) (-1)) 0 0 0 = some (0xFFFFFFFF, true) := by
  decide +kernel
/-- R107: the pair carries. -/
theorem test_iadd64_carries : regAfter (Sys2Proof.Machine.exec (.iadd64 bareH (.v 4) (sv 2) (sv 2)) (tState (valWarp 0 0x80000000 1) 0 [0])) 0 (.v 5) = some (3, true) ∧
    runs (.iadd64 bareH (.v 4) (sv 2) (sv 2)) 0 0x80000000 1 = some (0, true) := by decide +kernel
theorem test_sel : runs (.sel false 4 true (.v 4) (sv 1) (sv 2)) 5 6 0 = some (5, true) ∧ runs (.sel false 4 false (.v 4) (sv 1) (sv 2)) 5 6 0 = some (6, true) := by decide +kernel
/-- R111: ICMPI.LTU with #-1 compares against 0xFFFFFFFF. -/
theorem test_icmpi_ltu : guardsAfter (Sys2Proof.Machine.exec (.icmpi bareH false 3 6 (.v 1) (-1)) (tState (valWarp 7 0 0) 0 [0])) 0 = some 8 := by decide +kernel
/-- R111: FCMP takes -0 as equal to +0; a NaN is unordered. -/
theorem test_fcmp : guardsAfter (Sys2Proof.Machine.exec (.fcmp bareH false 0 0 (.v 1) (.v 2)) (tState (valWarp 0x80000000 0 0) 0 [0])) 0 = some 1 ∧
    guardsAfter (Sys2Proof.Machine.exec (.fcmp bareH false 0 1 (.v 1) (.v 2)) (tState (valWarp 0x7FC00000 0 0) 0 [0])) 0 = some 0 := by decide +kernel
theorem test_plop_nor : guardsAfter (Sys2Proof.Machine.exec (.plop bareH 1 2 3 1) (tState (valWarp 0 0 0) 0 [0])) 0 = some 2 := by decide +kernel
theorem test_pmov : guardsAfter (Sys2Proof.Machine.exec (.pmov bareH (.v 4) (sv 1) (sv 2)) (tState (valWarp 0xFFFF 0x00F0 0) 0 [0])) 0 = some 0xF0 := by decide +kernel
/-- R23: a thread that fails its guard writes nothing. -/
theorem test_guard_fails : runs (.iadd (onG 1) (.v 4) (sv 1) (sv 2)) 1 2 0 = some (0, true) := by decide +kernel

/-! ## Control words -/

/-- A warp whose two lanes are held since cycle 0 at a JOIN, and one that is not. -/
def joinWarp (k : BitVec 16) : Warp :=
  { tWarp 0 with threads := [{ Thread.new with hold := .join 0 }, { Thread.new with hold := .join 0 }, Thread.new], joinlim := k }
theorem witness_join_passes : Ready (tState (joinWarp 0) 0 [0]) (tIssue (joinWarp 0) 0 [0]) bareH [] [] ∧ (tIssue (joinWarp 0) 0 [0]).snap.joinlim = 0 ∧
    (∀ l ∈ (tIssue (tWarp 2) 0 [0, 1]).awaited, l ∈ [0, 1]) ∧
    (∃ l ∈ [0, 1], ∃ k, ((tIssue (joinWarp 256) 0 [0, 1]).snap.thread l).hold = .join k ∧ (256 : BitVec 16).toNat ≤ { tState (joinWarp 256) 0 [0, 1] with cycle := 256 }.cycle - k) :=
  ⟨ready_of _ _ rfl rfl rfl rfl (by decide) (by decide) (by decide), rfl, by decide, ⟨0, by decide, 0, rfl, by decide⟩⟩
theorem witness_join_holds : Ready lit litC bareH [] [] ∧ litC.u ≠ 32 ∧ (∃ l ∈ litC.awaited, l ∉ litC.lanes) ∧ litC.snap.joinlim ≠ 0 ∧
    (∀ l ∈ litC.lanes, (litC.snap.thread l).hold ≠ .joinPast) ∧ (∀ l ∈ litC.lanes, ∀ k, (litC.snap.thread l).hold = .join k → lit.cycle - k < litC.snap.joinlim.toNat) :=
  ⟨witness_ready _ _, by decide, ⟨2, by decide⟩, by decide, by decide, fun l hl k h => absurd h ((by decide : ∀ l ∈ litC.lanes, ∀ k < 1, (litC.snap.thread l).hold ≠ .join k ∧ (litC.snap.thread l).hold = .none) l hl 0 (by decide) |>.2 ▸ nofun)⟩
theorem witness_wsync : (∀ l ∈ (tIssue (tWarp 2) 0 [0, 1]).awaited, l ∈ (tIssue (tWarp 2) 0 [0, 1]).lanes ∨ ((tWarp 2).thread l).hold = .wsync) ∧
    (∃ l ∈ litC.awaited, l ∉ litC.lanes ∧ (litC.snap.thread l).hold ≠ .wsync) ∧ (∀ l ∈ litC.lanes, (litC.snap.thread l).hold ≠ .wsyncPast) :=
  ⟨by decide, ⟨2, by decide⟩, by decide⟩
theorem witness_effects_at_the_end : (tState (tWarp 2) 0 [0]).thread? 0 0 0 0 = some Thread.new ∧ (tState (tWarp 2) 0 [0]).unit? 0 0 0 = some (tWarp 2) := ⟨rfl, rfl⟩
theorem witness_effects_put_off : Ready lit litC bareH [] [] ∧ (∃ l, lit.launchOf litC.f = some l) ∧ litC.u ≠ 32 ∧ litC.snap.progress = true :=
  ⟨witness_ready _ _, ⟨_, rfl⟩, by decide, by decide⟩
theorem witness_special_registers : Ready lit litC bareH [] [.v 4] ∧ (27 : Nat) < 28 ∧ (∃ fl, lit.flock? litC.f = some fl) ∧ ∃ wg, lit.wg? litC.f litC.m = some wg :=
  ⟨witness_ready _ _, by decide, ⟨_, rfl⟩, ⟨_, rfl⟩⟩
/-- R22: a branch target of -1 raises PROTFAULT with base + 4 · target, and 2^24 - 1 does not. -/
theorem test_branch_range : (match Sys2Proof.Machine.exec (.bra bareH (-1)) (tState (tWarp 2) 0 [0]) with | .next t => t.issue.map fun c => c.traps | _ => none) =
      some [(0, 0x06, 0xFFFFFFFFFFFFFFFC)] ∧
    (match Sys2Proof.Machine.exec (.brx bareH (sv 1)) (tState (valWarp 0xFFFFFF 0 0) 0 [0]) with | .next t => (t.thread? 0 0 0 0).map fun q => q.pc | _ => none) = some 0xFFFFFF := by
  decide +kernel
/-- R18, R134: a 1 clears a sticky bit; FAIRNESS is at least 64. -/
theorem test_movc_write : (match Sys2Proof.Machine.exec (.movcWrite bareH 1 (sv 1)) (tState { tWarp 0 with threads := [{ Thread.new with trapen := 0x30004, v := Vector.replicate 24 0x10002 }] } 0 [0]) with
      | .next t => (t.thread? 0 0 0 0).map fun q => q.trapen | _ => none) = some 0x20002 ∧
    (match Sys2Proof.Machine.exec (.movcWrite bareH 2 (sv 1)) (tState (valWarp 3 0 0) 0 [0]) with | .next t => (t.unit? 0 0 0).map fun w => w.fairness | _ => none) = some 64 := by
  decide +kernel
/-- R132, number 24. -/
theorem test_movs_contractcap : runs (.movs bareH 24 (.v 4)) 0 0 0 = some (0x2A956, true) := by decide +kernel
/-- R165, R129. -/
theorem test_prog_and_exit : (match Sys2Proof.Machine.exec (.prog bareH (sv 1)) (tState (valWarp 2 0 0) 0 [0, 1]) with | .next t => (t.unit? 0 0 0).map fun w => w.progress | _ => none) = some false ∧
    (match Sys2Proof.Machine.exec (.exit bareH) (tState (tWarp 2) 0 [1]) with | .next t => t.issue.map fun c => c.deferred | _ => none) = some [.exit 1] := by decide +kernel

/-! ## Floating point -/

/-- 04, the worked program: 2^100 squared overflows; contract 8 gives infinity. -/
theorem test_fmul_overflow : runs (.fmul bareH (.v 4) (sv 1) (sv 2)) 0x71800000 0x71800000 0 = some (0x7F800000, true) := by decide +kernel
theorem test_fadd_ties : runs (.fadd bareH (.v 4) (sv 1) (sv 2)) 0x4B800000 0x3F800000 0 = some (0x4B800000, true) := by decide +kernel
/-- R114: one rounding. (1 + 2^-12)^2 - 1 keeps its low bit. -/
theorem test_ffma_rounds_once : runs (.ffma bareH (.v 4) (sv 1) (sv 2) (.v 3)) 0x3F800800 0x3F800800 0xBF800000 = some (0x3A000400, true) := by decide +kernel
theorem test_fsub_infinities : runs (.fsub bareH (.v 4) (sv 1) (sv 2)) 0x7F800000 0x7F800000 0 = some (0x7FC00000, true) := by decide +kernel
/-- R115: -0 is below +0. -/
theorem test_fmin_signs : runs (.fmin bareH (.v 4) (sv 1) (sv 2)) 0 0x80000000 0 = some (0x80000000, true) ∧ runs (.fmax bareH (.v 4) (sv 1) (sv 2)) 0x7FC00000 1 0 = some (1, true) := by
  decide +kernel
/-- 21: HADD2.BF of the worked words under contract 8. -/
theorem test_hadd2_lanes : runs (.hadd2 bareH true (.v 4) (sv 1) (sv 2)) 0x3F803F80 0x40003F80 0 = some (0x40404000, true) := by decide +kernel
/-- The landing that a pipe-F word leaves: its words. -/
def flown (i : Instr) (a b : Word) : Option (List Word) :=
  match Sys2Proof.Machine.exec i (tState (valWarp a b 0) 0 [0]) with | .next t => t.landings.head?.map fun l => l.vals | _ => none
/-- R116: -0.25 to nearest even is -0. -/
theorem test_frnd_keeps_sign : flown (.frndNe bareH (.v 4) (sv 1)) 0xBE800000 0 = some [0x80000000] ∧ flown (.frndFl bareH (.v 4) (sv 1)) 0xBE800000 0 = some [0xBF800000] := by decide +kernel
/-- 04, the worked program: the largest finite FP32 overflows BF16. -/
theorem test_cvt_bf16 : flown (.cvt bareH 11 (.v 4) (sv 1)) 0x7F7FFFFF 0 = some [0x7F80] ∧ flown (.cvt bareH 2 (.v 4) (sv 1)) 0x4F000000 0 = some [0x7FFFFFFF] := by decide +kernel
/-- 04, the worked QEXP and QCVT. -/
theorem test_qexp : flown (.qexp bareH (.v 4) (sv 1) (sv 2)) 0x43960000 0x7F = some [0] ∧ flown (.qexp bareH (.v 4) (sv 1) (sv 2)) 0x49800000 0x27F = some [0x10E] := by decide +kernel
theorem test_qcvt : flown (.qcvt bareH (.v 4) (sv 1) (sv 2)) 0x43960000 0x7F = some [0x79] ∧ flown (.qcvt bareH (.v 4) (sv 1) (sv 2)) 0xC0600000 0x0080037E = some [0x79] := by decide +kernel
theorem test_rcp_of_0 : flown (.rcp bareH (.v 4) (sv 1)) 0x80000000 0 = some [0xFF800000] ∧ flown (.rcp bareH (.v 4) (sv 1)) 0x40000000 0 = some [0x3F000000] := by decide +kernel
theorem test_sqrt : flown (.sqrt bareH (.v 4) (sv 1)) 0x40800000 0 = some [0x40000000] := by decide +kernel

theorem witness_deliver : lit.issue = some litC ∧ (⟨[5], true, true, false⟩ : Out).vals = [5] ∧ (∀ w, lit.unit? litC.f litC.m litC.u = some w → w.isFull (lowest [0, 1]) (.v 4) = true) := by
  refine ⟨rfl, rfl, fun w hw => ?_⟩
  have h : lit.unit? litC.f litC.m litC.u = some (tWarp 3) := rfl
  rw [h] at hw; cases hw; decide
theorem witness_reciprocal : (contractOf 8).rev = 3 ∧ (3 : Nat) ≠ 0 := by decide
theorem witness_function_negative : (1 : Nat) ≠ 0 ∧ belowNormal .fp32 1 0 = false := by decide
theorem witness_exact : Val.isFin (.fin true 3 (-2)) = true ∧ Val.isFin (.fin false 0 0) = true := by decide
theorem witness_rounding : 0 < 1 := by decide
theorem witness_fp32_round_trip : f32 0x7F800000 ≠ .nan := by decide
/-- CVTSR: a format that contract 1 does not admit, one that contract 8 admits, and threads whose enables are 0. -/
theorem witness_stochastic : Ready lit litC ⟨false, none⟩ [one (sv 1)] [.v 4] ∧ admitsNarrow 1 = false ∧ admitsNarrow (lit.contractNo litC.f) = true ∧
    (∀ l ∈ litC.exec ⟨false, none⟩, (litC.snap.thread l).trapen.getLsbD 0 = false ∧ (litC.snap.thread l).trapen.getLsbD 1 = false) :=
  ⟨witness_ready _ _, by decide, by decide, by decide⟩
theorem witness_random_words : (∃ fl, lit.flock? 0 = some fl ∧ fl.launch.contract ≠ 0) ∧ (∃ wg, lit.wg? 0 0 = some wg) ∧ 32 ≤ 32 ∧ 31 < 32 := ⟨⟨_, rfl, by decide⟩, ⟨_, rfl⟩, by decide, by decide⟩
theorem witness_float_words : (∀ l ∈ litC.exec bareH, (litC.snap.thread l).trapen.getLsbD 0 = false ∧ (litC.snap.thread l).trapen.getLsbD 1 = false) ∧ 7 ≤ lit.contractNo litC.f ∧
    lit.contractNo litC.f ≤ 8 ∧ Ready lit litC bareH [one (sv 1), one (sv 2), plain (.v 3)] [.v 4] := ⟨by decide, by decide, by decide, witness_ready _ _⟩

/-! ## Warp operations, hurdles and queues: WarpQueriesAndShuffles, WarpReductions, Hurdles, DecisionQueue, QueuePopAndGangRegister, Continuations -/

/-- A chain of unit u at a state's own registers. -/
def onUnit (s : State) (w : Warp) (u : Nat) (lanes : List Nat) : State := { s with issue := some (tIssue w u lanes) }
theorem witness_float_reductions : Ready lit litC bareH [one (sv 1)] [.v 4] ∧ (litC.exec bareH).length ≤ 32 := ⟨witness_ready _ _, by decide⟩
/-- A chain that issues already (its words run on), ready for any word. -/
def goingC : Issue := { litC with going := true }
def goingS : State := { lit with issue := some goingC }
theorem witness_ready_going (uses : List Use) (dests : List Reg) : Ready goingS goingC bareH uses dests ∧ goingC.going = true ∧ litC.going = false :=
  ⟨ready_of uses dests rfl rfl rfl rfl (by decide) (by decide) (by decide), rfl, rfl⟩

/-- A workgroup of two live threads and an ended one, of which one has arrived at hurdle 1 and its flock's, and the other as given. -/
def hurdleWg (last : BitVec 32) : Workgroup :=
  tWg { tWarp 0 with threads := [{ Thread.new with arrived := 0x20002 }, { Thread.new with arrived := last }, { Thread.new with life := .ended }] }
/-- A waiting load of thread 1, which hurdle 1 and its flock's are owed. -/
def owedLoad : WaitLoad := { m := 0, u := 0, lanes := [1], target := 0, granule := 0, addr := 0, clear := false, size := 4, signed := false, dest := .v 4, keep := [.v 4], owes := 0x20002 }
def hurdleFlock (last : BitVec 32) (waits : List WaitLoad) : Flock := tFlock { hurdleWg last with waits := waits }
/-- HurdlePhase: all have arrived and nothing is owed; one has not arrived; a live thread's load is owed. -/
theorem witness_hurdle_phase : let live (wgs : List Workgroup) : List Thread := wgs.flatMap fun wg => wg.warps.flatMap fun w => w.threads.filter Thread.live
    let wgs := (hurdleFlock 0x20002 []).wgs
    wgs[0]? = some (hurdleWg 0x20002) ∧ live wgs ≠ [] ∧ (∀ t ∈ live wgs, t.at? (false, 1) = true ∧ t.at? (true, 1) = true) ∧ (∀ wg ∈ wgs, wg.waits = []) ∧
    (∃ t ∈ live (hurdleFlock 0 []).wgs, t.at? (false, 1) = false ∧ t.at? (true, 1) = false) ∧
    (∃ wg ∈ (hurdleFlock 0x20002 [owedLoad]).wgs, ∃ q ∈ wg.waits, q.owes.getLsbD 1 = true ∧ q.owes.getLsbD 17 = true ∧
      ∃ l ∈ q.lanes, ((hurdleFlock 0x20002 [owedLoad]).threadOf q.m q.u l).live = true) := by
  refine ⟨rfl, by decide, by decide, by decide, ?_, ?_⟩
  · decide
  · exact ⟨_, List.mem_singleton.mpr rfl, _, List.mem_singleton.mpr rfl, by decide, by decide, 1, by decide, by decide⟩
/-- R172: an ARRIVE of which one thread has arrived waits; one of which none has does not. -/
theorem witness_arrive : ((tIssue (tWarp 2) 0 [0, 1]).exec bareH).any (fun l => ((tWarp 2).thread l).at? (hurdleOf 1)) = false ∧
    Thread.at? { Thread.new with arrived := 2 } (hurdleOf 1) = true := by decide
/-- R171, R173: HURDLE of a herder has no effect; of a warp it is held for one phase. -/
theorem test_hurdle_holds : (match Sys2Proof.Machine.exec (.hurdle bareH 1) (tState (tWarp 2) 0 [0, 1]) with | .next t => (t.thread? 0 0 0 1).map fun q => (q.hold, q.arrived) | _ => none) =
      some (.hurdle false 1 1 false, 2) ∧
    (match Sys2Proof.Machine.exec (.hurdle bareH 1) (tState (tWarp 1) 32 [0]) with | .next t => (t.thread? 0 0 32 0).map fun q => (q.hold, q.arrived) | _ => none) = some (.none, 0) := by
  decide +kernel
/-- A workgroup whose decision queue holds one entry, or none. -/
def dqState (dq : List Word) (w : Warp) (u : Nat) (lanes : List Nat) : State :=
  { State.reset with flocks := [tFlock { tWg w with dq := dq }], issue := some (tIssue w u lanes) }
theorem witness_decision_push : (∃ wg, (dqState (List.replicate 64 0) (tWarp 1) 32 [0]).wg? 0 0 = some wg ∧ 64 ≤ wg.dq.length) ∧
    (∃ l, (dqState [] (tWarp 1) 32 [0]).launchOf 0 = some l ∧ l.pool = none) ∧ Ready (dqState [] (tWarp 1) 32 [0]) (tIssue (tWarp 1) 32 [0]) bareH [one (sv 1)] [] ∧ litC.u ≠ 32 :=
  ⟨⟨_, rfl, by decide⟩, ⟨_, rfl, by decide⟩, ready_of _ _ rfl rfl rfl rfl (by decide) (by decide) (by decide), by decide⟩
theorem witness_decision_pop : let s := dqState [5] (tWarp 2) 0 [0, 1]
    let c := tIssue (tWarp 2) 0 [0, 1]
    Ready s c bareH [] [.v 4] ∧ c.u ≠ 32 ∧ (∃ l, s.launchOf c.f = some l ∧ l.pool = none) ∧ (c.snap.thread (lowest c.lanes)).trapMode = false ∧ c.exec bareH = c.lanes ∧
    (∃ wg, s.wg? c.f c.m = some wg ∧ wg.dqBase ≤ c.snap.cursor ∧ wg.dq[c.snap.cursor - wg.dqBase]? = some 5) ∧
    (∃ wg, (dqState [] (tWarp 2) 0 [0, 1]).wg? c.f c.m = some wg ∧ wg.dqBase + wg.dq.length ≤ c.snap.cursor ∧ wg.herderEnded = false) ∧
    (∃ k, (litC.snap.thread k).live = true ∧ (litC.snap.thread k).stray = false ∧ k ∉ litC.lanes ∧ ∀ j ∈ litC.lanes, (litC.snap.thread j).hold.awaits.getLsbD k = false) :=
  ⟨ready_of _ _ rfl rfl rfl rfl (by decide) (by decide) (by decide), by decide, ⟨_, rfl, by decide⟩, by decide, by decide, ⟨_, rfl, by decide, by decide⟩,
   ⟨_, rfl, by decide, by decide⟩, ⟨2, by decide⟩⟩
/-- Lanes past a warp's own never live: so a group of all its lanes leaves none out. -/
theorem witness_decision_pop_lanes : (∀ k, ((tWarp 2).thread k).live = true → k ∈ [0, 1]) ∧ ∀ k, ((tWarp 2).thread k).stray = false := by
  constructor
  · intro k; match k with
    | 0 | 1 => decide
    | k + 2 => intro h; cases h
  · intro k; match k with
    | 0 | 1 => decide
    | k + 2 => rfl

/-- A warp of one thread whose register v1 awaits a result. -/
def drainedWarp (n : Nat) : Warp := { tWarp 0 with threads := List.replicate n { Thread.new with full := 0xFFFFFD } }
/-- A state whose flock's pool 0 has a launch of two registers a record and room for some records. -/
def poolLaunch (capacity : Nat) : Launch := { benchLaunch with pool := some 0, poolN := 2, capacity := capacity }
def poolState (capacity : Nat) (w : Warp) (lanes : List Nat) : State :=
  let s : State := { State.reset with flocks := [{ tFlock (tWg w) with launch := poolLaunch capacity }], issue := some (tIssue w 0 lanes) }
  s.modPart 0 fun q => { q with window := [{ benchTask q with op := 0x02, launch := some (poolLaunch capacity) }], pools := [⟨0, 1, [], 0, []⟩] }
theorem poolState_ready (k : Nat) (w : Warp) (lanes : List Nat) (nodup : lanes.Nodup) (ex : (tIssue w 0 lanes).exec bareH ≠ []) (full : fullB w lanes = true) (uses : List Use) (dests : List Reg) :
    Ready (poolState k w lanes) (tIssue w 0 lanes) bareH uses dests := ready_of _ _ rfl rfl rfl rfl nodup ex full
/-- CONT: v1 = 0 names the pool; with room for both threads, with room for one, and with none named. -/
theorem witness_continuation : let c := tIssue (valWarp 0 9 0) 0 [0, 1]
    Ready (poolState 2 (valWarp 0 9 0) [0, 1]) c bareH [one (sv 1), one (sv 2)] [] ∧ Ready (poolState 1 (valWarp 0 9 0) [0, 1]) c bareH [one (sv 1), one (sv 2)] [] ∧
    ((poolState 2 (valWarp 0 9 0) [0, 1]).poolFor 0 0).map (fun q => ((poolState 2 (valWarp 0 9 0) [0, 1]).poolRegs 0 q.seq, (poolState 2 (valWarp 0 9 0) [0, 1]).poolRoom 0 q)) = some (2, 2) ∧
    (∀ l ∈ [0, 1], ∀ k < 2, (c.snap.thread l).full.getLsbD k = true) ∧
    ((poolState 1 (valWarp 0 9 0) [0, 1]).poolFor 0 0).map (fun q => (poolState 1 (valWarp 0 9 0) [0, 1]).poolRoom 0 q) = some 1 ∧
    (poolState 2 (valWarp 7 9 0) [0, 1]).poolFor 0 7 = none :=
  ⟨poolState_ready _ _ _ (by decide) (by decide) (by decide) _ _, poolState_ready _ _ _ (by decide) (by decide) (by decide) _ _, by decide +kernel, by decide, by decide +kernel,
   by decide +kernel⟩
/-- The record of a thread is formed with its registers full and room in the area, and is not while v1 is empty. -/
theorem witness_continuation_record :
    let ok (s : State) (w : Warp) : Prop := (∃ fl, s.flock? 0 = some fl ∧ fl.p < s.partitions.length ∧ (s.part fl.p).pools = [⟨0, 1, [], 0, []⟩]) ∧ s.unit? 0 0 0 = some w ∧
      s.poolFor 0 0 = some ⟨0, 1, [], 0, []⟩
    (ok (poolState 2 (tWarp 2) [0, 1]) (tWarp 2) ∧ (∀ k < (poolState 2 (tWarp 2) [0, 1]).poolRegs 0 1, ((tWarp 2).thread 0).full.getLsbD k = true) ∧
      0 < (poolState 2 (tWarp 2) [0, 1]).poolRoom 0 ⟨0, 1, [], 0, []⟩) ∧
    ok (poolState 2 (drainedWarp 1) [0]) (drainedWarp 1) ∧ (poolState 2 (drainedWarp 1) [0]).poolRegs 0 1 = 2 ∧ ((drainedWarp 1).thread 0).full.getLsbD 1 = false := by
  refine ⟨⟨⟨⟨_, rfl, by decide, by decide +kernel⟩, rfl, by decide +kernel⟩, by decide +kernel, by decide +kernel⟩,
    ⟨⟨_, rfl, by decide, by decide +kernel⟩, rfl, by decide +kernel⟩, by decide +kernel, by decide⟩
theorem witness_gang_register : Ready lit litC bareH [one (sw 2)] [] ∧ ∃ l, lit.launchOf litC.f = some l := ⟨witness_ready _ _, _, rfl⟩

/-- 05: two of four lanes hold a value that is not 0. -/
theorem test_ballot : regAfter (Sys2Proof.Machine.exec (.ballot bareH (.w 1) (sv 1)) (tState { tWarp 0 with
      threads := [0, 7, 0, 1].map fun x => { Thread.new with v := Vector.replicate 24 x } } 0 [0, 1, 2, 3])) 0 (.w 1) = some (10, true) := by decide +kernel
theorem test_shfl_down_own_value_past_the_end : regAfter (Sys2Proof.Machine.exec (.shflDown bareH (.v 4) (sv 1) (.v 2)) (tState { tWarp 0 with
      threads := [10, 11].map fun x => { Thread.new with v := (Vector.replicate 24 (1 : Word)).set 1 x } } 0 [0, 1])) 0 (.v 4) = some (11, true) ∧
    regAfter (Sys2Proof.Machine.exec (.shflDown bareH (.v 4) (sv 1) (.v 2)) (tState { tWarp 0 with
      threads := [10, 11].map fun x => { Thread.new with v := (Vector.replicate 24 (1 : Word)).set 1 x } } 0 [0, 1])) 1 (.v 4) = some (11, true) := by decide +kernel
theorem test_wred_min_signed : runs (.wredMin bareH (.v 4) (sv 1)) 0x80000000 0 0 = some (0x80000000, true) ∧
    regAfter (Sys2Proof.Machine.exec (.wredMinu bareH (.v 4) (sv 1)) (tState { tWarp 0 with
      threads := [0xFFFFFFFF, 3].map fun x => { Thread.new with v := Vector.replicate 24 x } } 0 [0, 1])) 0 (.v 4) = some (3, true) := by decide +kernel
theorem test_gang_mask : (match Sys2Proof.Machine.exec (.gang bareH (sw 2)) (tState (tWarp 1) 0 [0]) with | .next t => (t.unit? 0 0 0).map fun w => w.gang | _ => none) = some 0 ∧
    (match Sys2Proof.Machine.exec (.gang bareH (sw 2)) (tState { tWarp 1 with w := Vector.replicate 8 1 } 0 [0]) with | .next t => t.issue.map fun c => c.traps | _ => none) = some [(0, 0x0D, 0)] := by
  decide +kernel

/-! ## Memory words: AccessChecks, AccessesInOrder, LoadsAndStores, ReadAfterWrite, Atomics, OrderedAccesses, TagTable, GranuleBits -/

/-- A leaf entry for a gigabyte that is readable and writable.-/
def pageLeaf (start frame stamp : Nat) : Leaf := { start := start, size := 0x40000000, frame := frame, r := true, w := true, stamp := stamp, key := 0, packed := false, mut_ := false }
/-- A state whose page table maps four GiB: HBM, HBM under stamp 7, host memory, and HBM that is not writable. -/
def pageState (w : Warp) (lanes : List Nat) : State :=
  let s := State.reset.benchCode nopWord nopWord
  let t := s.hbmWrite benchKey 8200 ([0xDC70000000040000, 0xDC00008000000000, 0xD800000000040000].flatMap (leBytes 8))
  { State.reset with partitions := s.partitions, device := s.device, hbm := t.hbm, lineKeys := t.lineKeys, flocks := [tFlock (tWg w)], issue := some (tIssue w 0 lanes) }
def litP : State := pageState (tWarp 3) [0, 1]
/-- A chain of one lane, whose v2 and v3 hold the address. -/
def pageC (va : Nat) : State := pageState (valWarp 5 (BitVec.ofNat 32 va) (BitVec.ofNat 32 (va / 2 ^ 32))) [0]
def pageI (va : Nat) : Issue := tIssue (valWarp 5 (BitVec.ofNat 32 va) (BitVec.ofNat 32 (va / 2 ^ 32))) 0 [0]
theorem fullB_valWarp (a b c : Word) : fullB (valWarp a b c) [0] = true := rfl
theorem pageC_ready (va : Nat) (uses : List Use) (dests : List Reg) : Ready (pageC va) (pageI va) bareH uses dests :=
  ready_of _ _ rfl rfl rfl rfl (show [0].Nodup by decide) (show [0] ≠ [] by decide) (fullB_valWarp _ _ _)
theorem pageC_unwaited (va : Nat) : unwaited (pageC va) (pageI va) bareH := fun _ _ => rfl

/-- The boundaries of the address checks: misaligned; the first and the last window byte; a remote window of a member that does not live, and of
one that does; a qualifier off the windows on both sides; the reserved range; the four pages. -/
theorem witness_access_checks : (∃ fl wg, litP.flock? 0 = some fl ∧ fl.wgs[0]? = some wg ∧ wg.ended = false ∧ litP.bad = [] ∧ fl.wgs.length ≤ 1) ∧
    (0x00FE000000000001 % 2 ≠ 0) ∧ (0x00FEFFFFFFFFFFFF % 1 = 0 ∧ 0x00FEFFFFFFFFFFFF < 0x00FF000000000000) ∧
    (0x00FD000000080000 = 0x00FD000000000000 + 1 * 2 ^ 19 + 0 ∧ 0x00FDFFFFFFFFFFFF = 0x00FD000000000000 + 0x1FFFFFFF * 2 ^ 19 + 0x7FFFF) ∧
    0x00FCFFFFFFFFFFFF < 0x00FD000000000000 ∧ litP.translate 0 0x100000000 .read = .absent ∧ litP.translate 0 0xC0000000 .write = .refused ∧
    (∃ l, litP.translate 0 0x40000000 .read = .leaf l ∧ l.packed = false ∧ l.stamp ≠ 0 ∧ l.stamp ≠ 8) := by
  refine ⟨⟨_, _, rfl, rfl, rfl, rfl, by decide⟩, by decide, by decide, by decide, by decide, by decide +kernel, by decide +kernel, ?_⟩
  exact ⟨pageLeaf 0x40000000 0x40000 7, by decide +kernel, by decide⟩
/-- Translations: no page with replicas, a word overwritten elsewhere, and an invalidation of the page, or of ALL, written after it. -/
def invP (page : Option (Nat × Nat)) : State := { litP with oldEntries := [⟨40960, 3, 2 ^ 63, 2⟩] }.modPart 0 fun q => { q with mem := { q.mem with tlbDone := [⟨5, page⟩], oldRoots := [(3, 4)].filter fun _ => page = some (1, 1) } }
theorem witness_translations : (litP.part 0).mem.ptroot.getLsbD 0 = true ∧ (litP.cached 0 0x100000000 = none ∧ litP.walk 0 0x100000000 = .absent) ∧
    litP.noReplicas = true ∧ litP.oldEntries = [] ∧ (litP.part 0).mem.oldRoots = [] ∧ (∃ l, litP.cached 0 0 = some l) ∧
    ∀ page ∈ [none, some (0, 0x40000000)], (invP page).noReplicas = true ∧ (∀ i ∈ ((invP page).part 0).mem.tlbDone, i.page = page ∧ ∀ o ∈ (invP page).oldEntries, o.since < i.since) ∧
      ((invP page).cached 0 0).map (fun l => (l.start, l.size)) = some (0, 0x40000000) := by
  refine ⟨rfl, by decide +kernel, by decide +kernel, rfl, rfl, ⟨pageLeaf 0 0x40000 0, by decide +kernel⟩, by decide +kernel⟩
/-- AccessRule and Translations: PTROOT.EN 0, no translation, a bad cached entry, and a page that a word has not looked up yet. -/
theorem witness_translation_checks : litP.issue = some litC ∧ (State.reset.part 0).mem.ptroot.getLsbD 0 = false ∧ litP.cached 0 0x100000000 = none ∧
    litP.walk 0 0x100000000 = .absent ∧ { litP with bad := [.tlb 0 0] }.bad.contains (.tlb 0 0) = true ∧ litP.issue ≠ none ∧
    litP.lookup 0 0 = .leaf (pageLeaf 0 0x40000 0) ∧ litP.lookedUp 0 = none ∧ litP.lookedUp 16 = none ∧ (litP.look 0 0).lookedUp 16 = some (pageLeaf 0 0x40000 0) := by
  refine ⟨rfl, rfl, ?_, ?_, ?_, ?_, ?_, rfl, rfl, by decide +kernel⟩ <;> decide +kernel
/-- A state whose task has no region, in debug mode. -/
def litD : State := { litP with flocks := [{ tFlock (tWg (tWarp 3)) with launch := { benchLaunch with debug := true } }] }.modPart 0 fun q =>
  { q with window := [{ benchTask q with launch := some { benchLaunch with debug := true } }] }
/-- AccessChecks: the pages of the last four clauses, once looked up; and an address outside every region of a debug task. -/
theorem witness_access_pages : litP.translateOnce 0 0x100000000 .read = .absent ∧ litP.translateOnce 0 0xC0000000 .write = .refused ∧
    litP.translateOnce 0 0 .read = .leaf (pageLeaf 0 0x40000 0) ∧ litP.translateOnce 0 0x40000000 .read = .leaf (pageLeaf 0x40000000 0x40000 7) ∧
    litP.peerAt (pageLeaf 0 0x40000 0) 0 = none ∧ (∃ fl, litD.flock? 0 = some fl ∧ fl.launch.debug = true ∧ litD.inRegions fl.p fl.seq 0 4 false = false) ∧
    litD.bad = [] ∧ litD.translateOnce 0 0 .read = .leaf (pageLeaf 0 0x40000 0) := by
  refine ⟨?_, ?_, ?_, ?_, ?_, ⟨_, rfl, rfl, by decide +kernel⟩, rfl, by decide +kernel⟩ <;> decide +kernel
/-- A state in which thread 0's load of granule 0, empty, waits. -/
def waitS : State := { lit with flocks := [tFlock { tWg (tWarp 3) with waits := [{ owedLoad with lanes := [0] }] }] }
theorem witness_waiting : (∀ uses dests, Ready waitS litC bareH uses dests) ∧ 0 ∈ litC.exec bareH ∧ waitS.waiting litC 0 = true ∧ litC.going = false :=
  ⟨fun _ _ => ready_of _ _ rfl rfl rfl rfl (by decide) (by decide) (by decide), by decide, rfl, rfl⟩
/-- A page of rank 1's memory, which that rank has opened. -/
def farLeaf : Leaf := pageLeaf 0 (peerBase / 4096 + 2 ^ 27) 0
def farState : State := { litP with device := { litP.device with joined := true, peerGrants := [⟨1, 0, 0, 4096, true⟩] } }
theorem witness_peer_page : farState.device.physOf (farLeaf.pa 0) = .peer (2 ^ 39) ∧ 2 ^ 39 / 2 ^ 39 ≠ farState.device.rank ∧ farState.peerAccepts 0 (2 ^ 39) 16 true = true ∧
    farState.peerAt farLeaf 0 = some (2 ^ 39) ∧ farState.spot 0 farLeaf 0 16 false = none ∧ (farState.pageRead 0 farLeaf 0 16).map List.length = some 16 ∧
    litP.spot 0 (pageLeaf 0 0x40000 0) 0 16 false = some ⟨none, 0x40000000, 3, 0, true⟩ ∧ litP.copyFor 0 ⟨none, 0x40000000, 3, 0, true⟩ = none ∧
    litP.blockSeen ⟨none, 0x40000000, 3, 0, true⟩ = none ∧ litP.late = [] := by
  refine ⟨?_, ?_, ?_, ?_, ?_, ?_, ?_, rfl, rfl, rfl⟩ <;> decide +kernel
/-- A store over a valid entry keeps the old one for cached translations (R222), one over a word without V does not; a completed TLBINV ends the use of those
that ended before it was written, of its own page only. -/
theorem test_old_entries : (litP.hbmWrite benchKey 8200 (leBytes 8 0)).oldEntries = [⟨8200, 3, 0xDC70000000040000, 0⟩] ∧ (litP.hbmWrite benchKey 40960 [1]).oldEntries = [] := by decide +kernel
theorem test_tlbinv : (let m := (({ ptroot := 1 } : MemBlock).invalidate ⟨5, some (0, 0x40000000)⟩).invalidated
    let l : Leaf := pageLeaf 0 0x40000 0
    (m.holds l 4, m.holds l 5, m.holds { l with start := 0x40000000 } 4, m.tlbWork.isSome)) = (false, true, true, false) := by decide
theorem test_access_checks : litP.checkAccess 0 0 true 0x00FE000000000FFC 4 0 .read = .ok (.scratch 0 0xFFC) false ∧
    litP.checkAccess 0 0 true 0x00FE000000001000 4 0 .read = .trap 0x06 ∧ litP.checkAccess 0 0 true 0x40000000 4 0 .read = .trap 0x08 ∧
    litP.checkAccess 0 0 true 2 4 0 .read = .trap 0x04 ∧ litP.checkAccess 0 0 true 0 4 1 .read = .trap 0x05 := by decide +kernel
theorem witness_accesses_in_order : unwaited lit litC bareH ∧ ∀ uses dests, Ready lit litC bareH uses dests := ⟨fun _ _ => rfl, fun _ _ => witness_ready _ _⟩
theorem witness_loads : (∃ w, litP.unit? 0 0 0 = some w ∧ ∀ r ∈ regSpan (.v 4) 4, w.isFull (lowest [0]) r = true) ∧
    (∃ fl wg, litP.flock? 0 = some fl ∧ fl.launch.debug = false ∧ litP.wg? 0 0 = some wg) ∧
    (∃ wg, { lit with flocks := [tFlock { tWg (tWarp 3) with granules := 0 }] }.wg? 0 0 = some wg ∧ wg.granules.getLsbD 0 = false) ∧
    (∃ l bs, litP.translate 0 0 .read = .leaf l ∧ litP.pageRead 0 l 0 16 = some bs ∧ bs.length = 16) := by
  refine ⟨⟨_, rfl, by decide⟩, ⟨_, _, rfl, rfl, rfl⟩, ⟨_, rfl, BitVec.getLsbD_zero⟩, ⟨pageLeaf 0 0x40000 0, [0, 0, 0x28, 1, 0, 0, 0x28, 1, 0, 0, 0x28, 1, 0, 0, 0x28, 1], by decide +kernel, by decide +kernel, by decide⟩⟩
theorem witness_stores : litP.bad = [] ∧ (∃ fl, litP.flock? 0 = some fl) ∧ (∃ wg, litP.wg? 0 0 = some wg ∧ wg.waits = []) ∧
    (∃ l key a, litP.translate 0 0 .write = .leaf l ∧ l.packed = false ∧ litP.keyOf 0 l.key = some key ∧ litP.device.physOf (l.pa 0) = .hbm a) ∧
    (∃ l key a, litP.translate 0 0x80000000 .write = .leaf l ∧ l.packed = false ∧ litP.keyOf 0 l.key = some key ∧ litP.device.physOf (l.pa 0x80000000) = .host a) := by
  refine ⟨rfl, ⟨_, rfl⟩, ⟨_, rfl, rfl⟩, ⟨pageLeaf 0 0x40000 0, 3, 0x40000000, by decide +kernel⟩,
    ⟨pageLeaf 0x80000000 0x8000000000 0, 3, 0, by decide +kernel⟩⟩
/-- LoadResult and StoreResult: an unchecked load of a debug task; a mutable packed page whose block 512 has its chain of eight chunks. -/
theorem witness_load_debug : ∃ fl wg, litD.flock? 0 = some fl ∧ fl.launch.debug = true ∧ litD.wg? 0 0 = some wg ∧ { wg with granules := 0 }.granules.getLsbD 0 = false :=
  ⟨_, _, rfl, rfl, rfl, BitVec.getLsbD_zero⟩
def packedLeaf : Leaf := { pageLeaf 0 0x40000 0 with packed := true, mut_ := true }
def packedS : State := (litP.hbmWrite plainKey 0x50000000 ((List.range 8).flatMap fun k => leBytes 4 (k + 1))).modPart 0 fun q =>
  { q with mem := { q.mem with chklink := 0x50000000, chkbase := 0x60000000, chksize := 8 } }
theorem witness_packed_store : (∃ fl, packedS.flock? 0 = some fl ∧ packedS.keyOf fl.p packedLeaf.key = some 3) ∧ Memory.wf packedS.hbm = true ∧ packedS.bad = [] ∧
    packedS.readBlock 0 3 packedLeaf 512 = some (List.replicate 2048 0) ∧ packedS.ownChain 0 3 packedLeaf 512 = some (List.range 8) ∧ (List.range 8).Nodup ∧
    ∀ x ∈ List.range 8, packedS.linkAt 0 x / 128 ≠ packedLeaf.mapAt 512 / 128 ∧
      ∀ y ∈ List.range 8, packedS.chunkAt 0 y / 256 ≠ packedLeaf.mapAt 512 / 256 ∧ packedS.chunkAt 0 y / 256 ≠ packedS.linkAt 0 x / 256 := by
  refine ⟨⟨_, rfl, by decide +kernel⟩, by decide +kernel, rfl, by decide +kernel, by decide +kernel, by decide, by decide +kernel⟩
/-- WaitingLoads: a load waits on the granule that is filled. AtomicsInOrder: two threads. -/
theorem witness_waiting_loads : ∃ wg, waitS.wg? 0 0 = some wg ∧ wg.ended = false ∧ waitS.bad = [] ∧ (∀ q ∈ wg.waits, q.size ∈ [1, 2, 4, 8, 16]) ∧ wg.waits.filter (fun q => q.granule == 0) ≠ [] :=
  ⟨_, rfl, rfl, rfl, by decide, by decide⟩
theorem witness_atomics_in_order : unwaited lit litC bareH ∧ litC.gone = [] ∧ (Reg.v 4).isW = false ∧ litC.exec bareH = 0 :: [1] ∧ [1] ≠ ([] : List Nat) ∧
    ∀ uses dests, Ready lit litC bareH uses dests := ⟨fun _ _ => rfl, rfl, rfl, by decide, by decide, fun _ _ => witness_ready _ _⟩
theorem witness_read_after_write : Memory.wf ([] : List Host.Cell) = true ∧ Memory.wf State.reset.hbm = true ∧ (3 : Nat) ≠ 0 := by decide
/-- Atomics and CAS: in the scratchpad window, in an HBM page, and in host memory with and without AtomicOps. -/
theorem witness_atomics : unwaited (pageC 0x80000000) (pageI 0x80000000) bareH ∧ (∀ uses dests, Ready (pageC 0x80000000) (pageI 0x80000000) bareH uses dests) ∧
    (pageI 0x80000000).groups bareH (.v 4) = [[0]] ∧ (pageI 0x80000000).val64 0 (.v 2) = 0x80000000 ∧ (pageC 0x80000000).atHost 0 0x80000000 = true ∧ (pageC 0x80000000).device.atomicEnable = false ∧
    { (pageC 0x80000000).device with atomicEnable := true }.atomicEnable = true ∧
    (∃ at_ m, (((pageC 0).lookAt 0 0).lookAt 0 0).checkAccess 0 0 true 0 4 0 .atomic = .ok at_ m) ∧ ((pageC 0).lookAt 0 0).atHost 0 0 = false ∧
    (∃ at_ m, (((pageC 0x80000000).lookAt 0 0x80000000).lookAt 0 0x80000000).checkAccess 0 0 true 0x80000000 4 0 .atomic = .ok at_ m) ∧
    ((pageC 0x80000000).lookAt 0 0x80000000).atHost 0 0x80000000 = true ∧
    (∃ at_ m, (((pageC 0x00FE000000000000).lookAt 0 0x00FE000000000000).lookAt 0 0x00FE000000000000).checkAccess 0 0 true 0x00FE000000000000 4 0 .atomic = .ok at_ m) := by
  refine ⟨pageC_unwaited _, fun _ _ => pageC_ready _ _ _, by decide, by decide +kernel, by decide +kernel, by decide +kernel, rfl, ?_, by decide +kernel, ?_, by decide +kernel, ?_⟩
  · exact ⟨.page (pageLeaf 0 0x40000 0), false, by decide +kernel⟩
  · exact ⟨.page (pageLeaf 0x80000000 0x8000000000 0), false, by decide +kernel⟩
  · exact ⟨.scratch 0 0, false, by decide +kernel⟩
theorem witness_ordered_accesses : (if (Reg.v 2).isW && (Reg.v 1).isW then [(pageI 0).exec bareH] else ((pageI 0).exec bareH).map fun l => [l]) = [[0]] ∧
    (∃ at_ m, ((pageC 0).lookAt 0 0).checkAccess 0 0 true 0 4 0 .write = .ok at_ m) ∧ (∃ at_ m, ((pageC 0).lookAt 0 0).checkAccess 0 0 true 0 4 0 .read = .ok at_ m) := by
  refine ⟨by decide, ⟨.page (pageLeaf 0 0x40000 0), false, by decide +kernel⟩, ⟨.page (pageLeaf 0 0x40000 0), false, by decide +kernel⟩⟩
/-- TAGQ and TAGW: a hit in the first slot, a miss with an invalid one, all pinned, and a slot past the table. -/
def tagState (tags : List DWord) : State := { State.reset with flocks := [tFlock { tWg (valWarp 7 7 3) with tags := tags }], issue := some (tIssue (valWarp 7 7 3) 0 [0]) }
theorem witness_tag_table : Ready (tagState []) (tIssue (valWarp 7 7 3) 0 [0]) bareH [one (sv 1), one (sv 2)] (regSpan (.v 4) 2) ∧ (tIssue (valWarp 7 7 3) 0 [0]).groups bareH (.v 4) = [[0]] ∧
    (∃ wg, (tagState [tagOf 7 true false 0]).wg? 0 0 = some wg ∧ (tagState [tagOf 7 true false 0]).bad = [] ∧ wg.tags[0]? = some (tagOf 7 true false 0)) ∧
    ((tagFields (tagOf 7 true false 0)).1 = 7 ∧ (tagFields (tagOf 7 true false 0)).2.1 = true) ∧ (tagFields (tagOf 7 false false 0)).2.1 = false ∧
    ((tagFields (tagOf 8 true true 5)).2.1 = true ∧ (tagFields (tagOf 8 true true 5)).2.2.1 = true) ∧ ([] : List DWord).length ≤ 7 :=
  ⟨ready_of _ _ rfl rfl rfl rfl (by decide) (by decide) (by decide), by decide, ⟨_, rfl, rfl, rfl⟩, by decide +kernel, by decide +kernel, by decide +kernel, by decide⟩
theorem witness_suggested_victim : (∀ x ∈ [tagOf 1 true true 0, tagOf 2 true false 9], (tagFields x).2.1 = true) ∧ [tagOf 1 true true 0, tagOf 2 true false 9][1]? = some (tagOf 2 true false 9) :=
  ⟨List.all_eq_true.mp (by decide +kernel), rfl⟩
/-- FEST: ranges that end at SCRATCH (4,096 in this launch), and past it. -/
theorem witness_granule_bits : let s := tState (valWarp 0x100 (BitVec.ofNat 32 0xFF0) 0x00FE0000) 0 [0]
    let c := tIssue (valWarp 0x100 (BitVec.ofNat 32 0xFF0) 0x00FE0000) 0 [0]
    unwaited s c bareH ∧ c.groups bareH (.v 4) = [[0]] ∧ (∃ wg l, s.wg? 0 0 = some wg ∧ wg.waits = [] ∧ s.launchOf 0 = some l ∧ l.scratch = 4096) ∧
    c.val64 0 (.v 2) = 0x00FE000000000FF0 ∧ (∃ m, s.checkAccess 0 0 (c.stamps [0]) 0x00FE000000000FF0 16 1 .write = .ok (.scratch 0 0xFF0) m) ∧
    0xFF0 + 16 * 1 ≤ 4096 ∧ 4096 < 0xFF0 + 16 * 2 ∧ (8 % 16 ≠ 0) ∧ (0 % 16 = 0 ∧ 0 < 0x00FD000000000000) :=
  ⟨fun _ _ => rfl, by decide, ⟨_, _, rfl, rfl, rfl, rfl⟩, by decide +kernel, ⟨false, by decide +kernel⟩, by decide, by decide, by decide, by decide⟩

/-- The landings that a step leaves: their words. -/
def landed (o : Outcome) : Option (List (List Word)) := match o with | .next t => some (t.landings.map fun l => l.vals) | _ => none
/-- R135: LDBS extends by the sign. A page of HBM that nothing has written reads 0 (log 2); the code's first byte is NOP's. -/
theorem test_ldbs : landed (Sys2Proof.Machine.exec (.ldbs bareH 0 (.v 4) (.v 2) 0) { tState (valWarp 0 0 0x00FE0000) 0 [0] with
      flocks := [tFlock { tWg (valWarp 0 0 0x00FE0000) with scratch := [⟨0, 0x80⟩] }] }) = some [[0xFFFFFF80]] := by decide +kernel
theorem test_stw : (match Sys2Proof.Machine.exec (.stw bareH false (.v 2) (-1) (.v 1)) (tState (valWarp 0xA0B0C0D0 8 0x00FE0000) 0 [0]) with
    | .next t => (t.wg? 0 0).map fun wg => wg.scratch | _ => none) = some [⟨4, 0xD0⟩, ⟨5, 0xC0⟩, ⟨6, 0xB0⟩, ⟨7, 0xA0⟩] := by decide +kernel
theorem test_atomi_add : (match Sys2Proof.Machine.exec (.atomiAdd bareH (.v 4) (.v 2) (.v 1)) { tState (valWarp 0xFFFFFFFF 0 0x00FE0000) 0 [0] with
      flocks := [tFlock { tWg (valWarp 0xFFFFFFFF 0 0x00FE0000) with scratch := [⟨0, 5⟩] }] } with
    | .next t => (t.wg? 0 0).map fun wg => (wg.scratch, t.landings.map fun l => l.vals) | _ => none) = some ([⟨0, 4⟩], [[5]]) := by decide +kernel
theorem test_cas_mismatch : (match Sys2Proof.Machine.exec (.cas bareH (.v 4) (sv 2) (sv 1) (.v 5)) { tState (valWarp 6 0 0x00FE0000) 0 [0] with
      flocks := [tFlock { tWg (valWarp 6 0 0x00FE0000) with scratch := [⟨0, 5⟩] }] } with
    | .next t => (t.wg? 0 0).map fun wg => (wg.scratch, t.landings.map fun l => l.vals) | _ => none) = some ([⟨0, 5⟩], [[5]]) := by decide +kernel
/-- A load from the third page reads host memory. -/
theorem test_ldw_host : landed (Sys2Proof.Machine.exec (.ldw bareH 0 (.v 4) (.v 2) 0) { pageC 0x80000000 with hostMem := [⟨0, 0x34⟩, ⟨1, 0x12⟩] }) = some [[0x1234]] := by decide +kernel
/-- A page state in which the host wrote the first eight bytes of the first page (R267): core threads may still read the bytes 1 to 8. -/
def lateState (now : Nat) : State := { pageC 0 with cycle := now, late := [⟨Writer.host, 0, none, 0x40000000, 3, [1, 2, 3, 4, 5, 6, 7, 8]⟩] }
/-- R263, R267, R268: 2,600 cycles after its step a write is read by every load; so it is by LDX.H at once; the words at home are NOP's. -/
theorem test_ldw_late : landed (Sys2Proof.Machine.exec (.ldw bareH 0 (.v 4) (.v 2) 0) (lateState 2600)) = some [[0x01280000]] ∧
    landed (Sys2Proof.Machine.exec (.ldx bareH 16 (.v 4) (sv 2)) (lateState 0)) = some [[0x01280000]] := by decide +kernel
theorem test_fence_late : (match Sys2Proof.Machine.exec (.fence bareH 16) (lateState 0) with | .next t => t.late.length | _ => 9) = 0 ∧
    (match Sys2Proof.Machine.exec (.fence bareH 8) (lateState 0) with | .next t => t.late.length | _ => 9) = 1 := by decide +kernel
/-- R267: an atomic finds the word at home, and a host write is noted in units of eight bytes. -/
theorem test_atomic_late : landed (Sys2Proof.Machine.exec (.atomiAdd bareH (.v 4) (.v 2) (.v 1)) (lateState 0)) = some [[0x01280000]] ∧
    ((pageC 0).hostWriteVa 0 6 [0, 0, 0, 0]).1.late.map (fun w => (w.start, w.old.length)) = [(0x40000000, 8), (0x40000008, 8)] := by decide +kernel
/-- R33: a word that straddles no rule but alignment. -/
theorem test_ldd_misaligned : (match Sys2Proof.Machine.exec (.ldd bareH 0 (.v 4) (.v 2) 0) (pageC 4) with | .next t => t.issue.map fun c => c.traps | _ => none) = some [(0, 0x04, 4)] := by
  decide +kernel

/-! ## Matrix words and engine words: MatrixWords, MatrixEngine, GangArrivals, TimelineAndBuffers, BarrierWords, CommandsToEngines -/

/-- A warp whose w registers are given words. -/
def wWarp (a b c d : Word) : Warp := { tWarp 2 with w := ((((Vector.replicate 8 (0 : Word)).set 0 a).set 1 b).set 2 c).set 3 d }
/-- A state in which a warp's descriptors name a tile at offset 0 and a scale array behind it, in a scratchpad of 64 KiB. -/
def wideLaunch : Launch := { benchLaunch with scratch := 65536 }
def matState (w : Warp) (u : Nat) (lanes : List Nat) (rounds : List Round) : State :=
  { State.reset with flocks := [{ tFlock { tWg w with rounds := rounds } with launch := wideLaunch }], issue := some (tIssue w u lanes) }
def matFl (w : Warp) (rounds : List Round) : Flock := { tFlock { tWg w with rounds := rounds } with launch := wideLaunch }
def bf16D : Word × Word := (0, 0)
/-- An E4M3 tile that ends at SCRATCH, with its scale array before it; and one of the workgroup itself, named as a member. -/
def e4m3D : Word × Word := (0x40000000 + 61440, 61424)
def memberD : Word × Word := (0x01000000, 0)
theorem witness_descriptors : DescFits (matFl (tWarp 2) []) bf16D (tileSize 0) (scaleSize 0) ∧ DescFits (matFl (tWarp 2) []) e4m3D (tileSize 2) (scaleSize 2) ∧
    DescFits (matFl (tWarp 2) []) memberD (tileSize 0) (scaleSize 0) ∧ DescFits (matFl (tWarp 2) []) (49152, 0) 16384 0 ∧
    DescFits (matFl (tWarp 2) []) (0x20000000, 65280) (512 * 2) 256 := by
  unfold DescFits; refine ⟨by decide +kernel, by decide +kernel, ⟨by decide +kernel, by decide +kernel, by decide +kernel, ?_⟩, by decide +kernel, by decide +kernel⟩
  rw [if_pos (by decide +kernel)]; exact ⟨_, rfl, rfl⟩
theorem witness_matrix_words : let s := matState (wWarp 0 0 0 0) 0 [0, 1] []
    let c := tIssue (wWarp 0 0 0 0) 0 [0, 1]
    (∃ fl wg, s.flock? 0 = some fl ∧ s.wg? 0 0 = some wg ∧ (7 : Fin 8).val < fl.launch.acc ∧ s.coreOps wg.core < 16 ∧ wg.q3asked < 64) ∧ unwaited s c bareH ∧
    (∀ uses dests, Ready s c bareH uses dests) ∧ c.snap.gang = 0 ∧ c.descriptor bareH (sw 0) = bf16D ∧ (tIssue (wWarp 0x40000000 61424 0 0) 0 [0]).descriptor bareH (sw 0) = (0x40000000, 61424) ∧
    admits 8 0 = true ∧ admits 8 1 = true ∧ admits 8 2 = true ∧ admitsFour 8 = true :=
  ⟨⟨_, _, rfl, rfl, by decide, by decide +kernel, by decide⟩, fun _ _ => rfl, fun _ _ => ready_of _ _ rfl rfl rfl rfl (by decide) (by decide) (by decide), rfl, by decide +kernel, by decide +kernel, by decide⟩
theorem witness_matrix_word_checks : (∃ fl, lit.flock? 0 = some fl ∧ fl.launch.acc ≤ 8) ∧ ({ benchLaunch with acc := 4 }).acc ≤ (7 : Fin 8).val ∧
    (0x101 % 2 ^ 24 % 256 ≠ 0) ∧ (∃ fl, lit.flock? 0 = some fl ∧ fl.launch.scratch < 0 + 16384) ∧ (0x101 : Word).getLsbD 24 = false ∧ (0x101 : Word).toNat / 2 ^ 25 % 8 = 0 :=
  ⟨⟨_, rfl, by decide⟩, by decide, by decide, ⟨_, rfl, by decide⟩, by decide, by decide⟩
/-- The first operation of a workgroup. -/
def opOfKind (k : MatKind) (z : Bool) : MatOp :=
  { kind := k, z := z, token := true, tile := 3, a := ⟨0, 0⟩, b := ⟨0, 0⟩, num := 5, k := 0, u := 0, lane := 0, seq := 0, srseed := 0, started := false, ovf := false, inv := false, sat := false }
def engineState (op : MatOp) (scratch : List Host.Cell) (tiles : List (List (Nat × Word))) : State :=
  { State.reset with flocks := [{ tFlock { tWg (tWarp 1) with matQ := [op], scratch := scratch, tiles := tiles } with launch := wideLaunch }] }
theorem witness_matrix_engine : let s := engineState (opOfKind .mma false) [] (List.replicate 8 [])
    s.subject.k = 0 ∧ s.subject.m = 0 ∧ (∃ wg, s.wg? 0 0 = some wg ∧ wg.matQ = [opOfKind .mma false] ∧ (opOfKind .mma false).tile < wg.tiles.length ∧ Memory.wf wg.scratch = true ∧ wg.waits = []) ∧
    (opOfKind .mma false).started = false ∧ { opOfKind .mma false with started := true }.started = true ∧ s.bad = [] ∧ s.contractNo 0 ≠ 0 ∧
    (opOfKind .mstore true).kind = .mstore ∧ (opOfKind .mstore true).z = true ∧ (opOfKind .mstore true).a.tr = false ∧ (opOfKind .mstore true).a.remote = false :=
  ⟨rfl, rfl, ⟨_, rfl, rfl, by decide, rfl, rfl⟩, rfl, rfl, rfl, by decide +kernel, rfl, rfl, by decide, by decide⟩
/-- MatrixOperations: in its core's turn, under contract 0 too, and out of it behind a workgroup whose slot comes first. -/
theorem witness_matrix_turn : let s := engineState (opOfKind .mma false) [] (List.replicate 8 [])
    let two := { s with flocks := [{ tFlock { tWg (tWarp 1) with matQ := [opOfKind .mma false] } with wgs := [{ tWg (tWarp 1) with matQ := [opOfKind .mma false], slot := 1 },
      { tWg (tWarp 1) with matQ := [opOfKind .mzero false], member := 1 }] }] }
    s.matrixTurn benchCore = some (0, 0) ∧ (∃ wg, s.wg? 0 0 = some wg ∧ wg.core = benchCore) ∧ two.matrixTurn benchCore = some (0, 1) ∧ (∃ wg, two.wg? 0 0 = some wg ∧ wg.core = benchCore ∧ wg.matQ ≠ []) ∧
    { s with flocks := [{ tFlock (tWg (tWarp 1)) with launch := { wideLaunch with contract := 0 } }] }.contractNo 0 = 0 :=
  ⟨by decide +kernel, ⟨_, rfl, by decide +kernel⟩, by decide +kernel, ⟨_, rfl, by decide +kernel, by decide⟩, by decide +kernel⟩
/-- MatrixWordsAccepted: an engine that holds 16 operations of the core, a thread whose load waits, and a chain that issues. -/
theorem witness_matrix_room : let s := matState (wWarp 0 0 0 0) 0 [0, 1] []
    let full := { s with flocks := [{ matFl (wWarp 0 0 0 0) [] with wgs := [{ tWg (wWarp 0 0 0 0) with matQ := List.replicate 16 (opOfKind .mzero false) }] }] }
    (∃ wg, full.wg? 0 0 = some wg ∧ ¬full.coreOps wg.core < 16) ∧ unwaited full (tIssue (wWarp 0 0 0 0) 0 [0, 1]) bareH ∧
    (∀ uses dests, Ready full (tIssue (wWarp 0 0 0 0) 0 [0, 1]) bareH uses dests) ∧ Ready waitS litC bareH [pair (sw 0)] [] ∧ waitS.waiting litC 0 = true ∧
    Ready goingS goingC bareH [pair (sw 0)] [] :=
  ⟨⟨_, rfl, by decide +kernel⟩, fun _ _ => rfl, fun _ _ => ready_of _ _ rfl rfl rfl rfl (by decide) (by decide) (by decide), witness_waiting.1 _ _, rfl, (witness_ready_going _ _).1⟩
/-- A tile copy of four words, as accepted. -/
def copyOf (ws : List Word) : CopyCmd :=
  { words := ws, stampMask := false, record := none, u := 0, lane := 0, pc := 0, row := 0, part := 0, moved := 0, masked := false, error := 0, finished := false, fault := none }
/-- Gang arrivals: none before, the last of two, and one of another operation. -/
def gangWarp : Warp := { wWarp 0 0 0 0 with gang := 3 }
def gangKey : List Nat := [0, 3, 0, 0, 0, 0, 0, 0]
theorem witness_gang_arrivals : let s := matState gangWarp 0 [0, 1] [⟨3, gangKey, 2⟩]
    let c := tIssue gangWarp 0 [0, 1]
    (∃ fl wg, s.flock? 0 = some fl ∧ s.wg? 0 0 = some wg ∧ wg.rounds = [⟨3, gangKey, 2⟩] ∧ (3 : Fin 8).val < fl.launch.acc ∧ admits fl.launch.contract 0 = true ∧ s.coreOps wg.core < 16) ∧
    unwaited s c bareH ∧ Ready s c bareH [pair (sw 0), pair (sw 2)] [] ∧ c.u < 32 ∧ c.snap.gang.getLsbD c.u = true ∧ (c.snap.thread (lowest c.lanes)).trapMode = false ∧
    (∀ l ∈ c.lanes, (c.snap.thread l).hold ≠ .stile ∧ (c.snap.thread l).hold ≠ .stilePast) ∧ c.snap.gang ≠ BitVec.ofNat 32 (2 ^ c.u) ∧
    gangKey = [0, (3 : Fin 8).val, false.toNat, false.toNat, (c.descriptor bareH (sw 0)).1.toNat, (c.descriptor bareH (sw 0)).2.toNat, (c.descriptor bareH (sw 2)).1.toNat, (c.descriptor bareH (sw 2)).2.toNat] ∧
    (2 : Word).getLsbD c.u = false ∧ (2 : Word) ||| BitVec.ofNat 32 (2 ^ c.u) = c.snap.gang ∧ gangKey ≠ gangKey.set 1 4 ∧
    (∃ wg, (matState gangWarp 0 [0, 1] []).wg? 0 0 = some wg ∧ wg.rounds = []) :=
  ⟨⟨_, _, rfl, rfl, rfl, by decide, by decide, by decide +kernel⟩, fun _ _ => rfl, ready_of _ _ rfl rfl rfl rfl (by decide) (by decide) (by decide), by decide, by decide, by decide, by decide, by decide,
   by decide +kernel, by decide, by decide, by decide, ⟨_, rfl, rfl⟩⟩
/-- A group held at the stile with its arrival in a round, and with none; one that has been released. -/
def heldWarp (k : Hold) : Warp := { gangWarp with threads := List.replicate 2 { Thread.new with hold := k } }
theorem witness_gang_held : (∀ k, Ready (matState (heldWarp k) 0 [0, 1] [⟨3, gangKey, 1⟩]) (tIssue (heldWarp k) 0 [0, 1]) bareH [pair (sw 0), pair (sw 2)] []) ∧
    (∃ l ∈ [0, 1], ((tIssue (heldWarp .stile) 0 [0, 1]).snap.thread l).hold = .stile) ∧ (∃ l ∈ [0, 1], ((tIssue (heldWarp .stilePast) 0 [0, 1]).snap.thread l).hold = .stilePast) ∧
    (∀ l ∈ [0, 1], ((tIssue (heldWarp .stile) 0 [0, 1]).snap.thread l).hold ≠ .stilePast) ∧
    [(⟨3, gangKey, 1⟩ : Round)].any (fun r => r.arrived.getLsbD 0) = true ∧ ([] : List Round).any (fun r => r.arrived.getLsbD 0) = false :=
  ⟨fun _ => ready_of _ _ rfl rfl rfl rfl (show [0, 1].Nodup by decide) (show [0, 1] ≠ [] by decide) rfl, ⟨0, by decide⟩, ⟨0, by decide⟩, by decide, by decide, rfl⟩
/-- GangArrivals: an overlapping mask, four open rounds of other warps, a round that stays open after this arrival, a group whose round failed, and MLUT. -/
theorem witness_gang_rounds : (∃ r ∈ [(⟨5, gangKey, 0⟩ : Round)].filter (fun r => r.mask ≠ 3), r.mask &&& 3 ≠ 0) ∧
    (let rs : List Round := [⟨4, gangKey, 4⟩, ⟨8, gangKey, 8⟩, ⟨16, gangKey, 16⟩, ⟨32, gangKey, 32⟩]
     (∀ r ∈ rs.filter (fun r => r.mask ≠ 3), r.mask &&& 3 = 0) ∧ rs.filter (fun r => r.mask ≠ 3) = rs ∧ 4 ≤ rs.length) ∧
    ([(⟨7, gangKey, 2⟩ : Round)].find? fun r => r.mask == 7) = some ⟨7, gangKey, 2⟩ ∧ (2 : Word) ||| BitVec.ofNat 32 (2 ^ 0) ≠ 7 ∧ (7 : Word).getLsbD 0 = true ∧
    (∃ l ∈ [0, 1], ((tIssue (heldWarp .stileBad) 0 [0, 1]).snap.thread l).hold = .stileBad) ∧ (∀ l ∈ [0, 1], ((tIssue (heldWarp .stileBad) 0 [0, 1]).snap.thread l).hold ≠ .stilePast) ∧
    (0 : Word).toNat / 2 ^ 29 < 2 ∧ (0x20000000 : Word).getLsbD 28 = false ∧ admitsFour 8 = true ∧ (tIssue (heldWarp .stileBad) 0 [0, 1]).group = [0, 1] := by decide
/-- MatrixStore: of FP32 bits, of BF16, of E4M3 with its deltas before the tile, with random words, transposed and to a member that is the workgroup itself. -/
theorem witness_matrix_store : ∀ op ∈ [opOfKind .mstore true, opOfKind .mstore false, { opOfKind .mstore false with a := ⟨BitVec.ofNat 32 (0x40000000 + 2 ^ 28 + 256), 0⟩ },
      { opOfKind .mstoresr false with k := 5, a := ⟨BitVec.ofNat 32 (2 ^ 24), 0⟩ }], let s := engineState op [] (List.replicate 8 [])
    s.subject.k = 0 ∧ s.subject.m = 0 ∧ (s.wg? 0 0).map Workgroup.matQ = some [op] ∧ op.started = false ∧ s.bad = [] ∧ (op.kind = .mstore ∨ op.kind = .mstoresr) ∧
    s.matrixTurn benchCore = some (0, 0) ∧ (if op.a.remote then op.a.member else 0) = 0 ∧ (s.wg? 0 0).map (fun wg => (wg.core, wg.ended, wg.waits, Memory.wf wg.scratch)) = some (benchCore, false, [], true) ∧
    ((!(op.kind == .mstore && op.z) && op.a.elem.hasDelta) = true → op.a.soff + 8 ≤ op.a.offset) := by decide +kernel
/-- POST of counter 0 and of the last one; TLWAIT, TLREAD and the buffer words ask only for a ready word and a flock. -/
theorem witness_timeline_and_buffers : (∀ uses dests, ReadyAt lit litC bareH uses lowest dests) ∧ settled lit litC (lowest (litC.readers bareH)) ∧ (∃ fl, lit.flock? 0 = some fl) ∧ 15 < lit.partitions.length ∧
    (lit.part 0).buffer 0 = 0 ∧ (({ lit.part 0 with eng := { (lit.part 0).eng with buffers := [(4095, 2)] } } : Partition).buffer 4095) = 2 :=
  ⟨fun _ _ => witness_readyAt_lowest _ _, .inr rfl, ⟨_, rfl⟩, by decide, by decide, by decide⟩
/-- Barrier objects: at the last one below SCRATCH, misaligned, and past SCRATCH. -/
theorem witness_barrier_words : lit.bad = [] ∧ (∀ dests, ReadyAt lit litC bareH [pair (sv 4)] lowest dests) ∧ settled lit litC (lowest (litC.readers bareH)) ∧ (∃ fl, lit.flock? 0 = some fl ∧ fl.launch.scratch = 4096) ∧
    lit.object 0 0 0 = [0, 0, 0, 0] ∧ 4080 % 16 = 0 ∧ 4080 + 16 ≤ 4096 ∧ 8 % 16 ≠ 0 ∧ 4096 % 16 = 0 ∧ 4096 < 4096 + 16 :=
  ⟨rfl, fun _ => witness_readyAt_lowest _ _, .inr rfl, ⟨_, rfl, rfl⟩, by decide +kernel, by decide, by decide, by decide, by decide, by decide⟩
/-- QPUSH: with room, and the first three words; with none, and the fourth. -/
theorem witness_queue_push : let w3 := { valWarp 0 0 0 with q0 := [0, 0, 0] }
    let s (n : Nat) : State := { tState w3 0 [0] with flocks := [tFlock { tWg w3 with q1asked := n }] }
    let full := { tState w3 0 [0] with flocks := [tFlock { tWg w3 with copies := List.replicate 32 (copyOf [0, 0, 0, 0]) }] }
    let c := tIssue w3 0 [0]
    (∀ n, ReadyAt (s n) c bareH [one (sv 1)] highest [] ∧ settled (s n) c 0) ∧ (c.snap.q0 ++ [c.val 0 (sv 1)]).length = 4 ∧ (litC.snap.q0 ++ [litC.val 1 (sv 1)]).length < 4 ∧
    (∃ fl wg, (s 0).flock? 0 = some fl ∧ fl.launch.debug = false ∧ (s 0).wg? 0 0 = some wg ∧ (s 0).waiting c 0 = false ∧ (s 0).coreCommands wg.core < 32 ∧ wg.q1asked < 32) ∧
    (∃ wg, full.wg? 0 0 = some wg ∧ ¬full.coreCommands wg.core < 32) ∧ ReadyAt full c bareH [one (sv 1)] highest [] ∧ (copyOf [0, 0, 0, 0]).reserved = false ∧
    ReadyAt lit litC bareH [one (sv 1)] highest [] ∧ settled lit litC (highest (litC.readers bareH)) ∧ ReadyAt waitS litC bareH [one (sv 1)] highest [] ∧
    (0x2000 : Word).getLsbD 13 = true :=
  ⟨fun _ => ⟨readyAt_of _ _ _ rfl rfl rfl rfl (by decide) (by decide) (by decide) (by decide), .inr rfl⟩, by decide, by decide,
   ⟨_, _, rfl, rfl, rfl, rfl, by decide +kernel, by decide⟩, ⟨_, rfl, by decide +kernel⟩, readyAt_of _ _ _ rfl rfl rfl rfl (by decide) (by decide) (by decide) (by decide), by decide,
   witness_readyAt_highest _ _, .inr rfl, readyAt_of _ _ _ rfl rfl rfl rfl (by decide) (by decide) (by decide) (by decide), by decide⟩
/-- XFORM: a job word with a reserved bit, one whose object ends past SCRATCH, a misaligned block, and a legal one. -/
theorem witness_xform : (∃ fl wg, lit.flock? 0 = some fl ∧ lit.wg? 0 0 = some wg ∧ fl.launch.scratch = 4096 ∧ fl.launch.debug = false) ∧ settled lit litC (lowest (litC.readers bareH)) ∧
    ReadyAt lit litC bareH [pair (sw 0), pair (sw 2)] lowest [] ∧ ReadyAt waitS litC bareH [pair (sw 0), pair (sw 2)] lowest [] ∧ waitS.waiting litC (lowest (litC.exec bareH)) = true ∧
    (0x10000000 / 2 ^ 28 ≠ 0) ∧ (¬(0x0A000000 / 2 ^ 28 ≠ 0 ∨ 0x180000 / 2 ^ 21 ≠ 0 ∨ 10 < 0x0A000000 / 2 ^ 24 % 16 ∨ 24 < 0x180000 / 2 ^ 16 % 32)) ∧
    4096 < 16 * (256 % 2 ^ 15) + 16 ∧ 16 * (255 % 2 ^ 15) + 16 ≤ 4096 ∧ 32 % 64 ≠ 0 ∧ 64 % 64 = 0 :=
  ⟨⟨_, _, rfl, rfl, rfl, rfl⟩, .inr rfl, witness_readyAt_lowest _ _, readyAt_of _ _ _ rfl rfl rfl rfl (by decide) (by decide) (by decide) (by decide), rfl,
   by decide⟩

/-- R279: a workgroup numbers its operations from 1; MZERO asks for a token. -/
theorem test_mzero_accepted : (match Sys2Proof.Machine.exec (.mzero bareH true 2) (tState (tWarp 1) 0 [0]) with
    | .next t => (t.wg? 0 0).map fun wg => (wg.matQ.map fun o => (o.tile, o.num, o.token), wg.opnum, wg.q3asked) | _ => none) = some ([(2, 1, true)], 2, 1) := by decide +kernel
/-- R282: the token of an MZERO that is the sixth operation. -/
theorem test_matrix_token : (match Sys2Proof.Machine.exec .matrixOpComplete (engineState { opOfKind .mzero false with started := true } [] []) with
    | .next t => (t.wg? 0 0).map fun wg => (wg.q3, wg.matQ.length) | _ => none) = some ([0x00050023], 0) := by decide +kernel
/-- R303: the last arrival of two completes the phase. -/
theorem test_boarr : (match Sys2Proof.Machine.exec (.boarr bareH (.v 4) (sv 2)) { tState (valWarp 0 16 1) 0 [0] with
      flocks := [tFlock { tWg (valWarp 0 16 1) with scratch := [⟨16, 2⟩, ⟨20, 1⟩, ⟨24, 5⟩] }] } with
    | .next t => some (t.object 0 0 16, t.landings.map fun l => l.vals) | _ => none) = some ([0, 0, 6, 0], [[5]]) := by decide +kernel
theorem test_qpush_submits : (match Sys2Proof.Machine.exec (.qpush bareH (sv 1)) { tState (valWarp 7 0 0) 0 [0] with
      flocks := [tFlock (tWg { valWarp 7 0 0 with q0 := [1, 2, 3] })], issue := some (tIssue { valWarp 7 0 0 with q0 := [1, 2, 3] } 0 [0]) } with
    | .next t => (t.wg? 0 0).map fun wg => wg.copies.map fun k => k.words | _ => none) = some [[1, 2, 3, 7]] := by decide +kernel
/-- R307: a raise never lowers a counter. -/
theorem test_post : (match Sys2Proof.Machine.exec (.post bareH (sv 1) (sv 2)) ({ tState (valWarp 9 3 0) 0 [0] with cycle := 0 }.raise 0 9 5) with
    | .next t => some ((t.part 0).counter 9) | _ => none) = some 5 := by decide +kernel
theorem test_brel : (match Sys2Proof.Machine.exec (.brel bareH (sv 1)) ((tState (valWarp 4095 0 0) 0 [0]).modPart 0 fun q => { q with eng := { q.eng with buffers := [(4095, 2)] } }) with
    | .next t => some ((t.part 0).buffer 4095) | _ => none) = some 0 := by decide +kernel

/-! ## The step, traps, reset and memories: EncodingSanity, StepRunsDecodedInstruction, GuardsAndEmptyRegisters, TakingATrap, StepKeepsMemories -/

/-- Whether an instruction completes, and an attempt issues; and the state that it leaves. -/
def goes (o : Outcome) : Bool := match o with | .next _ => true | _ => false
theorem next_of_goes {o : Outcome} (h : goes o = true) : ∃ t, o = .next t := by
  cases o with
  | next t => exact ⟨t, rfl⟩
  | fault _ => cases h
  | refused _ => cases h
def issuesB (a : Attempt) : Bool := match a with | .issues _ => true | _ => false
theorem issues_of {a : Attempt} (h : issuesB a = true) : ∃ t, a = .issues t := by
  cases a with
  | issues t => exact ⟨t, rfl⟩
  | blocked => cases h
  | held _ _ => cases h
/-- The reset state with a NOP placed. -/
def nopState : State := State.reset.withFetchWord 32 0x01280000
theorem witness_step_runs_events : State.reset.device.frozen = false ∧
    (∃ t, Sys2Proof.Machine.exec .wholeDeviceReset { State.reset with agenda := [], subject := {} } = .next t) ∧
    (∃ r ws w, ((State.reset.benchCrook 0x98000000).part 0).sched.run = some r ∧ ((State.reset.benchCrook 0x98000000).part 0).sched.active = some ws ∧ ws[r.op]? = some w ∧
      decodeCrook w.toNat = some .crkHalt) ∧ (State.reset.benchCrook 0x98000000).agenda = [.crook 0] ∧
    (∃ t, Sys2Proof.Machine.exec .crkHalt { State.reset.benchCrook 0x98000000 with agenda := [], subject := { p := 0 } } = .next t) := by
  refine ⟨rfl, next_of_goes (by decide +kernel), ⟨_, [0x98000000], 0x98000000, rfl, by decide +kernel, rfl, by decide +kernel⟩, by decide +kernel, next_of_goes (by decide +kernel)⟩
theorem witness_step_runs_word : (match nopState.fetch 0 0 with | .word w => w == 0x01280000 | _ => false) = true ∧ 0x01280000 < 2 ^ 31 ∧ decodeWord 0x01280000 0 = some (.nop bareH) ∧
    opOf 0x01280000 ≠ 0x21 ∧ (∃ w, nopState.unit? 0 0 0 = some w ∧ w.groups = [⟨0, false, false, [0]⟩]) ∧ nopState.device.frozen = false ∧
    nopState.agenda = [.slice 383 0] ∧ nopState.sliceWarps 383 0 = [(0, 0, 0, 0)] ∧
    (∃ t0, attempt Sys2Proof.Machine.exec { nopState with agenda := [] } 0 0 0 [0] 0 = .issues t0) ∧
    (∃ t, attempt Sys2Proof.Machine.exec ({ nopState with agenda := [], sliceLast := assocSet 0 (16 * 383 + 0) 1 nopState.sliceLast }.serveFetch 0 0) 0 0 0 [0] 0 = .issues t) ∧
    (∀ w, nopState.unit? 0 0 0 = some w → ∀ l ∈ [0], (w.thread l).hold = .none) := by
  refine ⟨by decide +kernel, by decide, by decide, by decide, ⟨benchWarp, by decide +kernel, by decide +kernel⟩, by decide +kernel, by decide +kernel, by decide +kernel,
    issues_of (by decide +kernel), issues_of (by decide +kernel), fun w hw => ?_⟩
  have h : nopState.unit? 0 0 0 = some benchWarp := by decide +kernel
  rw [h] at hw; cases hw; decide +kernel
/-- Fetches: the first word, the last and the first beyond; a code object on pages without a translation and on none that may be read. -/
def codeState (code : Nat) : State := { pageC 0 with flocks := [{ tFlock (tWg (tWarp 1)) with launch := { (tFlock (tWg (tWarp 1))).launch with code := code, codelen := 6 } }] }
theorem witness_fetched_word : (∃ fl l bs, nopState.flock? 0 = some fl ∧ 0 < fl.launch.codelen ∧ fl.launch.codelen = 6 ∧ nopState.translate fl.p fl.launch.code .fetch = .leaf l ∧
      nopState.bad = [] ∧ nopState.pageRead fl.p l fl.launch.code 4 = some bs) ∧
    (codeState 0x100000000).translate 0 0x100000000 .fetch = .absent ∧ (codeState 0x00FD000000000000).translate 0 0x00FD000000000000 .fetch = .refused := by
  refine ⟨⟨benchFlock, pageLeaf 0 0x40000 0, [0, 0, 0x28, 1], by decide +kernel⟩, by decide +kernel, by decide +kernel⟩
/-- A store into a code object in use keeps the words that stood there (R261). -/
theorem test_old_code : ((nopState.writeVa 0 none 6 [1, 2, 3, 4]).1.oldCode).map (fun o => (o.va, o.value)) = [(4, 0x01280000), (8, 0x01280000)] ∧
    (nopState.writeVa 0 none 24 [1]).1.oldCode = [] := by decide +kernel
/-- MOVL at word 0, with its literal behind it. -/
theorem witness_step_runs_movl : let s := State.reset.withFetchWord 64 (0x00846000 + 0x40490FDB * 2 ^ 32)
    (match s.fetch 0 0, s.fetch 0 1 with | .word w, .word x => w == 0x00846000 && x == 0x40490FDB | _, _ => false) = true ∧ opOf 0x00846000 = 0x21 ∧ 0 % 3 ≠ 2 := by
  refine ⟨by decide +kernel, by decide, by decide⟩
/-- No lane passes; an executing lane's destination is empty; a source is empty, with its trap bit 0 and 1. -/
def emptyWarp (full : BitVec 24) : Warp := { tWarp 0 with threads := [{ Thread.new with full := full }] }
theorem witness_guards_and_empty : (∃ r, rolesOf (.iadd (onG 1) (.v 4) (sv 1) (sv 2)) = some r ∧ ∃ g, r.guard = some g ∧ Thread.new.g.getLsbD g.index.val = g.sense) ∧
    (∃ r, rolesOf (.iadd bareH (.v 4) (sv 1) (sv 2)) = some r ∧ r.guard = none ∧ r.writes = [.v 4]) ∧
    (emptyWarp 0xFFFFEF).isFull 0 (.v 4) = false ∧ (tState (emptyWarp 0xFFFFFD) 0 [0]).bad = [] ∧
    ((tIssue (emptyWarp 0xFFFFFD) 0 [0]).exec bareH).filter (fun l => !(emptyWarp 0xFFFFFD).isFull l (.v 1)) ≠ [] ∧ (emptyWarp 0xFFFFFD).isFull 0 (.v 2) = true ∧ (emptyWarp 0xFFFFFD).isFull 0 (.v 4) = true :=
  ⟨⟨_, rfl, ⟨1, false⟩, by decide⟩, ⟨_, rfl, by decide, by decide⟩, by decide, rfl, by decide, by decide, by decide⟩
/-- Taking a trap: with an entry and without, in trap mode as a warp thread with a herder that can take the notice, and as the herder. -/
def trapWarp (entry : Word) (mode : Bool) : Warp := { tWarp 0 with threads := [{ Thread.new with trapvec := entry, trapMode := mode }] }
theorem witness_taking_a_trap : (∀ e m u, u = 0 ∨ u = 32 → (tState (trapWarp e m) u [0]).thread? 0 0 u 0 = some { Thread.new with trapvec := e, trapMode := m }) ∧
    (∃ fl wg h, lit.flock? 0 = some fl ∧ fl.status = .resident ∧ lit.wg? 0 0 = some wg ∧ wg.herder = some h) ∧ (0x00FFFFFF : Word).toNat % 2 ^ 24 ≠ 0 ∧ (0xFF000000 : Word).toNat % 2 ^ 24 = 0 :=
  ⟨fun e m u h => h.elim (fun h => by subst h; rfl) (fun h => by subst h; rfl), ⟨_, _, _, rfl, rfl, rfl, rfl⟩, by decide, by decide⟩
def noticeState (e : Word) (n : Notice) : State :=
  { State.reset with flocks := [tFlock { tWg { tWarp 0 with threads := [{ Thread.new with life := .held ⟨4, 0, 1⟩, trapMode := true, trappc := 9, trapcause := 4 }] } with
      herder := some (trapWarp e false), notices := [n] }] }
theorem witness_herder_notices : let s := noticeState 8 (.nested 0 0)
    s.subject.k = 0 ∧ s.subject.m = 0 ∧ (∃ wg h, s.wg? 0 0 = some wg ∧ wg.herder = some h ∧ (h.thread 0).life = .live ∧ (h.thread 0).trapMode = false ∧ h.threads ≠ [] ∧ wg.notices = [.nested 0 0]) ∧
    (∃ wg h, (noticeState 0 (.xfthresh 64)).wg? 0 0 = some wg ∧ wg.notices = [.xfthresh 64] ∧ wg.herder = some h ∧ (h.thread 0).trapvec.toNat % 2 ^ 24 = 0) ∧ (8 : Word).toNat % 2 ^ 24 ≠ 0 ∧
    (∃ q, s.thread? 0 0 0 0 = some q ∧ q.life = .held ⟨4, 0, 1⟩ ∧ q.trapcause ≠ 0x07) :=
  ⟨rfl, rfl, ⟨_, _, rfl, rfl, rfl, rfl, by decide, rfl⟩, ⟨_, _, rfl, rfl, rfl, by decide⟩, by decide, ⟨_, rfl, rfl, by decide⟩⟩
/-- The thread that a TRET from NESTED releases, by the low bits of TRAPADDR. -/
theorem witness_tret_from_nested : let t : Thread := { Thread.new with trapcause := 0x10, trapaddr := 0 * 2 ^ 5 + 0, trapMode := true }
    let s := { noticeState 8 (.nested 0 0) with flocks := [tFlock { tWg { tWarp 0 with threads := [{ Thread.new with life := .held ⟨4, 0, 1⟩, trappc := 9, trapcause := 4 }] } with
      herder := some { tWarp 0 with threads := [t] } }] }
    s.thread? 0 0 32 0 = some t ∧ t.trapaddr.toNat % 2 ^ 10 = 0 * 2 ^ 5 + 0 ∧ (∃ q, s.thread? 0 0 0 0 = some q ∧ q.life = .held ⟨4, 0, 1⟩ ∧ q.trapcause ≠ 0x07) :=
  ⟨rfl, by decide, ⟨_, rfl, rfl, by decide⟩⟩
theorem witness_step_keeps_memories : State.reset.memoriesWf = true ∧ State.reset.scratchWf = true ∧ State.reset.coresWf = true ∧ nopState.memoriesWf = true ∧ nopState.scratchWf = true ∧ nopState.coresWf = true ∧
    goes (Sys2Proof.Machine.step nopState) = true := by decide +kernel
theorem witness_groups_of_a_warp : Memory.wf [⟨0, 1⟩, ⟨7, 2⟩] = true ∧ (tWarp 2).groups = [⟨0, false, false, [0, 1]⟩] ∧
    { tWarp 0 with threads := [Thread.new, { Thread.new with hold := .wsyncPast }] }.groups = [⟨0, false, true, [1]⟩, ⟨0, false, false, [0]⟩] := by decide +kernel

/-- R20: a step of a NOP moves the PC by one; of a MOVL by two. -/
theorem test_step_nop : (match Sys2Proof.Machine.step nopState with | .next t => (t.thread? 0 0 0 0).map fun q => q.pc | _ => none) = some 1 := by decide +kernel
theorem test_step_movl : (match Sys2Proof.Machine.step (State.reset.withFetchWord 64 (0x00846000 + 0x40490FDB * 2 ^ 32)) with
    | .next t => (t.thread? 0 0 0 0).map fun q => (q.v[3], q.pc) | _ => none) = some (0x40490FDB, 2) := by decide +kernel
/-- R329: TRAP 5 takes cause 0x25 with TRAPPC after the chain. -/
theorem test_trap : (match Sys2Proof.Machine.exec (.trap bareH 5) (tState (trapWarp 8 false) 0 [0]) with
    | .next t => t.issue.map fun c => c.deferred | _ => none) = some [.trap 0 0x25] ∧
    (((tState (trapWarp 8 false) 0 [0]).applyDeferred (tIssue (trapWarp 8 false) 0 [0]) (.trap 0 0x25)).thread? 0 0 0 0).map (fun q => (q.trapcause, q.trappc, q.pc, q.trapMode)) = some (0x25, 1, 8, true) := by
  decide +kernel

/-! ## CrookInterpreter, ResultsAndEnds, AbortsPoolsAndFolding -/

def crookState (r : CrookRun) : State := (State.reset.benchCrook 0x98000000).modPart 0 fun q => { q with sched := { q.sched with run := some r } }
def crookRun (cycles cand : Nat) (cands : List Nat) : CrookRun :=
  { kind := 0, cands := cands, fields := [], globals := [], cand := cand, op := 0, k := Vector.replicate 16 3, scores := [0, 0], verdict := 0, cycles := cycles, overBudget := false }
/-- A run within its budget and one whose next operation is beyond it; with a candidate to come, at 2,046 cycles and at 2,047; and at its last one. -/
theorem witness_crook : (∀ r, ((crookState r).part 0).sched.run = some r) ∧ (∀ r, ((crookState r).part 0).sched.active = some [0x98000000]) ∧ (crookRun 0 0 [1]).overBudget = false ∧
    2048 < 2048 + 1 ∧ 2047 + 1 ≤ 2048 ∧ (crookRun 0 0 [1, 2]).cand + 1 < (crookRun 0 0 [1, 2]).cands.length ∧ 2045 + 1 + 2 ≤ 2048 ∧ 2048 < 2046 + 1 + 2 ∧
    (crookRun 0 0 [1]).cands.length ≤ (crookRun 0 0 [1]).cand + 1 := by
  refine ⟨fun r => rfl, fun r => rfl, rfl, ?_, ?_, ?_, ?_, ?_, ?_⟩ <;> decide +kernel
theorem test_crook_sub_signed : (match Sys2Proof.Machine.exec (.crkMin 1 2 3) (crookState { crookRun 0 0 [1] with k := (Vector.replicate 16 5).set 2 0xFFFFFFFF }) with
    | .next t => ((t.part 0).sched.run.map fun r => (r.k[1], r.cycles, r.op)) | _ => none) = none ∧
    (match Sys2Proof.Machine.exec (.crkMin 1 2 3) ((crookState { crookRun 0 0 [1] with k := (Vector.replicate 16 5).set 2 0xFFFFFFFF }).modPart 0 fun q =>
      { q with sched := { q.sched with active := some [1, 2] } }) with
    | .next t => ((t.part 0).sched.run.map fun r => (r.k[1], r.cycles, r.op)) | _ => none) = some (0xFFFFFFFF, 1, 1) := by decide +kernel
def landing (host : Bool) (peer : Option Nat) : Landing :=
  { f := 0, m := 0, u := 0, lanes := [0], dests := regSpan (.v 4) 2, vals := [1, 2], pipeF := false, inv := true, ovf := false, host := host, peer := peer }
def landState (l : Landing) (on : Bool) : State := { tState (tWarp 1) 0 [0] with landings := [l], subject := { on := on } }
theorem witness_results_land : (∀ h on, (landState (landing h none) on).landings[(landState (landing h none) on).subject.k]? = some (landing h none)) ∧
    (landing true none).dests = regSpan (.v 4) 2 ∧ (landState (landing true none) true).subject.on = true := ⟨fun _ _ => rfl, rfl, rfl⟩
def request (convert : Option (Word × Nat × Bool)) : RandomRequest :=
  { f := 0, m := 0, u := 0, lanes := [0], lane := 0, seq := 0, srseed := 0, dest := .v 4, convert := convert, drop := false }
theorem witness_random_delivery : let s := { tState (tWarp 1) 0 [0] with randoms := [request none, request (some (0x3F800000, 1, true))] }
    s.randoms[s.subject.k]? = some (request none) ∧ s.contractNo 0 ≠ 0 ∧ { s with subject := { k := 1 } }.randoms[1]? = some (request (some (0x3F800000, 1, true))) := ⟨rfl, by decide, rfl⟩
/-- A workgroup of which nothing is left, and one with a live thread. -/
def goneState : State := { State.reset with flocks := [tFlock { tWg { tWarp 0 with threads := [{ Thread.new with life := .ended }, { Thread.new with life := .absent }] } with herder := none }] }
theorem witness_workgroup_end : (∃ fl wg, goneState.flock? 0 = some fl ∧ fl.wgs[0]? = some wg ∧ fl.status = .resident ∧
      ((∀ w ∈ wg.warps, ∀ t ∈ w.threads, t.life = .ended ∨ t.life = .absent) ∧ wg.herder = none ∧ wg.matQ = [] ∧ wg.copies = [] ∧ ∀ q ∈ fl.wgs.zipIdx, q.1.matQ = [])) ∧
    (∃ fl wg, lit.flock? 0 = some fl ∧ fl.wgs[0]? = some wg ∧ ∃ w ∈ wg.warps, ∃ t ∈ w.threads, ¬(t.life = .ended ∨ t.life = .absent)) :=
  ⟨⟨_, _, rfl, rfl, rfl, by decide +kernel, rfl, rfl, rfl, by decide +kernel⟩, ⟨_, _, rfl, rfl, _, List.mem_cons_self, Thread.new, by decide +kernel, by decide⟩⟩
/-- A flock of an issued task that is stopping, and the launch with a time limit. -/
def abortState (cause : Nat) (limit ticked : Nat) : State :=
  { State.reset with flocks := [{ tFlock (tWg (tWarp 1)) with status := if cause = 0 then .resident else .aborting cause 0 0 0 0 5 }], subject := { k := 0 }, landings := [landing true (some 2)] }.modPart 0 fun q =>
    { q with window := [{ benchTask q with launch := some { benchLaunch with limit := limit }, ticked := ticked }] }
theorem witness_aborts : (∃ t, (abortState 4 2 2048).task? 0 1 = some t ∧ t.isFaulted = false ∧ t.done = false ∧ t.launch = some { benchLaunch with limit := 2 } ∧ t.ticked = 2048) ∧
    0 < (abortState 4 2 2048).partitions.length ∧ (∃ fl, (abortState 4 2 2048).flock? 0 = some fl ∧ fl.p = 0 ∧ fl.seq = 1 ∧ fl.status = .aborting 4 0 0 0 0 5) ∧ 5 < 2 ^ 24 ∧ 4 < 0x40 ∧
    { landing true (some 2) with since := 0 }.since + 2 ^ 22 ≤ 2 ^ 22 ∧ 1024 * 2 ≤ 2048 ∧ 2047 < 1024 * 2 ∧ (∃ fl, (abortState 0 0 0).flock? 0 = some fl ∧ fl.status = .resident) ∧ (abortState 0 0 0).landings[0]? = some (landing true (some 2)) ∧
    (landing true (some 2)).host = true ∧ (landing true (some 2)).peer ≠ none ∧ (abortState 0 0 0).subject.on = false :=
  ⟨⟨_, rfl, by decide, by decide, rfl, rfl⟩, by decide, ⟨_, rfl, rfl, rfl, rfl⟩, by decide, by decide, by decide, by decide, by decide, ⟨_, rfl, rfl⟩, rfl, rfl, by decide, rfl⟩
/-- A pool with one record of target 3, while a place is free. -/
def poolWith (arrived flush cycle : Nat) (drains : Bool) : State :=
  let l := { benchLaunch with pool := some 0, poolN := 2, capacity := 4, flush := flush }
  { State.reset with cycle := cycle, subject := { k := 1, m := 3 } }.modPart 0 fun q =>
    { q with
      window := [{ benchTask q with op := 0x02, flags := 1, launch := some l }] ++ (if drains then [] else [{ benchTask q with seq := 0, launch := some { benchLaunch with pool := none } }])
      pools := [⟨0, 1, [⟨[3, 2, 8, 9, 0, 0, 0, 0], arrived⟩], 0, []⟩], sched := { q.sched with grant := 8 } }
theorem witness_pool_warps : let s := poolWith 0 100 100 true
    s.subject.p = 0 ∧ s.subject.k = 1 ∧ s.subject.m = 3 ∧ 0 < s.partitions.length ∧ (∃ q task l, (s.part 0).pools = [q] ∧ q.seq = 1 ∧ s.task? 0 1 = some task ∧ task.launch = some l ∧ task.status = .issued ∧
      l.pool ≠ none ∧ l.m = 1 ∧ l.s = 1 ∧ q.records.filter (fun r => decide (r.target = 3)) = q.records ∧ q.records ≠ [] ∧ q.records.length ≤ 32 ∧
      (∀ r, q.records.head? = some r → r.arrived + l.flush ≤ s.cycle)) ∧
    (s.placesFor 0 { benchLaunch with pool := some 0, poolN := 2, capacity := 4, flush := 100 }).isEmpty = false := by
  refine ⟨rfl, rfl, rfl, by decide, ⟨_, _, _, rfl, rfl, rfl, rfl, rfl, by decide, rfl, rfl, by decide, by decide, by decide, fun r h => ?_⟩, by decide +kernel⟩
  cases h; decide
/-- PoolWarps: a record that has not waited enough; a pool that may still gain one; and a warp to place, with nothing else to decide. -/
def placeState : State :=
  let l := { benchLaunch with pool := some 0, poolN := 2, capacity := 4 }
  { State.reset with subject := { k := 1 } }.modPart 0 fun q =>
    { q with window := [{ benchTask q with op := 0x02, launch := some l }], pools := [⟨0, 1, [], 1, [(0, [⟨[3, 2, 8, 9, 0, 0, 0, 0], 0⟩])]⟩], sched := { q.sched with grant := 8 } }
theorem witness_pool_placement : 99 < 0 + 100 ∧ (poolWith 0 100 99 true).poolDry 0 1 = true ∧ (poolWith 0 100 99 false).poolDry 0 1 = false ∧
    (∃ q task l, (placeState.part 0).pools = [q] ∧ q.warps = [(0, [⟨[3, 2, 8, 9, 0, 0, 0, 0], 0⟩])] ∧ (placeState.part 0).window = [task] ∧ task.launch = some l ∧ l.m = 1 ∧ l.s = 1 ∧
      task.status = .issued ∧ (placeState.placesFor 0 l).isEmpty = false) ∧
    placeState.foldedFlocks 0 1 = [] ∧ (placeState.part 0).sched.run = none ∧ (placeState.part 0).sched.shadow = none ∧ (placeState.part 0).sched.active = none ∧
    (placeState.part 0).sched.preempts = [] ∧ placeState.overGrant 0 = false ∧ (placeState.part 0).faults = [] := by
  refine ⟨by decide, by decide +kernel, by decide +kernel, ⟨_, _, _, rfl, rfl, rfl, rfl, rfl, rfl, by decide +kernel, by decide +kernel⟩, rfl, rfl, rfl, rfl, rfl, by decide +kernel, rfl⟩
/-- Folding: a drained flock, a halt that HALTRES names, and a live thread. -/
def foldState (st : FlockStatus) : State := { State.reset with flocks := [{ tFlock (tWg (tWarp 1)) with status := st }], subject := { x := 7 } }
theorem witness_folding : (∃ fl, (foldState (.folding none)).flock? 0 = some fl ∧ fl.status = .folding none ∧ (foldState (.folding none)).drained 0 fl = true ∧ (foldState (.folding none)).memoriesWf = true ∧
      fl.seq < 2 ^ 64 ∧ fl.launch.m * fl.launch.s < 2 ^ 32 ∧ fl.hurdles.length = 16) ∧
    (∃ fl, (foldState (.folded 4096 (some (1, 7)))).flock? 0 = some fl ∧ fl.p = 0 ∧ fl.status = .folded 4096 (some (1, 7))) ∧
    (foldState (.folded 4096 (some (1, 7)))).subject.x.setWidth 32 = (7 : Word) ∧ Thread.new.life = .live ∧ ((foldState (.folding none)).part 0).waitingRecs = [] :=
  ⟨⟨_, rfl, rfl, by decide +kernel, by decide +kernel, by decide, by decide, rfl⟩, ⟨_, rfl, rfl, rfl⟩, by decide, rfl, by decide +kernel⟩

/-! ## Engines: TileCopies, Transforms -/

/-- What an engine's answer holds, if it is one. -/
def valX {α : Type} (d : α) (r : XRes α) : α := match r with | .ok x => x | _ => d
def okX {α : Type} (r : XRes α) : Bool := match r with | .ok _ => true | _ => false
theorem eqX {α : Type} (d : α) {r : XRes α} (h : okX r = true) : r = .ok (valX d r) := by
  cases r with
  | ok x => rfl
  | absent _ _ => cases h
  | err _ => cases h
  | poor _ => cases h
  | lost => cases h
def valE {α : Type} (d : α) (r : EngineRes α) : α := match r with | .ok x => x | _ => d
def okE {α : Type} (r : EngineRes α) : Bool := match r with | .ok _ => true | _ => false
theorem eqE {α : Type} (d : α) {r : EngineRes α} (h : okE r = true) : r = .ok (valE d r) := by
  cases r with
  | ok x => rfl
  | absent _ => cases h
  | err _ => cases h
theorem pairX {α β : Type} {r : XRes (α × β)} (h : okX r = true) : ∃ a b, r = .ok (a, b) := by
  cases r with
  | ok x => exact ⟨x.1, x.2, rfl⟩
  | absent _ _ => cases h
  | err _ => cases h
  | poor _ => cases h
  | lost => cases h
theorem pairE {α β : Type} {r : EngineRes (α × β)} (h : okE r = true) : ∃ a b, r = .ok (a, b) := by
  cases r with
  | ok x => exact ⟨x.1, x.2, rfl⟩
  | absent _ => cases h
  | err _ => cases h
theorem pairW {α β : Type} {r : α × EngineRes β} (h : okE r.2 = true) : ∃ b, r = (r.1, .ok b) := by
  obtain ⟨a, r⟩ := r
  cases r with
  | ok x => exact ⟨x, rfl⟩
  | absent _ => cases h
  | err _ => cases h
/-- A layout record of a BF16 tensor of 4 by 2 by 1 at an address, its box 4 by 2. -/
def layoutBytes (base : Nat) : List Byte :=
  leBytes 8 base ++ leBytes 4 4 ++ leBytes 4 2 ++ leBytes 4 1 ++ leBytes 4 0 ++ leBytes 8 8 ++ leBytes 8 16 ++ leBytes 1 0 ++ leBytes 1 0 ++ leBytes 1 3 ++ leBytes 1 1 ++ leBytes 20 0
/-- A command whose box begins one column left of the tensor, to the scratchpad or to the tensor, with barrier object and token. -/
def copyCmd (out finished : Bool) (record : Option (List Byte)) (error : Nat) : CopyCmd :=
  { words := [BitVec.ofNat 32 (2 ^ 14 + 2 ^ 13 + (if out then 2 ^ 12 else 0) + 9 * 2 ^ 16), 4 * 2 ^ 15, 0xFFFFFFFF, 0], stampMask := false, record := record, u := 0, lane := 0, pc := 0, row := 0, part := 0, moved := 0, masked := false,
    error := error, finished := finished, fault := none }
def copyState (c : CopyCmd) : State :=
  let s := pageState (tWarp 1) [0]
  { s with flocks := [tFlock { tWg (tWarp 1) with copies := [c], scratch := [⟨1, 7⟩] }], subject := {} }
def copyFl (c : CopyCmd) : Flock := tFlock { tWg (tWarp 1) with copies := [c], scratch := [⟨1, 7⟩] }
def inCmd : CopyCmd := copyCmd false false (some (layoutBytes 64)) 0
def outCmd : CopyCmd := copyCmd true false (some (layoutBytes 64)) 0
def wordOf (c : CopyCmd) (k : Nat) : Nat := (c.words.getD k 0).toNat
theorem copyRuns_eq : copyRunsOf (wordOf inCmd) (parseLayout (layoutBytes 64)) = [(128, 4, 12), (144, 36, 12)] ∧
    copyRunsOf (wordOf outCmd) (parseLayout (layoutBytes 64)) = [(128, 4, 12), (144, 36, 12)] := by decide +kernel
/-- The states before, between and after the reads of the two runs. -/
def inStates (j : Nat) : State := (([(128, 4, 12), (144, 36, 12)] : List (Nat × Nat × Nat)).take j).foldl (fun s q => s.served 0 (q.1 / 2) ((q.1 + q.2.2 - 1) / 2 - q.1 / 2 + 1)) (copyState inCmd)
theorem witness_tile_copy : let s := copyState inCmd
    let l := parseLayout (layoutBytes 64)
    s.subject.k = 0 ∧ s.subject.m = 0 ∧ s.flock? 0 = some (copyFl inCmd) ∧ (∃ wg, s.wg? 0 0 = some wg ∧ wg.copies = inCmd :: [] ∧ Memory.wf wg.scratch = true) ∧
    copyFits (copyFl inCmd) (wordOf inCmd) l ∧ (copyFl inCmd).launch.debug = false ∧ s.bad = [] ∧ (wordOf inCmd 0).testBit 12 = false ∧
    (inCmd.row = 0 ∧ inCmd.part = 0 ∧ inCmd.moved = 0 ∧ inCmd.error = 0 ∧ inCmd.record = some (layoutBytes 64) ∧ inStates 0 = s ∧ inCmd.finished = false ∧ inCmd.fault = none) ∧
    (∀ j ta sa n, (copyRunsOf (wordOf inCmd) l)[j]? = some (ta, sa, n) → inStates (j + 1) = (inStates j).served 0 (ta / 2) ((ta + n - 1) / 2 - ta / 2 + 1) ∧
      ∃ data y, (inStates (j + 1)).readNibs 0 (some ⟨8, false⟩) ta n = .ok (data, y) ∧ data.length = n ∧ ∀ x ∈ data, x < 16) ∧
    ∃ bs x, s.readLayout 0 0 (some ⟨8, false⟩) = .ok (bs, x) := by
  have read (j ta n : Nat) (h : (match (inStates (j + 1)).readNibs 0 (some ⟨8, false⟩) ta n with | .ok x => decide (x.1.length = n ∧ ∀ y ∈ x.1, y < 16) | _ => false) = true) :
      ∃ data y, (inStates (j + 1)).readNibs 0 (some ⟨8, false⟩) ta n = .ok (data, y) ∧ data.length = n ∧ ∀ x ∈ data, x < 16 := by
    cases e : (inStates (j + 1)).readNibs 0 (some ⟨8, false⟩) ta n with
    | ok x => rw [e] at h; exact ⟨x.1, x.2, rfl, of_decide_eq_true h⟩
    | absent _ => rw [e] at h; cases h
    | err _ => rw [e] at h; cases h
  refine ⟨rfl, rfl, rfl, ⟨_, rfl, rfl, by decide⟩, by unfold copyFits; decide +kernel, rfl, rfl, by decide +kernel, ⟨rfl, rfl, rfl, rfl, rfl, rfl, rfl, rfl⟩, ?_, pairE (by decide +kernel)⟩
  intro j ta sa n h
  rw [copyRuns_eq.1] at h
  match j with
  | 0 => cases h; exact ⟨by simp only [inStates, List.take, List.foldl], read 0 128 12 (by decide +kernel)⟩
  | 1 => cases h; exact ⟨by simp only [inStates, List.take, List.foldl], read 1 144 12 (by decide +kernel)⟩
  | j + 2 => cases h
/-- The same command towards the tensor: the states before, between and after the writes of the two runs. -/
def outNibs (q : Nat × Nat × Nat) : List Nat := (List.range q.2.2).map fun k => nibbleOf [⟨1, 7⟩] (q.2.1 + k)
def outStates (j : Nat) : State := (([(128, 4, 12), (144, 36, 12)] : List (Nat × Nat × Nat)).take j).foldl (fun s q => (s.writeNibs 0 (some ⟨8, false⟩) q.1 (outNibs q) (outCmd.writer 0 0 (copyFl outCmd))).1) (copyState outCmd)
theorem witness_tile_copy_out : (wordOf outCmd 0).testBit 12 = true ∧
    ∀ j ta sa n, (copyRunsOf (wordOf outCmd) (parseLayout (layoutBytes 64)))[j]? = some (ta, sa, n) →
      ∃ y, (outStates j).writeNibs 0 (some ⟨8, false⟩) ta (outNibs (ta, sa, n)) (outCmd.writer 0 0 (copyFl outCmd)) = (outStates (j + 1), .ok y) := by
  refine ⟨by decide, fun j ta sa n h => ?_⟩
  rw [copyRuns_eq.2] at h
  match j with
  | 0 => cases h; exact pairW (by decide +kernel)
  | 1 => cases h; exact pairW (by decide +kernel)
  | j + 2 => cases h
/-- R300: a command with a reserved bit; one that is finished, one that a fault holds. -/
theorem witness_tile_copy_refused : 2 ^ 28 ≤ wordOf { inCmd with words := [0x10000000, 0, 0, 0] } 0 ∧ (wordOf { inCmd with words := [0x8000, 0, 0, 0] } 0).testBit 15 = true ∧
    2 ^ 30 ≤ wordOf { inCmd with words := [0, 0x40000000, 0, 0] } 1 ∧ { inCmd with fault := some 1 }.fault ≠ none := by decide
/-- Completions: a good copy, a failed one whose object takes the code, and one that is not finished. -/
theorem witness_tile_copy_completes : let c := copyCmd false true (some (layoutBytes 64)) 0
    (∃ wg, (copyState c).wg? 0 0 = some wg ∧ wg.copies = [c] ∧ Memory.wf wg.scratch = true ∧ wg.waits = []) ∧ (copyState c).flock? 0 = some (copyFl c) ∧ c.finished = true ∧ c.error < 256 ∧
    (copyState c).object 0 0 64 = [0, 0, 0, 0] ∧ 16 * ((c.words.getD 1 0).toNat / 2 ^ 15 % 2 ^ 15) = 64 ∧ (c.words.getD 0 0).toNat.testBit 14 = true ∧ 64 + 16 ≤ (copyFl c).launch.scratch ∧
    (copyCmd false true none 0x10).error < 256 ∧ (copyCmd false false none 0).finished = false ∧
    (c.words.getD 1 0).toNat % 2 ^ 15 + ((parseLayout (layoutBytes 64)).box0 * (parseLayout (layoutBytes 64)).nibs / 2 + 15) / 16 * (parseLayout (layoutBytes 64)).box1 ≤ 24576 :=
  ⟨⟨_, rfl, rfl, by decide, rfl⟩, rfl, rfl, by decide, by decide +kernel, by decide, by decide, by decide, by decide, rfl, by decide +kernel⟩

/-- A stream of an opcode between two tensors of pages, at a position; its job control block lies at 4,096. -/
def stream (op pos : Nat) : Stream :=
  { p := 0, die := 0, op := op, k := 0, contract := 8, stampMask := false, jcb := 4096, src := 0, dst := 1, srcRec := some (parseLayout (layoutBytes 0)), dstRec := some (parseLayout (layoutBytes 256)), refusal := 0
    wg := some (0, 0), bar := none, task := none, lattice := none, ka := 0, kb := 0, counter := 0, pos := pos, chosen := [], flags := 0, masked := false, error := 0, active := true
    started := true, finished := false, penned := false, fault := none, need := 0, turnAt := 0 }
def xState (st : Stream) : State := { pageState (tWarp 1) [0] with streams := [st], subject := {} }
/-- The last turn of a COPY: its second row. -/
def xS : State := xState (stream 0 4)
def xG : Segment := (xS.xElems (stream 0 4) (parseLayout (layoutBytes 0)) (parseLayout (layoutBytes 256)) 1 0 1 4 0 4 { chosen := [] }).1
def xU1 : State × Bool := valX (xS, false) (xS.writeScales (stream 0 4) (parseLayout (layoutBytes 256)).sbase xG.scales)
def xU2 : State × Bool := valX (xS, false) (xU1.1.xWrite (stream 0 4) 256 ((parseLayout (layoutBytes 256)).nibAddr 0 1 0) xG.nibs)
def xU3 : State × Bool := valX (xS, false) (xU2.1.copyScales (stream 0 4) (parseLayout (layoutBytes 0)) (parseLayout (layoutBytes 256)))
def xU4 : State × Nat × Bool := valX (xS, 0, false) (xU3.1.addCounts (stream 0 4) xG.counts)
theorem witness_transform_turn : (stream 0 4).layouts = some (parseLayout (layoutBytes 0), parseLayout (layoutBytes 256)) ∧ (parseLayout (layoutBytes 256)).base = 256 ∧ xS.subject.k = 0 ∧ xS.streamDebug (stream 0 4) = false ∧ xS.streams[0]? = some (stream 0 4) ∧ xformEvents[0]? = some .xformCopy ∧ transformCheck (stream 0 4) (parseLayout (layoutBytes 0)) (parseLayout (layoutBytes 256)) = 0 ∧
    4 < 4 * 2 * 1 ∧ max 1 (min (4 - 0) ((4096 - (parseLayout (layoutBytes 256)).nibAddr 0 1 0 % 4096) / (parseLayout (layoutBytes 256)).nibs)) = 4 ∧
    okX (xS.xElems (stream 0 4) (parseLayout (layoutBytes 0)) (parseLayout (layoutBytes 256)) 1 0 1 4 0 4 { chosen := [] }).2 = true ∧
    xS.writeScales (stream 0 4) (parseLayout (layoutBytes 256)).sbase xG.scales = .ok xU1 ∧ xU1.1.xWrite (stream 0 4) 256 ((parseLayout (layoutBytes 256)).nibAddr 0 1 0) xG.nibs = .ok xU2 ∧
    xU2.1.copyScales (stream 0 4) (parseLayout (layoutBytes 0)) (parseLayout (layoutBytes 256)) = .ok xU3 ∧
    xU3.1.addCounts (stream 0 4) xG.counts = .ok xU4 ∧ xU4.2.1 ||| 0 = 0 :=
  ⟨rfl, by decide +kernel, rfl, by decide +kernel, rfl, rfl, by decide +kernel, by decide, by decide +kernel, by decide +kernel, eqX (xS, false) (by decide +kernel), eqX (xS, false) (by decide +kernel), eqX (xS, false) (by decide +kernel),
   eqX (xS, 0, false) (by decide +kernel), by decide +kernel⟩
/-- A GATHER's row number, read through its block. -/
theorem witness_transform_row : ∃ row b, (xState (stream 7 0)).rowIndex (stream 7 0) 0 = .ok (row, b) := pairX (by decide +kernel)
/-- Every element and scale that an opcode reads can be read; the values that the choices of scale speak of. -/
theorem witness_transform_elements : (∀ op, op < 11 → okX ((xState (stream op 0)).xNum (stream op 0) 0 0 4) = true ∧ okX ((xState (stream op 0)).xNum (stream op 0) 0 (2 * 64) 1) = true ∧
      okX ((xState (stream op 0)).sourceValue (stream op 0) (parseLayout (layoutBytes 0)) true 0 0 0) = true) ∧
    [Val.fin false 3 1].any Val.isNan = false ∧ amaxOf [Val.fin false 3 1] = .fin false 3 1 ∧ [Val.nan].any Val.isNan = true ∧ (3 : Nat) ≠ 0 := by
  refine ⟨?_, ?_, ?_, ?_, ?_⟩ <;> decide +kernel
/-- Streams that are done, that wait for chunks, and a chain to reclaim before and at 2,600 cycles. -/
theorem witness_transforms_end : (∃ st, { xS with streams := [{ stream 0 8 with finished := true }] }.streams[0]? = some st ∧ st.finished = true ∧ st.fault = none ∧ st.need = 0 ∧ st.wg = some (0, 0) ∧ st.task = none) ∧
    (∃ u b, xS.xWriteBytes (stream 0 8) 2 (4096 + 52) (leBytes 4 256) = .ok (u, b)) ∧ xS.translate 0 (4096 + 52) .write = .leaf (pageLeaf 0 0x40000 0) ∧ (stream 0 8).noStatus = false ∧
    (stream 0 8).finished = false ∧ (∀ fl, xS.flock? 0 = some fl → fl.status = .resident) ∧
    0 < { stream 0 8 with need := 3 }.need ∧ ({ State.reset with reclaims := [⟨0, [5], 10, 0⟩] } : State).reclaims = [⟨0, [5], 10, 0⟩] ∧ (State.reset.part 0).mem.avail = 0 ∧
    (∀ q, q < 8 * State.reset.device.clusters → 10 < assocGet 0 State.reset.clocks q + 352 / 32) ∧ ¬(10 < assocGet 0 State.reset.clocks 0 + 351 / 32) := by
  refine ⟨⟨_, rfl, rfl, rfl, rfl, rfl, rfl⟩, pairX (by decide +kernel), by decide +kernel, rfl, rfl, fun fl h => ?_, by decide, rfl, rfl, fun q _ => ?_, by decide⟩
  · cases h; rfl
  · show 10 < 0 + 11; omega
/-- R301: the copied tile's bytes, with a first column out of bounds. -/
theorem test_tile_copy : (match Sys2Proof.Machine.exec .tileCopyToScratchpad { copyState (copyCmd false false (some (layoutBytes 0x80000000)) 0) with hostMem := [⟨0, 1⟩, ⟨5, 2⟩, ⟨8, 3⟩] } with
    | .next t => (t.wg? 0 0).map fun wg => (wg.scratch, wg.copies.map fun c => (c.moved, c.error, c.finished)) | _ => none) =
      some ([⟨1, 7⟩, ⟨2, 1⟩, ⟨7, 2⟩, ⟨18, 3⟩], [(12, 0, true)]) := by decide +kernel
/-- R316: CAST between two BF16 tensors keeps 1.0, in the counts too. -/
theorem test_transform_cast : (match Sys2Proof.Machine.exec .transformTurn (xState { stream 1 4 with srcRec := some (parseLayout (layoutBytes 0x80000000)), dstRec := some (parseLayout (layoutBytes 0x80000100)) }) with
    | .next t => some (t.hostMem, t.streams.map fun q => (q.pos, q.finished)) | _ => none) = some ([], [(8, true)]) := by decide +kernel

/-! ## Bulk queues and the task window: BulkQueues, RecordsEnterWindow, TasksOfTheWindow, RegistersAndFaultCommands -/

/-- A state whose partition 0 is changed and whose third GiB is host memory of given bytes. -/
def hostState (bs : List Byte) (g : Partition → Partition) : State := { pageState (tWarp 1) [0] with flocks := [], issue := none, hostMem := cellsWrite [] 0 bs }.modPart 0 g
def packet (op flags handle ctr : Nat) (value : Nat) (valid : Nat) : List Byte :=
  leBytes 1 valid ++ leBytes 1 op ++ leBytes 2 flags ++ leBytes 2 handle ++ leBytes 2 0 ++ leBytes 8 0x80001000 ++ leBytes 8 0x80002000 ++ leBytes 4 8 ++ leBytes 4 1 ++
    leBytes 8 8 ++ leBytes 8 8 ++ leBytes 8 value ++ leBytes 2 ctr ++ leBytes 6 0
/-- A bound queue whose ring lies at 0x80000000, with a descriptor at 0x80000400. -/
def queue0 : BulkQueue :=
  { desc := 0x80000400, bound := true, ring := 0x80000000, log2 := 4, tl := 5, countbase := 0, read := 0, done := 0, begun := false, moved := 0, stopped := false, closing := false, fault := none }
def bulkState (bs : List Byte) : State := hostState bs fun q => { q with eng := { q.eng with bulk := q.eng.bulk.set 0 (some queue0), buffers := [(3, 2)] } }
def readsAs (bs : List Byte) : Bool := match (bulkState bs).readVa 0 none (queue0.ring + 64 * (queue0.read.toNat % 2 ^ queue0.log2)) 64 with | .ok (b, _) => b == bs | _ => false
theorem reads_of {bs : List Byte} (h : readsAs bs = true) : ∃ x, (bulkState bs).readVa 0 none (queue0.ring + 64 * (queue0.read.toNat % 2 ^ queue0.log2)) 64 = .ok (bs, x) := by
  unfold readsAs at h
  split at h
  · rename_i b x e; rw [e, eq_of_beq h]; exact ⟨x, rfl⟩
  · cases h
/-- Whether a queue's slot and descriptor can be written. -/
def donesB (s : State) (b : BulkQueue) : Bool :=
  let r := s.writeVa 0 none (b.ring + 64 * (b.read.toNat % 2 ^ b.log2)) (List.replicate 4 0) (b.writer 0 0)
  okE r.2 && okE (r.1.writeVa 0 none (b.desc + 24) (leBytes 4 (b.read + 1).toNat) (b.writer 0 0)).2
theorem done_of {s : State} {b : BulkQueue} (h : donesB s b = true) : ∃ v, PacketDone s 0 0 b v := by
  simp only [donesB, Bool.and_eq_true] at h
  obtain ⟨x, e⟩ := pairW h.1
  obtain ⟨y, e'⟩ := pairW h.2
  exact ⟨_, _, x, y, e, e'⟩
/-- The state once the L2 has served the read of the packet. -/
def bulkW (bs : List Byte) : State := (bulkState bs).served 0 0x80000000 64
/-- SIGNAL, WAIT with and without its value, COPY that drains a FULL buffer, FILL that needs a FREE one, an illegal packet and no packet. -/
theorem witness_bulk_packets : (∀ bs, (bulkState bs).queue? 0 0 = some queue0) ∧ (queue0.bound = true ∧ queue0.stopped = false ∧ queue0.fault = none ∧ queue0.ending = 0 ∧ queue0.begun = false) ∧
    (∀ bs ∈ [packet 3 1 0 7 9 1, packet 4 0 0 7 0 1, packet 4 0 0 7 1 1, packet 1 1 0x4003 0 0 1, packet 2 0 0x8003 0 0 1, packet 5 0 0 0 0 1, packet 0 0 0 0 0 0],
      (∃ x, (bulkState bs).readVa 0 none (queue0.ring + 64 * (queue0.read.toNat % 2 ^ queue0.log2)) 64 = .ok (bs, x)) ∧ ∃ v, PacketDone (bulkW bs) 0 0 queue0 v) ∧
    (∃ v, PacketDone ((bulkW (packet 3 1 0 7 9 1)).raise 0 7 9) 0 0 queue0 v) ∧
    packetLegal (field (packet 3 1 0 7 9 1)) ∧ packetLegal (field (packet 4 0 0 7 1 1)) ∧ packetLegal (field (packet 1 1 0x4003 0 0 1)) ∧ packetLegal (field (packet 2 0 0x8003 0 0 1)) ∧
    ¬packetLegal (field (packet 5 0 0 0 0 1)) ∧ field (packet 0 0 0 0 0 0) 0 1 = 0 ∧ field (packet 4 0 0 7 0 1) 48 8 ≤ (((bulkState []).part 0).counter 7).toNat ∧
    (((bulkState []).part 0).counter 7).toNat < field (packet 4 0 0 7 1 1) 48 8 ∧ ((bulkState []).part 0).buffer 3 = 2 ∧ 0 < field (packet 1 1 0x4003 0 0 1) 24 4 := by
  refine ⟨fun _ => rfl, ⟨rfl, rfl, rfl, rfl, rfl⟩, fun bs h => ⟨reads_of ?_, done_of ?_⟩, done_of (by decide +kernel), by unfold packetLegal; decide +kernel, by unfold packetLegal; decide +kernel,
    by unfold packetLegal; decide +kernel, by unfold packetLegal; decide +kernel, by unfold packetLegal; decide +kernel, by and_intros <;> decide +kernel⟩
  all_goals
    simp only [List.mem_cons, List.not_mem_nil, or_false] at h
    rcases h with rfl | rfl | rfl | rfl | rfl | rfl | rfl <;> decide +kernel
/-- A move of one run. -/
def movedTo (by_ : Writer) (s : State) (a b : Region) : State :=
  ((s.spaceServed 0 a.target (a.byteAt 0) (moveRun a b 0)).spaceWrite by_ 0 b.target b.peer (b.byteAt 0) (valE [] (s.spaceRead 0 a.target a.peer (a.byteAt 0) (moveRun a b 0)))).1
def movesB (by_ : Writer) (s : State) (a b : Region) : Bool :=
  decide (0 < a.rows * a.rowbytes) && decide (moveRun a b 0 = a.rows * a.rowbytes) && okE (s.spaceRead 0 a.target a.peer (a.byteAt 0) (moveRun a b 0)) &&
    okE ((s.spaceServed 0 a.target (a.byteAt 0) (moveRun a b 0)).spaceWrite by_ 0 b.target b.peer (b.byteAt 0) (valE [] (s.spaceRead 0 a.target a.peer (a.byteAt 0) (moveRun a b 0)))).2
theorem moves_of {by_ : Writer} {s : State} {a b : Region} (h : movesB by_ s a b = true) : Moves s by_ 0 a b (movedTo by_ s a b) := by
  simp only [movesB, Bool.and_eq_true, decide_eq_true_eq] at h
  obtain ⟨⟨⟨h0, h1⟩, h2⟩, h3⟩ := h
  refine ⟨1, fun j => if j = 0 then s else movedTo by_ s a b, fun j => j * (a.rows * a.rowbytes), rfl, Nat.zero_mul _, rfl, Nat.one_mul _, fun j hj => ?_⟩
  obtain rfl : j = 0 := by omega
  simp only [Nat.zero_mul, Nat.zero_add, Nat.one_mul, h1, if_true, if_neg (by decide : ¬(1 = 0))]
  refine ⟨h0, trivial, _, h1 ▸ eqE [] h2, ?_⟩
  obtain ⟨y, e⟩ := pairW h3
  rw [h1] at e
  rw [e]; cases y; simp only [movedTo, h1]
/-- The one row of the COPY, and of a FILL of a FREE buffer. -/
def bulkBegun : State := ((bulkW (packet 1 1 0x4003 0 0 1)).modQueue 0 0 fun b => { b with begun := true, moved := 0 }).setBuffer 0 3 3
def fillBegun : State := ((bulkW (packet 2 0 0x8004 0 0 1)).modQueue 0 0 fun b => { b with begun := true, moved := 0 }).setBuffer 0 4 1
theorem witness_bulk_moves : let a := packetRows 0x80002000 8 1 8
    let b := packetRows 0x80001000 8 1 8
    Moves bulkBegun (queue0.writer 0 0) 0 a b (movedTo (queue0.writer 0 0) bulkBegun a b) ∧ (∃ v, PacketDone ((movedTo (queue0.writer 0 0) bulkBegun a b).setBuffer 0 3 0) 0 0 queue0 v) ∧ ((bulkState []).part 0).buffer 4 = 0 ∧
    ∃ u y, fillBegun.writeVa 0 none 0x80001000 (List.replicate 8 0) (queue0.writer 0 0) = (u, .ok y) ∧ ∃ v, PacketDone (u.setBuffer 0 4 2) 0 0 queue0 v := by
  refine ⟨moves_of (by decide +kernel), done_of (by decide +kernel), by decide +kernel, ?_⟩
  obtain ⟨y, e⟩ := pairW (r := fillBegun.writeVa 0 none 0x80001000 (List.replicate 8 0) (queue0.writer 0 0)) (by decide +kernel)
  exact ⟨_, y, e, done_of (by decide +kernel)⟩
/-- BQDESC0: EN set on no queue, on one that an error stopped, set again on one that runs, and cleared with and without a packet in progress. -/
theorem witness_bulk_binding : let s := { hostState (packet 0 0 0 0 0 0) id with subject := { x := 0x80000001 } }
    let on (b : BulkQueue) : State := hostState [] fun q => { q with eng := { q.eng with bqdesc := q.eng.bqdesc.set 0 0x80000401, bulk := q.eng.bulk.set 0 (some b) } }
    0 < s.partitions.length ∧ (s.part 0).eng.bqdesc.length = 16 ∧ (s.part 0).eng.bulk.length = 16 ∧ (0x80000001 : DWord).getLsbD 0 = true ∧ ((s.part 0).eng.bqdesc.getD 0 0).getLsbD 0 = false ∧
    s.queue? 0 0 = none ∧ (0x80000001 : DWord).toNat / 64 % 2 ^ 50 * 64 = 0x80000000 ∧ (∃ bs y, s.readVa 0 none 0x80000000 64 = .ok (bs, y)) ∧
    (∃ u z, (s.served 0 0x80000000 64).writeVa 0 none 0x80000008 (leBytes 8 0) = (u, .ok z)) ∧
    (∀ b, ((on b).part 0).eng.bqdesc.getD 0 0 = 0x80000401 ∧ (on b).queue? 0 0 = some b) ∧ { queue0 with stopped := true }.stopped = true ∧ queue0.stopped = false ∧
    { queue0 with closing := true }.closing = true ∧ { queue0 with begun := true }.begun = true := by
  refine ⟨by decide +kernel, by decide, by decide +kernel, by decide, by decide +kernel, by decide +kernel, by decide, pairE (by decide +kernel), ?_, fun b => ⟨rfl, rfl⟩, rfl, rfl, rfl, rfl⟩
  obtain ⟨y, e⟩ := pairW (r := ({ hostState (packet 0 0 0 0 0 0) id with subject := { x := 0x80000001 } }.served 0 0x80000000 64).writeVa 0 none 0x80000008 (leBytes 8 0)) (by decide +kernel)
  exact ⟨_, y, e⟩

/-- A record of a header and slots, and a partition whose decoder may take it: its ring at 0x80000000, its space table at 0x80000800. -/
def recordBytes (op flags tlc arg ptr : Nat) (slots : List Nat) : List Byte :=
  leBytes 1 op ++ leBytes 1 flags ++ leBytes 2 tlc ++ leBytes 4 arg ++ leBytes 8 ptr ++ (List.range 6).flatMap (fun k => leBytes 16 (slots.getD k 0)) ++ leBytes 16 0
def decodeState (bs : List Byte) (g : Partition → Partition) : State :=
  hostState bs fun q => g { q with window := [], nextSeq := 1, sq := { q.sq with base := 0x80000000, write := 1, enable := true, space := 0x80000800 } }
def recordB (s : State) (bs : List Byte) : Bool :=
  match s.readVa 0 none ((s.part 0).sq.base.toNat + 128 * ((s.part 0).sq.read.toNat % 2 ^ (s.part 0).sq.log2)) 128 with | .ok (b, _) => b == bs | _ => false
theorem decodes_of {s : State} {bs : List Byte} (h : (decide (0 < s.partitions.length) && (s.part 0).sq.enable && !(s.part 0).sq.faulted && decide (0 < ((s.part 0).sq.write - (s.part 0).sq.read).toInt) &&
    (s.part 0).window.all (fun t => !t.isFaulted) && recordB s bs) = true) : Decodes s 0 bs := by
  simp only [Bool.and_eq_true, decide_eq_true_eq, Bool.not_eq_true', List.all_eq_true] at h
  obtain ⟨⟨⟨⟨⟨a, b⟩, c⟩, d⟩, e⟩, r⟩ := h
  refine ⟨a, b, c, d, e, ?_⟩
  unfold recordB at r
  split at r
  · rename_i b x w; rw [w, eq_of_beq r]; exact ⟨x, rfl⟩
  · cases r
def skipState : State := decodeState (recordBytes 12 0 0 0 0 []) fun q => { q with skipping := 1 }
def quotaState : State := decodeState (recordBytes 12 0 0 0 0 []) fun q => { q with sq := { q.sq with quota := 0 } }
/-- Records that are passed over, that find the window at its quota, that are illegal, and one that no page maps. -/
theorem witness_records_refused : Decodes skipState 0 (recordBytes 12 0 0 0 0 []) ∧ 0 < (skipState.part 0).skipping ∧ Decodes quotaState 0 (recordBytes 12 0 0 0 0 []) ∧
    (quotaState.part 0).sq.quota ≤ (quotaState.part 0).window.length ∧ Decodes (decodeState (recordBytes 0x1F 0 0 0 0 []) id) 0 (recordBytes 0x1F 0 0 0 0 []) ∧
    ¬headerLegal 0x1F 0 0 0 0 1 ∧ ¬headerLegal 9 0 0 1024 0 1 ∧ headerLegal 9 1 0 1023 7 1 ∧ headerLegal 10 1 0 255 (2 ^ 32) 1 ∧
    (match (decodeState [] fun q => { q with sq := { q.sq with base := 0x100000000 } }).readVa 0 none 0x100000000 128 with | .absent _ => true | _ => false) = true :=
  ⟨decodes_of (by decide +kernel), by decide +kernel, decodes_of (by decide +kernel), by decide +kernel, decodes_of (by decide +kernel), by simp [headerLegal], by simp [headerLegal],
   by simp [headerLegal], by simp [headerLegal], by decide +kernel⟩
/-- The records without slots, one of each kind: with a free handle, with none, with a bound and an unbound buffer, with four open REPEATs. -/
def listState (bs : List Byte) (free : List Nat) : State :=
  decodeState bs fun q => { q with totals := [2, 2, 2, 2, 2], free := List.replicate 5 free, buffers := q.buffers.set 4 (some ⟨4096, 80⟩), repeats := [(7, 1)] }
theorem witness_records_without_slots : (∀ q ∈ [(recordBytes 8 0 0 1023 7 [], [8, 0, 0, 1023, 7]), (recordBytes 9 0 0 1 7 [], [9, 0, 0, 1, 7]), (recordBytes 12 0 0 0 0 [], [12, 0, 0, 0, 0]),
        (recordBytes 15 0 0 3 0x80000010 [], [15, 0, 0, 3, 0x80000010]), (recordBytes 10 1 0 4 4096 [], [10, 1, 0, 4, 4096]), (recordBytes 11 0 0 4 0 [], [11, 0, 0, 4, 0]),
        (recordBytes 11 0 0 5 0 [], [11, 0, 0, 5, 0]), (recordBytes 13 0 0 2 0 [], [13, 0, 0, 2, 0]), (recordBytes 14 0 0 0 0 [], [14, 0, 0, 0, 0])],
      Decodes (listState q.1 [8, 16]) 0 q.1 ∧ recordHead q.1 = q.2 ∧ ∀ k, k < 96 → q.1.getD (16 + k) 0 = 0) ∧
    (headerLegal 8 0 0 1023 7 1 ∧ headerLegal 9 0 0 1 7 1 ∧ headerLegal 12 0 0 0 0 1 ∧ headerLegal 15 0 0 3 0x80000010 1 ∧ headerLegal 10 1 0 4 4096 1 ∧ headerLegal 11 0 0 4 0 1 ∧
      headerLegal 13 0 0 2 0 1 ∧ headerLegal 14 0 0 0 0 1) ∧
    ((listState [] [8, 16]).part 0).skipping = 0 ∧ ((listState [] [8, 16]).part 0).window.length < ((listState [] [8, 16]).part 0).sq.quota ∧
    0 < ((listState [] [8, 16]).part 0).totals.getD (classOf 4096) 0 ∧ ((listState [] [8, 16]).part 0).free[classOf 4096]? = some [8, 16] ∧ ((listState [] []).part 0).free[classOf 4096]? = some [] ∧
    ((listState [] []).part 0).buffers.getD 4 none = some ⟨4096, 80⟩ ∧ ((listState [] []).part 0).buffers.getD 5 none = none ∧ ((listState [] []).part 0).repeats = [] ++ [(7, 1)] ∧
    4 < ((listState [] []).part 0).buffers.length := by
  refine ⟨fun bs h => ⟨decodes_of ?_, ?_, ?_⟩, by simp [headerLegal], by and_intros <;> decide +kernel⟩
  all_goals
    simp only [List.mem_cons, List.not_mem_nil, or_false] at h
    rcases h with rfl | rfl | rfl | rfl | rfl | rfl | rfl | rfl | rfl <;> decide +kernel
/-- A logical slot: buffer, mode, bytes; and the bytes of a launch descriptor of one workgroup. -/
def logical (mode buf bytes : Nat) (inplace : Bool) : Nat := 1 + mode * 4 + buf * 16 + inplace.toNat * 4096 + bytes * 2 ^ 56 + 1 * 2 ^ 76
def launchBytes : List Byte :=
  leBytes 8 0x80000200 ++ leBytes 4 3 ++ leBytes 6 0 ++ leBytes 1 8 ++ leBytes 1 0 ++ leBytes 1 1 ++ leBytes 1 0 ++ leBytes 2 0 ++ leBytes 4 4096 ++ leBytes 2 64 ++ leBytes 34 0
def slotState (bs more : List Byte) : State :=
  decodeState (bs ++ more) fun q => { q with pools := [], links := [], totals := [2, 2, 2, 2, 2], free := List.replicate 5 [8, 16], buffers := (q.buffers.set 4 (some ⟨4096, 80⟩)).set 5 (some ⟨4096, 88⟩) }
def copyRecord : List Byte := recordBytes 3 0 7 0 0 [logical 1 4 4096 false, logical 2 5 4096 false]
def runRecord : List Byte := recordBytes 1 0 0 0 0x80000080 []
/-- COPY from one buffer to a renamed other one; RUN with a legal descriptor; and a COPY whose slots do not fit. -/
theorem witness_records_with_slots : Decodes (slotState copyRecord []) 0 copyRecord ∧ headerLegal 3 0 7 0 0 1 ∧
    (match (slotState copyRecord []).checkSlots 0 true ((List.range 6).map fun k => field copyRecord (16 + 16 * k) 16) with
      | .ok rs => (match rs[0]?, rs[1]? with | some (some a), some (some b) => a.mode == 1 && b.mode == 2 && b.buf == 5 && b.kind == 1 && !b.inplace && a.rows * a.rowbytes == b.rows * b.rowbytes | _, _ => false) &&
          (rs.drop 2).all Option.isNone | _ => false) = true ∧
    ((slotState copyRecord []).part 0).buffers.getD 5 none = some ⟨4096, 88⟩ ∧ ((slotState copyRecord []).part 0).free[classOf 4096]? = some [8, 16] ∧
    Decodes (slotState runRecord launchBytes) 0 runRecord ∧ headerLegal 1 0 0 0 0x80000080 1 ∧
    (match (slotState runRecord launchBytes).readVa 0 none 0x80000080 64 with | .ok (b, _) => b == launchBytes | _ => false) = true ∧ (parseLaunch launchBytes false false false 0 0).2 = none ∧
    ¬slotsFit 3 0 0 (fun _ => 0) [none, none] := by
  refine ⟨decodes_of (by decide +kernel), by simp [headerLegal], by decide +kernel, by decide +kernel, by decide +kernel, decodes_of (by decide +kernel), by simp [headerLegal], by decide +kernel,
    by decide +kernel, fun h => ?_⟩
  obtain ⟨⟨r, h, _⟩, _⟩ := h
  cases h

/-- An issued task whose version is to be copied from the one before, or filled with zeros, and one of a stream with two regions. -/
def version (zero : Bool) : NewVersion := { buf := 4, handle := 32, size := 16, prev := some 64, copy := !zero, zero := zero }
def region (mode base : Nat) : Region := { kind := 2, mode := mode, buf := 0, offset := 0, rowbytes := 16, rows := 1, pitch := 0, inplace := false, handle := 0, base := base, target := 0, peer := 0 }
def taskOf (op : Nat) (news : List NewVersion) (regions : List (Option Region)) (ended : Option Nat) : Task :=
  { benchTask {} with op := op, news := news, regions := regions, ended := ended, status := .issued }
def engTask (t : Task) : State :=
  hostState [] fun q => { q with window := [t], config := some ⟨0, 0, 0x80000000, []⟩ }
theorem witness_engine_tasks : let t := taskOf 3 [version false] [some (region 1 0x80000000), some (region 2 0x80000100)] none
    let whole (h : Nat) : Region := { packetRows (0x80000000 + h / 8) 16 1 0 with kind := 1, handle := h }
    0 < (engTask t).partitions.length ∧ (engTask t).task? 0 1 = some t ∧ (∀ o ∈ ((engTask t).part 0).window, o.seq = 1 → o = t) ∧ t.fault = none ∧ t.status = .issued ∧ t.moved = 0 ∧
    (version false).copy = true ∧ (version true).zero = true ∧ 0 < (version false).size ∧ Moves (engTask t) (.task 0 1) 0 (whole 64) (whole 32) (movedTo (.task 0 1) (engTask t) (whole 64) (whole 32)) ∧
    (∃ u y, (engTask t).writeVa 0 none (0x80000000 + 32 / 8) (List.replicate 16 0) (.task 0 1) = (u, .ok y)) ∧
    (match (engTask t).readVa 0 none 0x100000000 16 with | .absent _ => true | _ => false) = true ∧
    Moves (engTask t) (.task 0 1) 0 (region 1 0x80000000) (region 2 0x80000100) (movedTo (.task 0 1) (engTask t) (region 1 0x80000000) (region 2 0x80000100)) ∧
    (match (engTask t).spaceRead 0 0 0 0x100000000 16 with | .absent _ => true | _ => false) = true ∧
    (match (engTask t).spaceRead 0 0 0 0x00FD000000000000 16 with | .err e => decide (e ≠ 0 ∧ e ≠ 4) | _ => false) = true ∧
    (taskOf 4 [] [] (some 0)).ended = some 0 ∧ (taskOf 4 [] [] (some 6)).ended = some 6 ∧ (taskOf 4 [] [] (some 6)).status = .issued := by
  refine ⟨by decide +kernel, rfl, ?_, rfl, rfl, rfl, rfl, rfl, by decide, moves_of (by decide +kernel), ?_, by decide +kernel, moves_of (by decide +kernel), by decide +kernel, by decide +kernel, rfl, rfl, rfl⟩
  · intro o h _; exact List.mem_singleton.mp h
  · obtain ⟨y, e⟩ := pairW (r := (engTask (taskOf 3 [version false] [some (region 1 0x80000000), some (region 2 0x80000100)] none)).writeVa 0 none (0x80000000 + 32 / 8) (List.replicate 16 0) (.task 0 1)) (by decide +kernel)
    exact ⟨_, y, e⟩
/-- Windows: empty; of one completed task; with a faulted oldest task and no flock. -/
theorem witness_window_retires : ((hostState [] fun q => { q with window := [] }).part 0).window = [] ∧
    ((engTask { taskOf 3 [] [] none with status := .completed }).part 0).window = [{ taskOf 3 [] [] none with status := .completed }] ∧
    ((engTask { taskOf 3 [] [] none with status := .faulted 9 4 }).part 0).window = [{ taskOf 3 [] [] none with status := .faulted 9 4 }] ∧
    (∀ k f, (engTask { taskOf 3 [] [] none with status := .faulted 9 4 }).flock? k = some f → f.p ≠ 0) ∧
    (∃ x, (engTask { taskOf 15 [] [] none with status := .completed, ptr := 0x80000000 }).writeVa 0 none 0x80000000 (leBytes 16 0) (.task 0 1) =
      (((engTask { taskOf 15 [] [] none with status := .completed, ptr := 0x80000000 }).writeVa 0 none 0x80000000 (leBytes 16 0) (.task 0 1)).1, .ok x)) := by
  refine ⟨rfl, rfl, rfl, fun k f h => ?_, pairW (by decide +kernel)⟩
  exact absurd h (by cases k <;> exact nofun)
/-- WindowRetires: four completed tasks before a fifth, and two before one that has not completed. -/
theorem witness_window_retires_four : let done (n : Nat) : Task := { taskOf 3 [] [] none with status := .completed, seq := n }
    let window (l : List Task) : State := hostState [] fun q => { q with window := l }
    (∀ l, ((window l).part 0).window = l) ∧ ([1, 2, 3, 4].map done).length = 4 ∧ (∀ t ∈ [1, 2, 3, 4].map done, t.status = .completed ∧ t.op ≠ 15) ∧
    ([1, 2].map done).length ≤ 4 ∧ (∀ o, [taskOf 3 [] [] none].head? = some o → o.status ≠ .completed) :=
  ⟨fun _ => rfl, rfl, by decide, by decide, fun o h => by cases h; decide⟩
/-- A completed task that superseded handle 8, which nothing binds any more, and the list that it returns to. -/
theorem witness_window_frees : let s := hostState [] fun q => { q with window := [{ taskOf 3 [] [] none with status := .completed, superseded := [8] }], free := List.replicate 5 [] }
    (s.part 0).window = [{ taskOf 3 [] [] none with status := .completed, superseded := [8] }] ∧ (s.part 0).leaving = [] ∧ (∀ b, some b ∈ (s.part 0).buffers → b.handle ≠ 8) ∧
    (s.part 0).free[8 % 8]? = some [] ∧ 4 ≤ (List.replicate 4 ((0 : Word), 1)).length := by
  refine ⟨rfl, by decide +kernel, fun b h => ?_, rfl, by decide⟩
  have e : ((hostState [] fun q => { q with window := [{ taskOf 3 [] [] none with status := .completed, superseded := [8] }], free := List.replicate 5 [] }).part 0).buffers.all Option.isNone = true := by
    decide +kernel
  cases List.all_eq_true.mp e _ h
/-- R201: WAIT's record enters the window. -/
theorem test_task_fence_enters : (match Sys2Proof.Machine.exec .taskFence (listState (recordBytes 12 0 0 0 0 []) [8]) with
    | .next t => some ((t.part 0).window.map fun k => (k.op, k.seq), (t.part 0).nextSeq, (t.part 0).sq.read) | _ => none) = some ([(12, 1)], 2, 1) := by decide +kernel
theorem test_repeat_goes_back : (match Sys2Proof.Machine.exec .taskEndrep (listState (recordBytes 14 0 0 0 0 []) [8]) with
    | .next t => some ((t.part 0).repeats, (t.part 0).sq.read) | _ => none) = some ([(7, 0)], 8) := by decide +kernel
/-- R312: a SIGNAL packet raises its counter to its value, its queue's to the count of packets, and asks for an interrupt. -/
theorem test_bulk_signal : (match Sys2Proof.Machine.exec .bulkSignal (bulkState (packet 3 1 0 7 9 1)) with
    | .next t => some ((t.part 0).counter 7, (t.part 0).counter 5, (t.part 0).bulkIrq) | _ => none) = some (9, 1, 1) := by decide +kernel

/-! ## Registers, fault commands and decisions: RegistersAndFaultCommands, CrookInterpreter's programs, SchedulerDecisions -/

def subj (s : State) (x : Subject) : State := { s with subject := x }
/-- Register writes: to a plain register, to one that needs an idle partition, idle and not, and to the mailbox while it is free and BUSY. -/
theorem witness_register_writes : let s := subj State.reset { k := 1, m := 0x3020, x := 5 }
    0 < s.partitions.length ∧ s.subject.x = 5 ∧ (s.part 0).sched.g.length = 8 ∧ s.subject.k = 0 + 1 ∧ s.subject.m = 0x3020 ∧ 0x3020 < 0x10000 ∧ (0x3020, 0xFFFFFFFF, false) ∈ plainRegisters ∧
    (0x0000, 0x00FFFFFFFFFFF000, true) ∈ plainRegisters ∧ ((s.part 0).sq.enable = false ∧ (s.part 0).window = []) ∧ ((skipState.part 0).sq.enable = true) ∧
    (s.part 0).mbstat.getLsbD 0 = false ∧ ({ s.part 0 with mbstat := 1 } : Partition).mbstat.getLsbD 0 = true ∧ (1 ≤ 7 % 256 ∧ 7 % 256 ≤ 7) := by
  refine ⟨by decide, rfl, rfl, rfl, rfl, by decide, by decide +kernel, by decide +kernel, ⟨rfl, rfl⟩, by decide +kernel, by decide, by decide, by decide⟩
/-- L2WAYS from the root: ways that no partition has, and way 2 of class 1 that partition 3 has. -/
theorem witness_l2ways : let s := subj State.reset { k := 0, m := 0x11008, x := 4, on := true }
    let t := s.modPart 3 fun q => { q with mem := { q.mem with l2ways := 0x40000 } }
    s.subject.m = 0x10000 * (0 + 1) + 0x1008 ∧ (∀ r, r < 16 → r ≠ 0 → (s.part r).mem.l2ways = 0) ∧ 3 < t.partitions.length ∧ t.subject.x.getLsbD (16 * 0 + 2) = true ∧
    (t.part 3).mem.l2ways.getLsbD (16 * 1 + 2) = true := by
  refine ⟨rfl, by decide +kernel, by decide +kernel, by decide, by decide +kernel⟩
/-- CHKPUSH with a chunk at CHKSIZE, below it on an empty list, and below it behind a tail. -/
theorem witness_block_events : let s := hostState [] fun q => { q with mem := { q.mem with chksize := 4, avail := 1, head := 2, tail := 2 } }
    (s.part 0).mem.chksize.toNat ≤ 4 ∧ 3 < (s.part 0).mem.chksize.toNat ∧ (State.reset.part 0).mem.avail = 0 ∧ 0 < (s.part 0).mem.avail ∧ s.memoriesWf = true ∧
    (s.part 0).mem.chklink.toNat / 2 ^ 12 % 2 ^ 40 * 4096 + 4 * (s.part 0).mem.tail + 4 ≤ s.device.hbmBytes ∧ (0x700 : DWord).getLsbD 11 = false ∧ (0x700 : DWord).toNat / 2 ^ 8 % 8 = 7 := by
  decide +kernel
/-- TLBINV: one in progress, of a page and of ALL. -/
theorem witness_tlb_complete : ∀ i : TlbInv, ((hostState [] fun q => { q with mem := { q.mem with tlbWork := some i } }).part 0).mem.tlbWork = some i := fun _ => rfl
/-- A program of one operation that decodes, and one that does not; a shadow program between two decisions. -/
def crookSource (w : Nat) : State := subj (hostState (leBytes 4 w) fun q => { q with sched := { q.sched with crksrc := 0x80000000, shadow := some [0x98000000] } }) {}
theorem witness_crook_programs : (∃ x, (crookSource 0x98000000).readVa 0 none (((crookSource 0x98000000).part 0).sched.crksrc.toNat + 4 * 0) 4 = .ok (leBytes 4 0x98000000, x)) ∧
    decodeCrook 0x98000000 = some .crkHalt ∧ (∃ x, (crookSource 0).readVa 0 none 0x80000000 4 = .ok (leBytes 4 0, x)) ∧ decodeCrook 0 = none ∧ decodeCrook 0x78180005 = some (.crkBf 3 5) ∧ 1 < 0 + 5 ∧
    (match (subj (hostState [] fun q => { q with sched := { q.sched with crksrc := 0x100000000 } }) {}).readVa 0 none 0x100000000 4 with | .absent _ => true | _ => false) = true ∧
    (match (subj (hostState [] fun q => { q with sched := { q.sched with crksrc := 0x00FD000000000000 } }) {}).readVa 0 none 0x00FD000000000000 4 with | .err _ => true | _ => false) = true ∧
    ((crookSource 0).part 0).sched.shadow = some [0x98000000] ∧ ((crookSource 0).part 0).sched.run = none := by
  have ok (w : Nat) (h : (match (crookSource w).readVa 0 none 0x80000000 4 with | .ok (b, _) => b == leBytes 4 w | _ => false) = true) :
      ∃ x, (crookSource w).readVa 0 none 0x80000000 4 = .ok (leBytes 4 w, x) := by
    split at h
    · rename_i b x e; rw [e, eq_of_beq h]; exact ⟨x, rfl⟩
    · cases h
  refine ⟨ok _ (by decide +kernel), by decide, ok _ (by decide +kernel), ?_, ?_, ?_, ?_, ?_, ?_, ?_⟩ <;> decide +kernel
/-- One pending record of each context. -/
def faultOf (c : FaultContext) : FaultRec := { FaultRec.blank 1 c with fid := 7, pending := true, seq := 1 }
def faultState (c : FaultContext) (fls : List Flock) (sts : List Stream) : State :=
  subj { hostState [] (fun q => { q with faults := [faultOf c], window := [taskOf 3 [] [] none], sched := { q.sched with faultmask := 1 } }) with flocks := fls, streams := sts } { x := 7 }
def strayFlock (mode : Bool) : Flock := tFlock { tWg { tWarp 0 with threads := [{ Thread.new with life := .stray 7 64, trapvec := 8, trapMode := mode }] } with herder := none }
theorem witness_fault_commands : (∀ c fls sts, ((faultState c fls sts).part 0).faults = [faultOf c] ∧ (faultState c fls sts).subject.x.setWidth 32 = (7 : Word)) ∧
    (∀ c, (faultOf c).fid = 7 ∧ (faultOf c).pending = true ∧ (faultOf c).kind ≤ 5) ∧ (∀ r ∈ ([] : List FaultRec), ¬(r.fid = 7 ∧ r.pending = true ∧ r.kind ≤ 5)) ∧
    (∃ fl wg, (faultState (.tileCopy 0 0) [tFlock { tWg (tWarp 1) with copies := [{ outCmd with fault := some 7 }] }] []).flock? 0 = some fl ∧ fl.wgs[0]? = some wg ∧ wg.copies = [{ outCmd with fault := some 7 }]) ∧
    (faultState (.transform 4096) [] [{ stream 0 0 with fault := some 7 }]).streams = [{ stream 0 0 with fault := some 7 }] ∧
    ((faultState (.task 1) [] []).part 0).window = [taskOf 3 [] [] none] ∧ (taskOf 3 [] [] none).status = .issued ∧
    (∃ fl wg th, (faultState (.stray 0 0 0) [strayFlock false] []).flock? 0 = some fl ∧ fl.status = .resident ∧ fl.wgs = [wg] ∧ wg.herder = none ∧ wg.warps.length = 0 + 1 ∧
      (faultState (.stray 0 0 0) [strayFlock false] []).thread? 0 0 0 0 = some th ∧ th.life = .stray 7 64 ∧ th.trapMode = false ∧ th.trapvec.toNat % 2 ^ 24 ≠ 0) ∧
    ((faultState (.stray 0 0 0) [] []).part 0).sched.faultmask.getLsbD 0 = true :=
  ⟨fun _ _ _ => ⟨rfl, show BitVec.setWidth 32 (7 : DWord) = (7 : Word) by decide⟩, fun _ => ⟨rfl, rfl, show 1 ≤ 5 by decide⟩, nofun, ⟨_, _, rfl, rfl, rfl⟩, rfl, rfl, rfl, ⟨_, _, _, rfl, rfl, rfl, rfl, rfl, rfl, rfl, rfl, by decide⟩, by decide⟩
/-- A bulk queue's fault, with its EN cleared and not; and a record that still waits for the ring. -/
theorem witness_fault_bulk : let s (b : BulkQueue) := (faultState (.bulk 0) [] []).modPart 0 fun q => { q with eng := { q.eng with bulk := q.eng.bulk.set 0 (some b) } }
    let w := (faultState (.bulk 0) [] []).modPart 0 fun q => { q with waitingRecs := q.faults }
    (∀ b, (s b).queue? 0 0 = some b ∧ ((s b).part 0).faults = [faultOf (.bulk 0)]) ∧ ((s queue0).part 0).waitingRecs = [] ∧ queue0.closing = false ∧
    { queue0 with closing := true }.closing = true ∧ ∃ r ∈ (w.part 0).waitingRecs, r.fid = 7 :=
  ⟨fun _ => ⟨rfl, rfl⟩, rfl, rfl, rfl, ⟨faultOf (.bulk 0), by decide +kernel, rfl⟩⟩
/-- The threads of that warp other than lane 0 are no strays. -/
theorem witness_fault_commands_lanes : ∀ l k a, (faultState (.stray 0 0 0) [strayFlock false] []).thread? 0 0 0 l = some k → k.life = .stray 7 a → l = 0 := by
  intro l k a h _
  match l with
  | 0 => rfl
  | l + 1 => exact absurd h nofun
/-- Decisions: a ready task, a resident flock above the grant, a fault to decide, and a run beyond its budget. -/
def readyTask : Task := { taskOf 12 [] [] none with status := .decoded, readyAt := some 0 }
def dispatchState : State := hostState [] fun q => { q with window := [readyTask] }
def overState : State :=
  { hostState [] (fun q => { q with window := [taskOf 1 [] [] none], sched := { q.sched with grant := 0, preempts := [0], grantAt := 0 } }) with flocks := [tFlock (tWg (tWarp 1))], cycle := 65536 }
theorem witness_decisions : (dispatchState.part 0).toDecide = [] ∧ dispatchState.owesPreempt 0 = false ∧ dispatchState.readyTasks 0 = [1] ∧ (dispatchState.part 0).sched.run = none ∧
    (dispatchState.part 0).sched.shadow = none ∧ (dispatchState.part 0).sched.active = none ∧ (overState.part 0).toDecide = [] ∧ overState.owesPreempt 0 = true ∧ overState.residents 0 = [0] ∧
    ((hostState [] fun q => { q with faults := [{ faultOf (.transform 64) with decide := true }] }).part 0).toDecide = [{ faultOf (.transform 64) with decide := true }] ∧
    (FaultContext.transform 64).flock? = none ∧ ((crookState { crookRun 2048 0 [1] with overBudget := true }).part 0).sched.run = some { crookRun 2048 0 [1] with overBudget := true } ∧
    { crookRun 2048 0 [1] with overBudget := true }.overBudget = true ∧ (crookRun 2048 0 [1]).kind = 0 := by
  refine ⟨?_, ?_, ?_, ?_, ?_, ?_, ?_, ?_, ?_, ?_, rfl, rfl, rfl, rfl⟩ <;> decide +kernel
/-- Decisions with an active program; a PREEMPT owed with no flock left; one with a flock's record to decide. -/
theorem witness_decisions_runs : let s := dispatchState.modPart 0 fun q => { q with sched := { q.sched with active := some [0x98000000] } }
    let gone := hostState [] fun q => { q with sched := { q.sched with preempts := [0] } }
    (s.part 0).sched.active ≠ none ∧ (s.part 0).sched.run = none ∧ (s.part 0).sched.shadow = none ∧ s.readyTasks 0 = [1] ∧ s.owesPreempt 0 = false ∧
    gone.owesPreempt 0 = true ∧ gone.residents 0 = [] ∧ (crookState (crookRun 0 0 [1])).owesPreempt 0 = false ∧ ((crookState (crookRun 0 0 [1])).part 0).sched.run ≠ none := by
  refine ⟨?_, ?_, ?_, ?_, ?_, ?_, ?_, ?_, ?_⟩ <;> decide +kernel
theorem witness_decisions_act : (crookRun 0 0 [1, 2]).scores.length = (crookRun 0 0 [1, 2]).cands.length ∧ { crookRun 0 0 [7] with kind := 2 }.cands = [(faultOf (.stray 0 0 0)).fid.toNat] ∧
    State.reset.partitions.length = 16 ∧ (∀ k, k < 16 → (8 : Nat) % 8 = 0) ∧ ((List.range 16).map fun _ => 8).sum ≤ 8 * State.reset.device.clusters ∧ ¬(∀ k, k < 16 → (if k = 3 then 4 else 8 : Nat) % 8 = 0) ∧ (∀ k, k < 16 → field ((List.range 16).flatMap fun _ => leBytes 2 8) (2 * k) 2 = 8) ∧
    overState.cycle < 1 + 65536 ∧ 0 + 65536 ≤ overState.cycle ∧ overState.residents 0 = [0] ∧ overState.overGrant 0 = true := by
  refine ⟨rfl, rfl, ?_, ?_, ?_, ?_, ?_, ?_, ?_, ?_, ?_⟩ <;> decide +kernel
/-- DecisionsAct: the slice events of a running root core, and of one that does not run. -/
def overOn : State := { overState with device := { overState.device with coresOn := List.replicate 17 true } }
theorem witness_slice_events : overOn.coreOn 0 = true ∧ overState.coreOn 0 = false ∧ (overOn.part 0).sched.grantAt + 65536 ≤ overOn.cycle ∧ overOn.residents 0 = [0] ∧ overOn.overGrant 0 = true ∧
    ((overOn.part 0).sched.grant < overOn.coresTaken 0 ∧ 0 < overOn.coresTaken 0) ∧ ¬(8 < overOn.coresTaken 0) ∧ 16 = overOn.partitions.length ∧
    ((List.range 16).map fun _ => 8).sum ≤ 8 * overOn.device.clusters := by decide +kernel
/-- FaultCommands: the stray of a folded flock, with two lanes open: one that CANCEL names, one that it does not; and once both are marked. -/
def foldedStray (marks : List StrayMark) : Flock :=
  { tFlock { tWg { tWarp 0 with threads := List.replicate 2 { Thread.new with life := .stray 7 64 } } with herder := none } with status := .folded 4096 none, marks := marks }
theorem witness_fault_marks : ((faultState (.stray 0 0 0) [foldedStray []] []).flock? 0).map Flock.status = some (.folded 4096 none) ∧ (foldedStray []).openLanes 7 = [0, 1] ∧
    ((foldedStray []).openLanes 7).any (fun l => (1 : Word).getLsbD l) = true ∧ ((foldedStray []).openLanes 7).any (fun l => !(1 : Word).getLsbD l) = true ∧
    ((foldedStray [⟨7, true, 1⟩]).openLanes 7) = [1] ∧ ((foldedStray [⟨7, true, 1⟩]).openLanes 7).any (fun l => (1 : Word).getLsbD l) = false := by decide +kernel
/-- Issuing: a task of each kind, and a RUN whose descriptor can be read, whose image can be written and for which there is a place. -/
def runTask : Task := { taskOf 1 [] [] none with status := .decoded, placed := 0, ptr := 0x80000080, launch := some { benchLaunch with param := 0x80001000 } }
def runState : State := hostState (List.replicate 128 0 ++ launchBytes) fun q => { q with window := [runTask], sched := { q.sched with grant := 8 } }
def runSlots : List Byte := (List.range 6).flatMap fun _ => leBytes 8 0
theorem witness_tasks_issue : (∀ op ptr ended, let t := { taskOf op [] [] ended with status := .decoded, ptr := ptr }
      ((engTask t).part 0).window = [t] ∧ t.status = .decoded ∧ t.news = [] ∧ t.shortcut = none ∧ ((engTask t).part 0).sched.run = none ∧ ((engTask t).part 0).sched.shadow = none ∧
      ((engTask t).part 0).sched.active = none ∧ t.launch = (benchTask {}).launch) ∧
    (runState.part 0).window = [runTask] ∧ runState.flocks = [] ∧ (∃ d x, runState.readVa 0 none 0x80000080 64 = .ok (d, x)) ∧ (∃ d x, runState.readVa 0 none 0 0 = .ok (d, x)) ∧
    (∃ v z, (runState.served 0 0 0).writeVa 0 none 0x80001000 runSlots (.task 0 1) = (v, .ok z)) ∧ (benchLaunch.params = 0 ∧ benchLaunch.paramLen = 0) ∧ (runState.placesFor 0 { benchLaunch with param := 0x80001000 }).isEmpty = false ∧
    (runState.part 0).toDecide = [] ∧ runState.owesPreempt 0 = false ∧ runTask.placed = 0 := by
  refine ⟨fun _ _ _ => ⟨rfl, rfl, rfl, rfl, rfl, rfl, rfl, rfl⟩, rfl, rfl, pairE (by decide +kernel), pairE (by decide +kernel), ?_, ⟨rfl, rfl⟩, by decide +kernel, by decide +kernel, by decide +kernel, rfl⟩
  obtain ⟨y, e⟩ := pairW (r := (runState.served 0 0 0).writeVa 0 none 0x80001000 runSlots (.task 0 1)) (by decide +kernel)
  exact ⟨_, y, e⟩
/-- The loader's choices (R155): the fourth place for the first flock, and the second flock of a field of two before the first. -/
theorem test_placement : ((({ (runState.modPart 0 fun q => { q with window := [{ runTask with launch := some { benchLaunch with param := 0x80001000, nx := 2 } }] }) with
      cores := [(0, 3)], order := [(0, 1)] } : State).issueTask 0 1).flocks.map fun (fl : Flock) => (fl.x, fl.wgs.map Workgroup.core)) = [(1, [3]), (0, [0])] := by decide +kernel
/-- G[7] may stand above every static priority. -/
theorem witness_tasks_issue_priority : 16 ≤ (((hostState [] fun q => { q with sched := { q.sched with g := q.sched.g.set 7 16 } }).part 0).sched.g.getD 7 0).toInt := by decide +kernel

/-! ## The device: ResetsAndFirmware, HostPeersAndErrors, ChainsThatTrap -/

/-- A partition that has not started, with a configuration pending, and one with its record only. -/
def configured : State := subj (hostState [] fun q => { q with pendingConfig := some ⟨0x100000, 0x10000, 0, [1, 1, 0, 0, 0]⟩ }) {}
theorem witness_resets : 0 < configured.partitions.length ∧ configured.subject.p = 0 ∧ configured.subject.k = 0 ∧ configured.partitions.length = 16 ∧ (configured.part 0).pendingConfig = some ⟨0x100000, 0x10000, 0, [1, 1, 0, 0, 0]⟩ ∧
    0x100000 % 128 = 0 ∧ 0x10000 % 128 = 0 ∧ [1, 1, 0, 0, 0].length = 5 ∧ (nopState.part 0).started = true ∧ ((subj State.reset {}).part 0).started = false ∧ (subj State.reset { k := 16 }).subject.k = 15 + 1 := by
  refine ⟨by decide +kernel, rfl, rfl, ?_, ?_, ?_, ?_, ?_, ?_, ?_, rfl⟩ <;> decide +kernel
/-- The start of a partition whose firmware core runs, and of one whose core does not. -/
theorem witness_partition_start : let on (b : Bool) : State := { configured.modPart 0 (fun q => { q with started := false }) with device := { configured.device with coresOn := List.replicate 17 b } }
    ((on true).part 0).started = false ∧ (on true).device.coresOn.getD (0 + 1) false = true ∧ ((on true).part 0).pendingConfig = some ⟨0x100000, 0x10000, 0, [1, 1, 0, 0, 0]⟩ ∧
    (on false).device.coresOn.getD (0 + 1) false = false := by decide +kernel
/-- Firmware: the cores 0 and 16, running or not, and a device that is frozen. An image that passes is one whose digest and signature the
free functions of Config accept, so none can be written out. -/
theorem witness_firmware : (subj State.reset { k := 16 }).subject.k = 16 ∧ 16 < 17 ∧ State.reset.device.coresOn.length = 17 ∧ State.reset.device.nudges.length = 17 ∧ State.reset.device.coreMem.length = 17 ∧
    (∃ t, Sys2Proof.Machine.exec .firmwareImageStart (subj State.reset { k := 16, bytes := heldImage (State.reset.device.coreMem.getD 16 []) }) = .next t) ∧ State.reset.device.coresOn.getD 16 false = false ∧
    ({ State.reset.device with coresOn := List.replicate 17 true }).coresOn.getD 16 false = true ∧ 16 ≤ State.reset.partitions.length ∧ ¬imageGood 0 [] ∧ State.reset.device.pwrlim ≤ 2400 ∧
    (511 : DWord).toNat < 512 ∧ 512 ≤ (512 : DWord).toNat := by
  refine ⟨rfl, by decide, by decide, by decide, by decide, ⟨_, rfl⟩, by decide, by decide, by decide, fun h => ?_, by decide, by decide, by decide⟩
  exact absurd h.1 (by decide)
/-- Mailbox commands of the PF, busy with its core running: each code with a good argument, a reserved bit, and the slots that a rule names. -/
def mailState (cmd : Nat) (slots : List (Nat × Nat)) : State :=
  subj { State.reset with device := { State.reset.device with mbcmd := BitVec.ofNat 64 cmd, mbstat := 1, coresOn := List.replicate 17 true, slots := slots } } {}
theorem witness_mailbox : (∀ cmd slots, (mailState cmd slots).device.mbstat.getLsbD 0 = true ∧ (mailState cmd slots).device.coresOn.getD 0 false = true) ∧ (mailState 1 []).subject.k = 0 ∧
    16 ≤ (mailState 1 []).partitions.length ∧ (mailState 0x0F02 []).device.mbcmd.toNat % 256 = 2 ∧ ((0x000F0001 % 4 = 1 ∨ 0x000F0001 % 4 = 2) ∧ 0x000F0001 / 4 % 2 ^ 14 = 0 ∧ 0x000F0001 < 2 ^ 20) ∧
    assocGet 0 (mailState 0x03FF03 [(1023, 1)]).device.slots 1023 ≠ 0 ∧ assocGet 0 (mailState 3 [(1023, 1)]).device.slots 0 = 0 ∧ assocGet 0 (mailState 4 [(5, 3)]).device.slots 5 ≠ 0 ∧
    (0x00010005 / 2 ^ 10 % 2 ^ 6 = 0 ∧ 0x00010005 < 2 ^ 20) ∧ 1024 ≤ 1024 ∧ 1023 < 1024 ∧ ((mailState 7 []).part 15).sq.enable = false ∧ ((mailState 7 []).part 15).window = [] ∧
    (∀ f ∈ (mailState 7 []).flocks, f.p ≠ 15) ∧ State.reset.device.dm0.length = 64 ∧ State.reset.device.dm1.length = 64 := by
  refine ⟨fun _ _ => ⟨show (1 : Word).getLsbD 0 = true by decide, rfl⟩, rfl, ?_, ?_, ?_, ?_, ?_, ?_, ?_, ?_, ?_, ?_, ?_, nofun, by decide, by decide⟩ <;> decide +kernel
/-- RESUME of partition 3 at the PF: the core of that partition runs, or only the root's does; and a fault to resume from. -/
theorem witness_mailbox_resume : let cmd := 0x00030001 * 256 + 2
    let root := { mailState cmd [] with device := { (mailState cmd []).device with coresOn := (List.replicate 17 false).set 0 true } }
    let arg := (mailState cmd []).device.mbcmd.toNat / 256
    arg / 2 ^ 16 % 16 = 3 ∧ arg % 4 = 1 ∧ arg / 4 % 2 ^ 14 = 0 ∧ arg < 2 ^ 20 ∧ (mailState cmd []).device.coresOn.getD (3 + 1) false = true ∧
    root.device.coresOn.getD 0 false = true ∧ root.device.coresOn.getD (3 + 1) false = false := by decide +kernel
/-- A record that PARTCFG takes is one that the model's own check of the host's bytes passes. -/
def configRecord : List Byte := leBytes 8 0x200000 ++ leBytes 8 0x400000 ++ leBytes 8 0 ++ leBytes 40 0
theorem witness_partcfg : State.reset.partcfgLegal 0 configRecord = true ∧ State.reset.partcfgLegal 0 (leBytes 8 1 ++ leBytes 56 0) = false := by decide +kernel
/-- The host: a register at the last byte of its eight, BAR2 in a page and off the pages, and a frozen device. -/
theorem witness_host_access : let s := subj (hostState [] id) { k := 1, m := 2, u := 4, x := 0x80000000 }
    s.subject.k = 1 ∧ s.subject.x.toNat = 0x80000000 ∧ s.subject.u = 4 ∧ s.device.frozen = false ∧ 7 % 8 + 1 ≤ 8 ∧ 0x80000000 + 4 ≤ 2 ^ 40 ∧ (∃ data x, s.readVa 0 none 0x80000000 4 = .ok (data, x)) ∧
    (match s.readVa 0 none 0x100000000 4 with | .absent _ => true | _ => false) = true ∧ (∃ x, s.hostWriteVa 0 0x80000000 [1, 2] = ((s.hostWriteVa 0 0x80000000 [1, 2]).1, .ok x)) ∧
    ({ s.device with frozen := true }).frozen = true ∧ (0x3020, 0xFFFFFFFF, false) ∈ plainRegisters := by
  refine ⟨rfl, rfl, rfl, by decide +kernel, by decide, by decide, pairE (by decide +kernel), by decide +kernel, pairW (by decide +kernel), rfl, by decide +kernel⟩
/-- Peers and errors: an export that opens the range, a bad word, and the counters. -/
def exportState : State :=
  subj { pageState (tWarp 1) [0] with bad := [.hbm 2] } { k := 3, u := 4, x := 64, y := 7, lane := 1 }
theorem witness_peers_and_errors : exportState.subject.on = false ∧ exportState.subject.lane = 1 ∧ BadWord.hbm (64 / 32) ∈ exportState.bad ∧ BadWord.hbm (96 / 32) ∉ exportState.bad ∧
    exportState.device.eccstk.length = 8 ∧ 4 < exportState.device.eccdie.length ∧ exportState.device.frozen = false ∧ (6 * 2 ^ 44) / 2 ^ 44 % 16 = 6 := by decide +kernel
/-- Peer accesses: an entry that opens the first page of HBM to partition 0 of rank 3, for reads and writes; no entry; and the L2 with a line and without. -/
def openState (attr : Nat) : State :=
  subj { (pageState (tWarp 1) [0]).modPart 0 (fun q => { q with exports := some (leBytes 8 0 ++ leBytes 4 1 ++ leBytes 2 attr ++ leBytes 2 3 ++ List.replicate 1008 0) }) with
    device := { (pageState (tWarp 1) [0]).device with joined := true } } { k := 3, x := 64, u := 4 }
theorem witness_peer_access : (openState 0x400).exported 0 3 0 64 4 true = some (3, 0) ∧ (openState 0).exported 0 3 0 64 4 true = none ∧ (openState 0).exported 0 3 0 64 4 false = some (3, 0) ∧
    (openState 0x400).device.joined = true ∧ (openState 0x400).bad = [] ∧ 32 * 2 < 64 + 4 ∧ 64 < 32 * 2 + 32 ∧ (openState 0).l2 = [] := by decide +kernel
theorem witness_l2_error : ∃ l : L2Line, l.line = 64 / 128 ∧ l ∈ { openState 0 with l2 := [⟨0, 3, 0, none⟩] }.l2 := ⟨_, by decide, List.mem_singleton.mpr rfl⟩
/-- A chain whose first word is illegal, and a group at the code's end. -/
def illegalState (pc : BitVec 24) : State :=
  let w := { tWarp 0 with threads := [{ Thread.new with trapvec := 8, pc := pc }] }
  subj { State.reset.benchCode 0 0 with flocks := [tFlock { tWg w with herder := none }] } {}
theorem witness_chains_that_trap : (∃ fl wg w, (illegalState 0).flock? 0 = some fl ∧ fl.status = .resident ∧ fl.wgs = [wg] ∧ wg.herder = none ∧ wg.warps[0]? = some w ∧ ⟨0, false, false, [0]⟩ ∈ w.groups ∧
      (w.thread 0).trapMode = false ∧ (w.thread 0).trapvec.toNat % 2 ^ 24 ≠ 0 ∧ 0 < fl.launch.codelen ∧ fl.launch.codelen ≤ 6) ∧
    (match (illegalState 0).chainAt 0 0 with | ⟨c :: _, _, none⟩ => c.instr.isNone | _ => false) = true ∧
    (match (subj { State.reset.benchCode nopWord nopWord with flocks := [tFlock (tWg (tWarp 1))] } {}).chainAt 0 0 with | ⟨ws, _, none⟩ => ws.all fun c => c.instr.isSome | _ => false) = true ∧
    (∃ w, (illegalState 6).unit? 0 0 0 = some w ∧ ⟨6, false, false, [0]⟩ ∈ w.groups) := by
  refine ⟨⟨_, _, _, rfl, rfl, rfl, rfl, rfl, by decide +kernel, rfl, by decide, by decide, by decide⟩, by decide +kernel, by decide +kernel, ⟨_, rfl, by decide +kernel⟩⟩
/-- R368: a bell word counts up from 1. -/
theorem test_bell_word : (match Sys2Proof.Machine.exec .bellWord (subj { State.reset with device := { State.reset.device with belladdr := 0x1000, coresOn := List.replicate 17 true } } { k := 1 }) with
    | .next t => some ((t.part 0).bell, t.hostMem) | _ => none) = some (1, [⟨0x1008, 1⟩]) := by decide +kernel
theorem test_power_limit_clamps : (match Sys2Proof.Machine.exec .registerWrite (subj State.reset { k := 0, m := 0x028, x := 100 }) with | .next t => some t.device.pwrlim | _ => none) = some 1200 := by decide +kernel

/-! ## Collectives: CollectivePrograms, CollectiveTransfers -/

/-- A step from its fields, in the order of R391. -/
def stepBytes (op thr flags ctr red len peer peer2 dst src : Nat) : List Byte :=
  leBytes 1 op ++ leBytes 1 0 ++ leBytes 2 thr ++ leBytes 1 flags ++ leBytes 1 ctr ++ leBytes 1 red ++ leBytes 1 0 ++ leBytes 4 len ++ leBytes 2 peer ++ leBytes 2 peer2 ++ leBytes 8 dst ++ leBytes 8 src
/-- The ARM that 20 writes out. -/
theorem test_arm_bytes : stepBytes 6 1 0 0 0 0x2000 0x8001 0 0 0x2000 = [0x0000000000010006, 0x0000800100002000, 0, 0x2000].flatMap (leBytes 8) ∧
    parseStep ([0x0000000000010006, 0x0000800100002000, 0, 0x2000].flatMap (leBytes 8)) =
      { op := 6, src := 0x2000, dst := 0, peer2 := 0, peer := 0x8001, len := 0x2000, red := 0, ctr := 0, flags := 0, thr := 1, reserved := 0 } := by decide +kernel
/-- A communicator of four members, of which this is the first, with contract 8. -/
def comm (n : Nat) : Communicator :=
  { id := 0, ranks := List.replicate n 0, own := 0, contract := 8, tag := 0, isSealed := false, vc := 0, prio := 0, efbase := 0, eflen := 0, poolbase := 0x80006000, pooln := 2, abortbase := 0x80003000
    ordinal := 1, aborts := [] }
def run0 (steps : List (List Byte)) : CollRun :=
  { seq := 1, comm := 0, ordinal := 1, root := 0, mask := false, steps := steps, pos := 0, loops := [], counters := List.replicate 8 0, peers := List.replicate 4 (some 0), started := [], armed := [], sends := []
    recvs := [], chunksOut := [], chunksIn := [], poolSends := 0, poolRecvs := 0, staged := [], contributions := [], atBar := false, since := 0, ready := none, written := [] }
/-- Its task reads 8 KiB at 0x80000000 and writes 8 KiB at 0x80004000. -/
def collTask : Task :=
  let region (mode base : Nat) : Region :=
    { kind := 2, mode := mode, buf := 0, offset := 0, rowbytes := 8192, rows := 1, pitch := 0, inplace := false, handle := 0, base := base, target := 0, peer := 0 }
  taskOf 7 [] [some (region 1 0x80000000), some (region 2 0x80004000), none, none, none, none] none
def collState (n : Nat) (r : CollRun) (x : Subject) : State := subj (hostState [] fun q => { q with window := [collTask], comms := [comm n], colls := [r] }) x
def toSlot1 : Nat := 2 ^ 61
theorem atStep_of (b : List Byte) (h : (parseStep b).legal = true ∧ (parseStep b).comp = false) : AtStep (collState 4 (run0 [b]) {}) 0 0 (run0 [b]) (comm 4) (parseStep b) :=
  ⟨rfl, rfl, show 0 < 16 by decide, List.mem_singleton.mpr rfl, rfl, fun _ hx _ => List.mem_singleton.mp hx, rfl, rfl, h.1, fun hc => absurd hc (by rw [h.2]; decide)⟩
/-- A legal step of each kind, at which a program stands; peers present and absent; ranges inside and outside; and counters below a threshold and at it. -/
theorem witness_collective_steps : (∀ b ∈ [stepBytes 1 0 0 0 0 8192 1 0 0 0, stepBytes 1 0 1 0 0 8192 0 0 0 0, stepBytes 2 0 0 0 0 8192 1 0 toSlot1 0, stepBytes 2 0 1 0 0 8192 0 0 toSlot1 0,
        stepBytes 3 0 0 0 8 8192 1 1 toSlot1 0, stepBytes 4 0 0 0 0 8192 0 0 toSlot1 0, stepBytes 5 1 0 7 0 0 0 0 0 0, stepBytes 6 1 0 0 0 0x2000 1 0 0 0], AtStep (collState 4 (run0 [b]) {}) 0 0 (run0 [b]) (comm 4) (parseStep b)) ∧
    (run0 []).member (comm 4) 1 = some 1 ∧ (run0 []).member (comm 4) 0xB000 = none ∧
    ((collState 4 (run0 []) {}).localRange 0 (run0 []) (parseStep (stepBytes 1 0 0 0 0 8192 1 0 0 0)) 0 false).isSome = true ∧
    (collState 4 (run0 []) {}).localRange 0 (run0 []) (parseStep (stepBytes 1 0 0 0 0 8193 1 0 0 0)) 0 false = none ∧
    ((collState 4 (run0 []) {}).localRange 0 (run0 []) (parseStep (stepBytes 2 0 0 0 0 8192 1 0 toSlot1 0)) toSlot1 true).isSome = true ∧ 0 ≤ (run0 []).counters.getD 7 0 ∧ (run0 []).counters.getD 7 0 < 1 ∧
    (∃ task g, (collState 4 (run0 []) {}).task? 0 1 = some task ∧ task.regions.getD (toSlot1 / 2 ^ 61 % 8) none = some g ∧ g.rows ≤ 1) := by
  refine ⟨fun b h => atStep_of b ?_, ?_, ?_, ?_, ?_, ?_, ?_, ?_, ⟨_, _, rfl, rfl, by decide⟩⟩
  on_goal 1 =>
    simp only [List.mem_cons, List.not_mem_nil, or_false] at h
    rcases h with rfl | rfl | rfl | rfl | rfl | rfl | rfl | rfl <;> decide +kernel
  all_goals decide +kernel
/-- A compressed send at which a program stands, and one that its format forbids. -/
theorem witness_compressed_step : let c : Communicator := { comm 4 with efbase := 0x80008000 }
    let b := stepBytes 1 0 0x40 0 8 8192 1 0 0 0
    let s := subj (hostState [] fun q => { q with window := [collTask], comms := [c], colls := [run0 [b]] }) {}
    AtStep s 0 0 (run0 [b]) c (parseStep b) ∧ (parseStep b).comp = true ∧ (parseStep (stepBytes 1 0 0x40 0 9 8192 1 0 0 0)).flags.testBit 6 = true ∧
    (parseStep (stepBytes 1 0 0x40 0 9 8192 1 0 0 0)).red % 16 ∉ [0, 1, 8] := by
  refine ⟨⟨rfl, rfl, show 0 < 16 by decide, List.mem_singleton.mpr rfl, rfl, fun _ hx _ => List.mem_singleton.mp hx, rfl, rfl, by decide +kernel, fun _ => by decide +kernel⟩, by decide +kernel, by decide +kernel, by decide +kernel⟩
/-- Steps that are not legal, loops of 0 and of more, their ends, and barriers of one member and of more. -/
theorem witness_collective_control : 0 < 4 ∧ (0 + (4 - 0)) % 4 < 4 ∧ (parseStep (stepBytes 1 0 0x80 0 0 8 1 0 0 0)).legal = false ∧ (parseStep (stepBytes 0xFF 0 0 0 0 0 0 0 0 0)).op = 0xFF ∧
    (parseStep (stepBytes 7 0 0 0 0 3 0 0 0 0)).legal = true ∧ (parseStep (stepBytes 7 0 0 0 0 0 0 0 0 0)).legal = true ∧ (parseStep (stepBytes 8 0 0 0 0 0 0 0 0 0)).legal = true ∧
    (parseStep (stepBytes 9 3 0 0 0 0 1 0 0 0)).legal = true ∧ (parseStep (stepBytes 10 0 0 0 0 0 0 0 0 0)).legal = true ∧ (run0 []).peers.length = 4 ∧
    (List.replicate 4 (⟨0, 2, 0⟩ : LoopLevel)).length = 4 ∧ (⟨0, 2, 0⟩ : LoopLevel).iter + 1 < 2 ∧ (⟨0, 2, 1⟩ : LoopLevel).count ≤ 1 + 1 ∧ (collState 1 (run0 []) {}).comm? 0 0 = some (comm 1) := by
  refine ⟨?_, ?_, ?_, ?_, ?_, ?_, ?_, ?_, ?_, rfl, rfl, by decide, by decide, rfl⟩ <;> decide +kernel
/-- The ENDL of a LOOP whose LEN is 0, past a nested loop. -/
theorem witness_collective_empty_loop : let steps := [stepBytes 7 0 0 0 0 0 0 0 0 0, stepBytes 7 0 0 0 0 2 0 0 0 0, stepBytes 8 0 0 0 0 0 0 0 0 0, stepBytes 8 0 0 0 0 0 0 0 0 0]
    let opAt (j : Nat) : Nat := ((steps.getD j []).headD 0).toNat
    let inside (j a : Nat) : Nat := ((List.range j).filter fun i => 0 < i ∧ opAt i = a).length
    3 < steps.length ∧ opAt 3 = 8 ∧ inside 3 7 = inside 3 8 ∧ ∀ j, j < 3 → 0 < j → inside (j + 1) 8 ≤ inside (j + 1) 7 := by decide +kernel
/-- A started transfer of one whole chunk and half of another. -/
def transfer (kind : TransferKind) (dest source : Option (Nat × Nat)) : Transfer :=
  { kind := kind, src := some ⟨0, 0, 0x80000000⟩, dst := some ⟨1, 0, 0x80004000⟩, len := 6144, red := 0, ctr := 0, thr := 1, cnt := true, comp := false, dest := dest, source := source, index := 0, got := 4096, out := 4096
    results := [] }
def going (x : Transfer) (armed : List Transfer) (sub : Subject) : State := collState 4 { run0 [] with started := [x], armed := armed } sub
/-- What every clause about chunks asks: one run and one transfer with bytes left, of a task that is not a debug one. -/
theorem witness_chunks (kind : TransferKind) (d q : Option (Nat × Nat)) (sub : Subject) : let x := transfer kind d q
    ((going x [] sub).part 0).comms = [comm 4] ∧ ((going x [] sub).part 0).colls = [{ run0 [] with started := [x] }] ∧ x.got < x.len ∧ x.out < x.len ∧ x.unmatched = false ∧
    ((going x [] sub).task? 0 (run0 []).seq).any Task.debug = false ∧ (comm 4).isSealed = false :=
  ⟨rfl, rfl, show 4096 < 6144 by decide, show 4096 < 6144 by decide, rfl, rfl, rfl⟩
/-- Every chunk that a clause speaks of can be read and written: of a copy, of a send with a credit and without, of a pooled send, and of a send whose source no page holds. -/
theorem witness_collective_chunks : okE ((going (transfer .copy none none) [] {}).readVa 0 (some ⟨8, false⟩) (0x80000000 + 4096) 2048) = true ∧
    okE (((going (transfer .copy none none) [] {}).served 0 (0x80000000 + 4096) 2048).writeVa 0 (some ⟨8, false⟩) (0x80004000 + 4096) (List.replicate 2048 7) (.task 0 1)).2 = true ∧
    ([BitVec.ofNat 8 0] = [(0 : Byte)] ∧ 0 < 64) ∧ (transfer .send (some (1, 0)) none).dest = some (1, 0) ∧ (1 : Nat) ≠ (comm 4).own ∧
    (transfer .poolSend none none).dest = none ∧ (run0 []).contributions = [] ∧ (transfer .send (some (1, 0)) none).dest.isSome = ((transfer .send (some (1, 0)) none).kind == .send) ∧
    (transfer .poolSend none none).dest.isSome = ((transfer .poolSend none none).kind == .send) ∧
    okE ((going { transfer .send (some (1, 0)) none with src := some ⟨0, 0, 0x100000000⟩ } [] {}).readVa 0 (some ⟨8, false⟩) (0x100000000 + 4096) 2048) = false := by
  refine ⟨by decide +kernel, by decide +kernel, by decide, rfl, by decide, rfl, rfl, rfl, rfl, by decide +kernel⟩
/-- A receive of four bytes that stage in the pool and are read back there: they match or do not, with the length of the receive and with another. -/
theorem witness_collective_receive : let x : Transfer := { transfer .rrs (some (1, 0)) (some (2, 5)) with len := 4, got := 0, out := 0 }
    let s (u : Nat) (n : DWord) : State := going x [] { m := 2, u := u, x := n, bytes := [1, 2, 3, 4] }
    let w := ((s 5 4).writeVa 0 (some ⟨8, false⟩) (comm 4).poolbase [1, 2, 3, 4] (.task 0 1)).1
    let w1 := w.served 0 (comm 4).poolbase 4
    (s 5 4).subject.on = false ∧ (s 5 4).subject.lane = 0 ∧ 2 ≤ (comm 4).pooln ∧ okE ((s 5 4).writeVa 0 (some ⟨8, false⟩) (comm 4).poolbase [1, 2, 3, 4] (.task 0 1)).2 = true ∧
    (match w.readVa 0 (some ⟨8, false⟩) (comm 4).poolbase 4 with | .ok (bs, _) => bs == [1, 2, 3, 4] | _ => false) = true ∧ x.source = some (2, 5) ∧ x.source ≠ some (2, 4) ∧
    (s 5 4).subject.x.toNat = x.len ∧ (s 5 8).subject.x.toNat ≠ x.len ∧ [(1 : Byte), 2, 3, 4].length = min 4096 (x.len - x.got) ∧
    okE (w1.readVa 0 (some ⟨8, false⟩) 0x80000000 4) = true ∧ okE ((w1.served 0 0x80000000 4).writeVa 0 (some ⟨8, false⟩) 0x80004000 [1, 2, 3, 4] (.task 0 1)).2 = true ∧
    okE (w1.writeVa 0 (some ⟨8, false⟩) 0x80004000 [1, 2, 3, 4] (.task 0 1)).2 = true := by
  refine ⟨rfl, rfl, by decide, by decide +kernel, by decide +kernel, rfl, ?_, ?_, ?_, ?_, ?_, ?_, ?_⟩ <;> decide +kernel
/-- A pooled receive of two members: the own contribution has left, and the other member's arrives, with the same LEN and RED or with another. -/
theorem witness_collective_pool : let own : Contribution := ⟨0, 0, 0, 4, 9, [1, 0, 0, 0]⟩
    let x : Transfer := { transfer .poolRecv none none with len := 4, got := 0, out := 0 }
    let s : State := collState 2 { run0 [] with started := [x], contributions := [own] } { m := 1, u := 0, x := 4, on := true, lane := 9, bytes := [2, 0, 0, 0] }
    let terms (j : Nat) : Contribution := if j = 0 then own else ⟨1, 0, 0, 4, 9, [2, 0, 0, 0]⟩
    s.subject.on = true ∧ s.subject.lane < 64 ∧ x.index = s.subject.u ∧ ([own].filter fun y => y.member == 1 && y.index == x.index).length = x.got / 4096 ∧ x.got % 4096 = 0 ∧
    (∀ y ∈ [own], y.index = x.index ∧ y.len = x.len ∧ (y.member = 1 → y.chunk < 0)) ∧ s.subject.bytes.length = min 4096 (s.subject.x.toNat - x.got) ∧ s.subject.x.toNat = x.len ∧
    (∀ y ∈ [own], y.red = 9) ∧ (∃ y ∈ [own], y.red ≠ 8) ∧ 1 < (comm 2).size ∧ terms 1 = ⟨1, x.index, 0, x.len, 9, s.subject.bytes⟩ ∧
    (∀ j, j < (comm 2).size → j ≠ 1 → terms j ∈ [own] ∧ ∀ y ∈ [own], y.member = j ∧ y.chunk = 0 ↔ y = terms j) ∧
    okE (s.writeVa 0 (some ⟨8, false⟩) 0x80004000 (reduceBytes (contractOf 8) (contractOf 8).grouping 9 ((List.range 2).map fun j => (terms j).data) none) (.task 0 1)).2 = true := by
  refine ⟨rfl, by decide, rfl, ?_, ?_, ?_, ?_, ?_, ?_, ?_, ?_, rfl, by decide, by decide +kernel⟩ <;> decide +kernel
theorem witness_armed_sends : let y := transfer .send (some (1, 0)) none
    0 < (going (transfer .copy none none) [y] {}).partitions.length ∧ ((going (transfer .copy none none) [y] {}).part 0).colls = [{ run0 [] with started := [transfer .copy none none], armed := [y] }] ∧
    (transfer .copy none none).cnt = true ∧ (transfer .copy none none).ctr < (run0 []).counters.length ∧ y.kind = .send ∧ y.dest = some (1, 0) ∧ y.out < y.len ∧
    y.thr ≤ ((run0 []).counters.modify 0 (· + 1)).getD y.ctr 0 ∧ ((run0 []).counters.modify 0 (· + 1)).getD 0 0 < { y with thr := 2 }.thr ∧
    okE ((going (transfer .copy none none) [y] {}).readVa 0 (some ⟨8, false⟩) (0x80000000 + 4096) 2048) = true ∧
    okE (((going (transfer .copy none none) [y] {}).served 0 (0x80000000 + 4096) 2048).writeVa 0 (some ⟨8, false⟩) (0x80004000 + 4096) (List.replicate 2048 7) (.task 0 1)).2 = true ∧
    ((going (transfer .copy none none) [y] {}).task? 0 1).any Task.debug = false := by
  refine ⟨show 0 < 16 by decide, rfl, rfl, by decide, rfl, rfl, ?_, ?_, ?_, ?_, ?_, rfl⟩ <;> decide +kernel
theorem witness_collective_reductions : (∀ a ∈ [0xFFFFFFFF, 5], a < 256 ^ 4) ∧ (∀ a ∈ [0x3F80], a < 256 ^ 2) ∧ [(1 : Nat), 2].length = [(3 : Nat), 4].length := by decide
/-- A CREATE that waits, below and at 2^26 cycles; contracts in common, and none; a run that has ended, and one whose task can be aborted. -/
def creating : Creating := { seq := 1, desc := 0x80000000, comm := comm 2, req := 0, since := 0 }
def createState (maps : List Byte) : State := subj (hostState [] fun q => { q with window := [collTask], creates := [creating] }) { bytes := maps, on := true }
def twoMaps : List Byte := leBytes 2 0 ++ leBytes 2 0x100
/-- Any eight bytes can be written at RESULT. -/
theorem witness_create_writes (bs : List Byte) (h : bs.length = 8) : ∃ v z, (createState twoMaps).writeVa 0 none (0x80000000 + 48) bs (.task 0 1) = (v, .ok z) := by
  let l := pageLeaf 0x80000000 0x8000000000 0
  have walk : ((createState twoMaps).noteWalk 0 0x80000030).translate 0 0x80000030 .write = .leaf l := by decide +kernel
  have facts : let t := ((createState twoMaps).noteWalk 0 0x80000030).touchPage 0 l true 0x80000030 8
      t.spot 0 l 0x80000030 8 true = none ∧ t.codeAt 0 0x80000030 8 = [] ∧ t.phys? l 0x80000030 = some (.host 0x30) ∧ (t.keyOf 0 l.key).isSome = true := by
    refine ⟨by decide +kernel, by decide +kernel, by decide +kernel, by decide +kernel⟩
  have full : bs.isEmpty = false := by cases bs with
    | nil => cases h
    | cons _ _ => rfl
  have size : spanHere 0x80000030 8 = 8 := by decide
  revert walk facts
  generalize hu : (createState twoMaps).noteWalk 0 0x80000030 = u
  intro walk
  generalize e : u.touchPage 0 l true 0x80000030 8 = t
  rintro ⟨spot, code, phys, key⟩
  have note : t.noteLate (.task 0 1) 0 l 0x80000030 8 = t := by simp only [State.noteLate, spot]
  have noted : t.noteCode 0 l 0x80000030 8 = t := by simp only [State.noteCode, code]; rfl
  have wrote : t.pageWrite 0 l 0x80000030 bs = some (t.hostPut 0x30 bs) := by simp only [State.pageWrite, h, noted, spot, phys]; rw [if_pos key]
  refine ⟨t.hostPut 0x30 bs, false, ?_⟩
  have start : spanFuel bs.length = 2 := by rw [h]; decide
  show (createState twoMaps).engineWrite (.task 0 1) 0 none (spanFuel bs.length) 0x80000030 bs = _
  rw [start, State.engineWrite]
  have packed : l.packed = false := rfl
  simp [full, hu, walk, h, size, packed, stampStops, e, note, wrote, State.engineWrite, stampMismatch, List.take_of_length_le (Nat.le_of_eq h), List.drop_of_length_le (Nat.le_of_eq h)]
theorem witness_collective_create : ((createState twoMaps).part 0).creates = [creating] ∧ creating.comm.id = 0 ∧ 0 < creating.comm.ranks.length ∧ creating.comm.own < 2 ∧ creating.req ≤ 16 ∧ 2 * 2 ≤ twoMaps.length ∧
    field twoMaps 2 2 = 0x100 ∧ (0x01FE).testBit 8 = true ∧ (0x100).testBit 8 = true ∧ (∀ b, 0 < b → b < 16 → b ≠ 8 → (0x100).testBit b = false) ∧ 0 + 2 ^ 26 ≤ 2 ^ 26 ∧
    okE ((createState twoMaps).writeVa 0 none (0x80000000 + 48) (leBytes 8 0x101) (.task 0 1)).2 = true := by
  refine ⟨rfl, rfl, by decide, by decide, by decide, by decide, by decide +kernel, by decide, by decide, ?_, by decide, by decide +kernel⟩
  intro b h h' n
  interval_cases b <;> first | rfl | exact absurd rfl n
/-- Notices of an abort (log 64): of this member, of every member, of another, and one whose bytes are not three. -/
theorem witness_collective_notices : let codes (bs : List Byte) : Bool := bs.length == 3 && (field bs 0 1 == 0x03 || field bs 0 1 == 0x05) && (field bs 1 2 == (comm 4).own || field bs 1 2 == 0xFFFF)
    codes [3, 0, 0] = true ∧ codes [5, 0xFF, 0xFF] = true ∧ codes [3, 1, 0] = false ∧ codes [4, 0, 0] = false ∧ codes [3, 0] = false := by decide +kernel
theorem witness_collective_ends : ((collState 4 (run0 []) {}).part 0).colls = [run0 []] ∧ ((collState 4 (run0 []) {}).part 0).comms = [comm 4] ∧ (run0 []).steps.length ≤ (run0 []).pos ∧ (run0 []).loops = [] ∧ (run0 []).started = [] ∧
    (run0 []).armed = [] ∧ (collState 4 (run0 []) { x := 1 }).subject.x.toNat = (run0 []).ordinal ∧ (0 : DWord).toNat < (run0 []).ordinal ∧ (run0 []).ordinal < (2 : DWord).toNat ∧
    (∃ t, (collState 4 (run0 []) {}).task? 0 1 = some t ∧ t.isFaulted = false ∧ t.done = false) ∧
    okE ((collState 4 (run0 []) {}).writeVa 0 none (comm 4).abortbase ((collState 4 (run0 []) {}).abortRecord 0 (run0 []) (comm 4) 4) (.task 0 1)).2 = true ∧
    (State.reset.comm? 0 0).isNone = true ∧ collTask.arg % 64 = 0 ∧ okE ((collState 4 (run0 []) {}).readVa 0 none 0x80000000 32) = true := by
  refine ⟨rfl, rfl, by decide, rfl, rfl, rfl, by decide, by decide, by decide, ⟨_, rfl, by decide +kernel, by decide +kernel⟩, by decide +kernel, by decide, by decide +kernel, by decide +kernel⟩
/-- CollectiveEnds: a RUN that issues after what came early for it failed, and a chunk that arrives before any RUN has issued; a chunk of the abort record that a
started transfer still writes. -/
def earlyState (early : Early) (sub : Subject) : State := subj (hostState [] fun q => { q with window := [{ collTask with ptr := 0x80000000 }], comms := [{ comm 4 with early := early }] }) sub
theorem witness_collective_early : let failed := earlyState { fail := some (5, 1) } {}
    let s := earlyState {} { m := 1, u := 0, x := 4, bytes := [1, 2, 3, 4] }
    ({ collTask with ptr := 0x80000000 }.isFaulted = false ∧ { collTask with ptr := 0x80000000 }.done = false ∧ { collTask with ptr := 0x80000000 }.debug = false) ∧
    okE (failed.readVa 0 none 0x80000000 (32 * (collTask.arg / 2 ^ 15 % 256 + 1))) = true ∧ collTask.arg / 2 ^ 6 % 512 < (comm 4).ranks.length ∧ (failed.part 0).colls = [] ∧
    ((s.part 0).comms.map Communicator.early) = [{}] ∧ (comm 4).isSealed = false ∧ 2 ≤ (comm 4).pooln ∧ s.subject.on = false ∧ s.subject.lane = 0 ∧
    okE (s.writeVa 0 none (comm 4).poolbase [1, 2, 3, 4] (.task 0 1)).2 = true ∧ okE (s.writeVa 0 none (comm 4).poolbase [1, 2, 3, 4]).2 = true ∧
    (let x := transfer .copy none none
     x.got < x.len ∧ 0 + x.got < 4096 * (1 + 1) ∧ 4096 * 1 < 0 + x.len) := by
  refine ⟨⟨?_, ?_, ?_⟩, ?_, ?_, ?_, ?_, ?_, ?_, ?_, ?_, ?_, ?_, ?_⟩ <;> decide +kernel
/-- R399: S32 SUM wraps; R397: CWAIT passes at its threshold. -/
theorem test_collective_reduction : reduceBytes (contractOf 8) .seqD 9 [leBytes 4 0xFFFFFFFF, leBytes 4 3] = leBytes 4 2 := by decide +kernel
theorem test_cwait : (match Sys2Proof.Machine.exec .collCwait (collState 4 { run0 [stepBytes 5 1 0 7 0 0 0 0 0 0] with counters := [0, 0, 0, 0, 0, 0, 0, 1] } {}) with
    | .next t => some ((t.part 0).colls.map fun r => r.pos) | _ => none) = some [1] ∧
    (match Sys2Proof.Machine.exec .collCwait (collState 4 (run0 [stepBytes 5 1 0 7 0 0 0 0 0 0]) {}) with | .next t => some ((t.part 0).colls.map fun r => r.pos) | _ => none) = some [0] := by decide +kernel

end Sys2Proof.Tests
end

namespace Sys2Proof.Machine
open Sys2Proof

/-! ## Words that compute one register from two sources (R103, R104) -/

/-- The values that a word reads of two sources. -/
theorem Issue.values_two (c : Issue) (l : Nat) (a b : Src) : c.values l [one a, one b] = [c.val l a, c.val l b] := by
  simp [Issue.values, Warp.gets, one, Issue.val]

/-- A word that computes g of its two sources writes it in each thread that takes its result. -/
theorem resultIs_of_two_sources {i : Instr} {h : Head} {d : Reg} {a b : Src} (g : Word → Word → Word) {x : Issue → Nat → Word}
    (run : ∀ s, exec i s = computeWord s h [one a, one b] d fun xs => g (x0 xs) (x1 xs))
    (value : ∀ c l, g (c.val l a) (c.val l b) = x c l) : ResultIs i h [one a, one b] d x := by
  intro s c r
  have hx : (fun l => [x c l]) = fun l => [g (x0 (c.values l [one a, one b])) (x1 (c.values l [one a, one b]))] := by
    funext l; rw [← value, Issue.values_two]; rfl
  rw [run, State.write1, hx]
  exact compute_plain (fun xs => [g (x0 xs) (x1 xs)]) ((regSpan_one d).symm ▸ r)

/-! The word operations of the model as the arithmetic on numbers that the rules' table gives. -/

theorem add_eq_wN (a b : Word) : a + b = wN (a.toNat + b.toNat) := by
  simp [BitVec.ofNat_add]

theorem sub_eq_wI (a b : Word) : a - b = wI (a.toNat - b.toNat) := by
  apply BitVec.eq_of_toInt_eq
  rw [BitVec.toInt_sub, BitVec.toInt_ofInt, BitVec.toInt_eq_toNat_bmod, BitVec.toInt_eq_toNat_bmod, Int.bmod_sub_bmod, Int.sub_bmod_bmod]

theorem mul_eq_wN (a b : Word) : a * b = wN (a.toNat * b.toNat) := by
  simp [BitVec.ofNat_mul]

theorem highWord_natCast (n : Nat) : highWord n = wN (n / 2 ^ 32) := by
  rw [highWord, wN, ← BitVec.ofInt_natCast, Int.natCast_div]; rfl

theorem minWord_signed (a b : Word) : minWord false a b = if a.toInt ≤ b.toInt then a else b := by
  simp [minWord, BitVec.sle_iff_toInt_le]

theorem minWord_unsigned (a b : Word) : minWord true a b = if a.toNat ≤ b.toNat then a else b := by
  simp [minWord, BitVec.ule_iff_toNat_le]

theorem maxWord_signed (a b : Word) : maxWord false a b = if a.toInt ≤ b.toInt then b else a := by
  simp [maxWord, BitVec.sle_iff_toInt_le]

theorem maxWord_unsigned (a b : Word) : maxWord true a b = if a.toNat ≤ b.toNat then b else a := by
  simp [maxWord, BitVec.ule_iff_toNat_le]

theorem shlWord_eq (a b : Word) : shlWord a b = if b.toNat < 32 then wN (a.toNat * 2 ^ b.toNat) else 0 := by
  have shift : a <<< b.toNat = wN (a.toNat * 2 ^ b.toNat) := by
    apply BitVec.eq_of_toNat_eq; simp [Nat.shiftLeft_eq]
  rw [shlWord, shift]

theorem shrWord_eq (a b : Word) : shrWord a b = if b.toNat < 32 then wN (a.toNat / 2 ^ b.toNat) else 0 := by
  have shift : a >>> b.toNat = wN (a.toNat / 2 ^ b.toNat) := by
    apply BitVec.eq_of_toNat_eq
    rw [BitVec.toNat_ushiftRight, BitVec.toNat_ofNat, Nat.shiftRight_eq_div_pow,
      Nat.mod_eq_of_lt (Nat.lt_of_le_of_lt (Nat.div_le_self ..) a.isLt)]
  rw [shrWord, shift]

theorem sarWord_eq (a b : Word) : sarWord a b = wI (a.toInt / 2 ^ min b.toNat 31) := by
  rw [sarWord, BitVec.sshiftRight, Int.shiftRight_eq_div_pow]; norm_cast

/-- The bits that a rotation moves past bit 31 come back below those that it keeps. -/
theorem rotateLeft_eq (a : Word) {r : Nat} (hr : r < 32) : a.rotateLeft r = wN (a.toNat * 2 ^ r + a.toNat * 2 ^ r / 2 ^ 32) := by
  have hpow : (2 : Nat) ^ 32 = 2 ^ (32 - r) * 2 ^ r := by rw [← pow_add]; congr 1; omega
  have hlow : a.toNat * 2 ^ r % 2 ^ 32 = a.toNat % 2 ^ (32 - r) * 2 ^ r := by rw [hpow, Nat.mul_mod_mul_right]
  have hhigh : a.toNat * 2 ^ r / 2 ^ 32 = a.toNat / 2 ^ (32 - r) := by
    rw [hpow, Nat.mul_div_mul_right _ _ (Nat.two_pow_pos r)]
  have hback : a.toNat / 2 ^ (32 - r) < 2 ^ r := by
    rw [Nat.div_lt_iff_lt_mul (Nat.two_pow_pos _), mul_comm, ← hpow]; exact a.isLt
  have hrot : (a.rotateLeft r).toNat = a.toNat * 2 ^ r % 2 ^ 32 + a.toNat * 2 ^ r / 2 ^ 32 :=
    calc (a.rotateLeft r).toNat
        = a.toNat * 2 ^ r % 2 ^ 32 ||| a.toNat / 2 ^ (32 - r) := by
          rw [BitVec.toNat_rotateLeft, Nat.mod_eq_of_lt hr, Nat.shiftLeft_eq, Nat.shiftRight_eq_div_pow]
      _ = a.toNat * 2 ^ r % 2 ^ 32 + a.toNat * 2 ^ r / 2 ^ 32 := by
          rw [hlow, hhigh, ← Nat.shiftLeft_eq, Nat.shiftLeft_add_eq_or_of_lt hback]
  apply BitVec.eq_of_toNat_eq
  rw [BitVec.toNat_ofNat, ← Nat.mod_add_mod, ← hrot, Nat.mod_eq_of_lt (a.rotateLeft r).isLt]

/-- Settles O1: each word computes one operation on its two sources, and that operation is the arithmetic of R103 and R104. -/
theorem integerTwoSource : Obligations.IntegerTwoSource := by
  unfold Obligations.IntegerTwoSource
  intro h d a b
  refine ⟨?iadd, ?isub, ?imul, ?imulh, ?imulhU, ?imin, ?iminU, ?imax, ?imaxU, ?and, ?or, ?xor, ?andn, ?shl, ?shr, ?sar, ?rotl⟩
  case iadd => exact resultIs_of_two_sources (· + ·) (fun _ => rfl) fun _ _ => add_eq_wN ..
  case isub => exact resultIs_of_two_sources (· - ·) (fun _ => rfl) fun _ _ => sub_eq_wI ..
  case imul => exact resultIs_of_two_sources (· * ·) (fun _ => rfl) fun _ _ => mul_eq_wN ..
  case imulh => exact resultIs_of_two_sources (fun p q => highWord (signed p * signed q)) (fun _ => rfl) fun _ _ => rfl
  case imulhU => exact resultIs_of_two_sources (fun p q => highWord (p.toNat * q.toNat)) (fun _ => rfl) fun _ _ => highWord_natCast _
  case imin => exact resultIs_of_two_sources (minWord false) (fun _ => rfl) fun _ _ => minWord_signed ..
  case iminU => exact resultIs_of_two_sources (minWord true) (fun _ => rfl) fun _ _ => minWord_unsigned ..
  case imax => exact resultIs_of_two_sources (maxWord false) (fun _ => rfl) fun _ _ => maxWord_signed ..
  case imaxU => exact resultIs_of_two_sources (maxWord true) (fun _ => rfl) fun _ _ => maxWord_unsigned ..
  case and => exact resultIs_of_two_sources (· &&& ·) (fun _ => rfl) fun _ _ => rfl
  case or => exact resultIs_of_two_sources (· ||| ·) (fun _ => rfl) fun _ _ => rfl
  case xor => exact resultIs_of_two_sources (· ^^^ ·) (fun _ => rfl) fun _ _ => rfl
  case andn => exact resultIs_of_two_sources (fun p q => p &&& ~~~q) (fun _ => rfl) fun _ _ => rfl
  case shl => exact resultIs_of_two_sources shlWord (fun _ => rfl) fun _ _ => shlWord_eq ..
  case shr => exact resultIs_of_two_sources shrWord (fun _ => rfl) fun _ _ => shrWord_eq ..
  case sar => exact resultIs_of_two_sources sarWord (fun _ => rfl) fun _ _ => sarWord_eq ..
  case rotl =>
    exact resultIs_of_two_sources (fun p q => p.rotateLeft (q.toNat % 32)) (fun _ => rfl) fun _ _ =>
      rotateLeft_eq _ (Nat.mod_lt _ (by decide))

/-! ## Changes of the threads of a unit -/

/-- Elements at different positions replaced one after another: each is replaced once. -/
theorem foldl_modifyNth_getElem? {α : Type} (g : Nat → α → α) (n : Nat) {ks : List Nat} (distinct : ks.Nodup) (l : List α) :
    (ks.foldl (fun l k => modifyNth (g k) k l) l)[n]? = if n ∈ ks then l[n]?.map (g n) else l[n]? := by
  induction ks generalizing l with
  | nil => simp
  | cons k ks ih =>
    obtain ⟨hk, hks⟩ := List.nodup_cons.mp distinct
    rw [List.foldl_cons, ih hks, modifyNth_getElem?]
    by_cases e : n = k
    · subst e; simp [hk]
    · simp [e]

/-- Changes of one unit, one after another, are one change of it. -/
theorem State.foldl_modUnit {β : Type} (f m u : Nat) (g : β → Warp → Warp) (xs : List β) (s : State) :
    xs.foldl (fun s x => s.modUnit f m u (g x)) s = s.modUnit f m u fun w => xs.foldl (fun w x => g x w) w := by
  induction xs generalizing s with
  | nil => exact (s.modUnit_id f m u).symm
  | cons x xs ih => rw [List.foldl_cons, ih, State.modUnit_modUnit]; rfl

/-- Changes of different threads of a unit, one after another, are eachThread's. -/
theorem State.foldl_modThread (s : State) (c : Issue) (g : Nat → Thread → Thread) {lanes : List Nat} (distinct : lanes.Nodup) :
    lanes.foldl (fun s l => s.modThread c.f c.m c.u l (g l)) s = s.eachThread c lanes g := by
  have unit (w : Warp) : lanes.foldl (fun w l => w.modThread l (g l)) w =
      { w with threads := w.threads.zipIdx.map fun q => if lanes.contains q.2 then g q.2 q.1 else q.1 } := by
    have threads : lanes.foldl (fun w l => w.modThread l (g l)) w =
        { w with threads := lanes.foldl (fun ts l => modifyNth (g l) l ts) w.threads } :=
      List.foldl_hom (fun ts => { w with threads := ts }) (g₂ := fun (w : Warp) l => w.modThread l (g l)) fun _ _ => rfl
    rw [threads]
    congr 1
    refine List.ext_getElem? fun n => ?_
    rw [foldl_modifyNth_getElem? g n distinct]
    by_cases hn : n ∈ lanes <;> simp [hn, Function.comp_def]
  simp only [State.modThread, State.foldl_modUnit, unit, State.eachThread]

/-- A change of a unit leaves the contract of its task. -/
theorem State.contractNo_modUnit (s : State) (f m u k : Nat) (g : Warp → Warp) : (s.modUnit f m u g).contractNo k = s.contractNo k := by
  have launch : (s.modUnit f m u g).launchOf k = s.launchOf k := by
    simp only [State.launchOf, State.flock?, State.modUnit, State.modWg, State.modFlock, modifyNth_getElem?]
    split <;> simp [Function.comp_def]
  simp only [State.contractNo, launch]

theorem State.contractNo_modThread (s : State) (f m u l k : Nat) (g : Thread → Thread) :
    (s.modThread f m u l g).contractNo k = s.contractNo k := by
  rw [State.modThread, State.contractNo_modUnit]

/-! ## Writes of guards (R44, R111, R112) -/

/-- What a guard write leaves, spelled with the mask of the guard's bit. -/
theorem Thread.withGuard_eq_setBit (t : Thread) (gd : Fin 16) (b : Bool) : t.withGuard gd b = { t with g := setBit t.g gd.val b } := by
  have bit : (1 : BitVec 16) <<< gd.val = BitVec.ofNat 16 (2 ^ gd.val) := by
    apply BitVec.eq_of_toNat_eq; simp [Nat.shiftLeft_eq]
  have guards : (t.g &&& ~~~((1 : BitVec 16) <<< gd.val)) ||| (if b then (1 : BitVec 16) <<< gd.val else 0) = setBit t.g gd.val b := by
    rw [bit, setBit]
    cases b with
    | false => simp
    | true =>
      apply BitVec.eq_of_getLsbD_eq; intro i hi
      simp only [if_true, BitVec.getLsbD_or, BitVec.getLsbD_and, BitVec.getLsbD_not, hi, decide_true, Bool.true_and]
      cases t.g.getLsbD i <;> cases (BitVec.ofNat 16 (2 ^ gd.val)).getLsbD i <;> rfl
  rw [Thread.withGuard, guards]

/-- Guard gd of a lane written with a condition, ANDed with its old value when K = 1. -/
theorem State.setGuard_eq (s : State) (c : Issue) (l : Nat) (k : Bool) (gd : Fin 16) (b : Bool) :
    s.setGuard c l k gd b = s.modThread c.f c.m c.u l fun t => t.withGuard gd (b && (!k || (c.snap.thread l).g.getLsbD gd.val)) := by
  simp only [State.setGuard, Thread.withGuard_eq_setBit]
  cases k <;> simp

theorem State.contractNo_setGuard (s : State) (c : Issue) (l m : Nat) (k : Bool) (gd : Fin 16) (b : Bool) :
    (s.setGuard c l k gd b).contractNo m = s.contractNo m := by
  rw [State.setGuard_eq, State.contractNo_modThread]

/-- Guards written in different lanes are one change of their threads. -/
theorem State.foldl_setGuard (s : State) (c : Issue) (k : Bool) (gd : Fin 16) (cond : Nat → Bool) {lanes : List Nat} (distinct : lanes.Nodup) :
    lanes.foldl (fun s l => s.setGuard c l k gd (cond l)) s = s.eachThread c lanes fun l t =>
      t.withGuard gd (cond l && (!k || (c.snap.thread l).g.getLsbD gd.val)) := by
  rw [← State.foldl_modThread s c _ distinct]
  simp only [State.setGuard_eq]

/-- Of guards written lane by lane, every condition is under the contract that the task has at first. -/
theorem State.foldl_setGuard_contractNo (s : State) (c : Issue) (k : Bool) (gd : Fin 16) (cond : Nat → Nat → Bool) (lanes : List Nat) :
    lanes.foldl (fun s l => s.setGuard c l k gd (cond (s.contractNo c.f) l)) s =
      lanes.foldl (fun t l => t.setGuard c l k gd (cond (s.contractNo c.f) l)) s := by
  induction lanes generalizing s with
  | nil => simp only [List.foldl_nil]
  | cons l lanes ih => simp only [List.foldl_cons, ih, State.contractNo_setGuard]

theorem Ready.exec_nodup {s : State} {c : Issue} {h : Head} {uses : List Use} {dests : List Reg} (r : Ready s c h uses dests) :
    (c.exec h).Nodup := r.distinct.filter _

/-- A compare writes its condition's value in each executing thread. -/
theorem guardIs_of_compare {i : Instr} {h : Head} {uses : List Use} {k : Bool} {gd : Fin 16} (f : Nat → List Word → Bool)
    {cond : Contract → Issue → Nat → Bool} (run : ∀ s, exec i s = compare s h k gd uses f)
    (value : ∀ n c l, f n (c.values l uses) = cond (contractOf n) c l) : GuardIs i h uses k gd cond := by
  intro s c r
  rw [run, compare, onIssue_some _ r.issue, begin_ready _ r,
    s.foldl_setGuard_contractNo c k gd (fun n l => f n (c.values l uses)), State.foldl_setGuard _ _ _ _ _ r.exec_nodup]
  simp only [value, State.contract]

/-- The values that a compare reads of one register and of two. -/
theorem Issue.values_plain (c : Issue) (l : Nat) (a : Reg) : c.values l [plain a] = [c.snap.get l a] := by
  simp [Issue.values, Warp.gets, plain]
theorem Issue.values_plain_two (c : Issue) (l : Nat) (a b : Reg) : c.values l [plain a, plain b] = [c.snap.get l a, c.snap.get l b] := by
  simp [Issue.values, Warp.gets, plain]

/-- The conditions of ICMP and ICMPI are those of R44, in the order of cc. -/
theorem intCond_eq (cc : Fin 8) (a b : Word) : intCond cc a b = (intConditions a b).getD cc.val false := by
  have same : (a == b) = (a.toNat == b.toNat) := by rw [Bool.eq_iff_iff]; simp [BitVec.toNat_inj]
  fin_cases cc
  · exact same
  · exact congrArg not same
  all_goals rfl

/-- The conditions of FCMP are those of R44, in the order of cc. -/
theorem floatCond_eq (cc : Fin 8) (x y : Val) : floatCond cc x y = (floatConditions x y).getD cc.val false := by
  cases un : x.isNan || y.isNan
  all_goals
    simp only [floatCond, floatConditions, un]
    fin_cases cc <;> rfl

theorem truthTable_eq (tt : Fin 16) (p q : Bool) : truthTable tt p q = tt.val.testBit (2 * p.toNat + q.toNat) := by
  rw [Nat.testBit_eq_decide_div_mod_eq]
  cases p <;> cases q <;> rfl

/-- R111: each compare tests the values that its sources had before the chain. -/
theorem compareResults : Rules.CompareResults := by
  unfold Rules.CompareResults
  intro h k gd cc a b imm
  refine ⟨?icmp, ?icmpi, ?fcmp⟩
  case icmp =>
    refine guardIs_of_compare (fun _ xs => intCond cc (x0 xs) (x1 xs)) (fun _ => rfl) fun n c l => ?_
    rw [Issue.values_plain_two]; exact intCond_eq ..
  case icmpi =>
    refine guardIs_of_compare (fun _ xs => intCond cc (x0 xs) (wI imm)) (fun _ => rfl) fun n c l => ?_
    rw [Issue.values_plain]; exact intCond_eq ..
  case fcmp =>
    refine guardIs_of_compare
      (fun n xs => floatCond cc (flushIn (contractOf n) .fp32 (f32 (x0 xs))) (flushIn (contractOf n) .fp32 (f32 (x1 xs))))
      (fun _ => rfl) fun n c l => ?_
    rw [Issue.values_plain_two]; exact floatCond_eq ..

/-- R112: PLOP is a guard write by the bit of its table that the old guards select. -/
theorem plop_guardIs (h : Head) (gd ga gb tt : Fin 16) : GuardIs (.plop h gd ga gb tt) h [] false gd (fun _ c l =>
    let old := (c.snap.thread l).g
    tt.val.testBit (2 * (old.getLsbD ga.val).toNat + (old.getLsbD gb.val).toNat)) := by
  intro s c r
  have run : exec (.plop h gd ga gb tt) s = execPlop h gd ga gb tt s := rfl
  rw [run, execPlop, onIssue_some _ r.issue, begin_ready _ r]
  simp only [truthTable_eq]
  exact congrArg _ (s.foldl_setGuard c false gd (fun l =>
    tt.val.testBit (2 * ((c.snap.thread l).g.getLsbD ga.val).toNat + ((c.snap.thread l).g.getLsbD gb.val).toNat)) r.exec_nodup)

/-! ## PMOV: a write of guards beside a write of registers (R113) -/

/-- A thread with its guards changed. -/
def Thread.mapGuards (f : BitVec 16 → BitVec 16) (t : Thread) : Thread := { t with g := f t.g }

/-- The registers of a unit's lanes are full: nothing in flight is overridden by a write to them. -/
def State.FullIn (s : State) (c : Issue) (lanes : List Nat) (rs : List Reg) : Prop :=
  ∀ w, s.unit? c.f c.m c.u = some w → ∀ l ∈ lanes, ∀ r ∈ rs, w.isFull l r = true

/-- A change of guards and a write of a register, in either order. -/
theorem Warp.put_mapGuards (w : Warp) (k l : Nat) (f : BitVec 16 → BitVec 16) (r : Reg) (x : Word) :
    (w.modThread k (Thread.mapGuards f)).put l r x = (w.put l r x).modThread k (Thread.mapGuards f) := by
  cases r with
  | w n => rfl
  | v n =>
    simp only [Warp.put, Warp.modThread]
    congr 1
    refine List.ext_getElem? fun i => ?_
    simp only [modifyNth_getElem?]
    split <;> split <;> simp [Function.comp_def, Thread.mapGuards]

theorem Warp.writes_mapGuards (w : Warp) (k : Nat) (f : BitVec 16 → BitVec 16) (lanes : List Nat) (d : Reg) (n : Nat) (x : Nat → List Word) :
    (w.modThread k (Thread.mapGuards f)).writes lanes d n x = (w.writes lanes d n x).modThread k (Thread.mapGuards f) :=
  List.foldl_hom (Warp.modThread · k (Thread.mapGuards f)) fun _ _ =>
    List.foldl_hom (Warp.modThread · k (Thread.mapGuards f)) fun w q => (w.put_mapGuards k _ f q.1 q.2)

theorem State.writes_mapGuards (s : State) (c : Issue) (k : Nat) (f : BitVec 16 → BitVec 16) (lanes : List Nat) (d : Reg) (n : Nat) (x : Nat → List Word) :
    (s.modThread c.f c.m c.u k (Thread.mapGuards f)).writes c lanes d n x =
      (s.writes c lanes d n x).modThread c.f c.m c.u k (Thread.mapGuards f) := by
  simp only [State.writes, State.modThread, State.mend_modUnit, State.modUnit_modUnit, Warp.writes_mapGuards]

theorem Warp.isFull_mapGuards (w : Warp) (k l : Nat) (f : BitVec 16 → BitVec 16) (r : Reg) :
    (w.modThread k (Thread.mapGuards f)).isFull l r = w.isFull l r := by
  cases r with
  | w n => rfl
  | v n =>
    simp only [Warp.isFull, Warp.thread, Warp.modThread, List.getD_eq_getElem?_getD, modifyNth_getElem?]
    split
    · rename_i e; subst e; cases w.threads[l]? <;> rfl
    · rfl

theorem Warp.isFull_writes (w : Warp) (l : Nat) (r : Reg) (lanes : List Nat) (d : Reg) (n : Nat) (x : Nat → List Word) (full : w.isFull l r = true) :
    (w.writes lanes d n x).isFull l r = true :=
  List.foldlRecOn lanes _ (motive := fun w : Warp => w.isFull l r = true) full fun _ full k _ => Warp.isFull_puts _ l k r _ full

/-- Registers stay full under a change of their unit that keeps each full. -/
theorem State.FullIn.modUnit {s : State} {c : Issue} {lanes : List Nat} {rs : List Reg} {g : Warp → Warp} (full : s.FullIn c lanes rs)
    (keeps : ∀ w l r, w.isFull l r = true → (g w).isFull l r = true) : (s.modUnit c.f c.m c.u g).FullIn c lanes rs := by
  intro w hw l hl r hr
  rw [State.unit?_modUnit_same, Option.map_eq_some_iff] at hw
  obtain ⟨w, hw, rfl⟩ := hw
  exact keeps w l r (full w hw l hl r hr)

theorem State.FullIn.mapGuards {s : State} {c : Issue} {lanes : List Nat} {rs : List Reg} (full : s.FullIn c lanes rs) (k : Nat)
    (f : BitVec 16 → BitVec 16) : (s.modThread c.f c.m c.u k (Thread.mapGuards f)).FullIn c lanes rs :=
  full.modUnit fun w l r h => (w.isFull_mapGuards k l f r).trans h

theorem State.FullIn.writes {s : State} {c : Issue} {lanes : List Nat} {rs : List Reg} (full : s.FullIn c lanes rs) (ls : List Nat) (d : Reg) (n : Nat)
    (x : Nat → List Word) : (s.writes c ls d n x).FullIn c lanes rs :=
  full.modUnit fun w l r h => w.isFull_writes l r ls d n x h

/-- Writes in one lane and then in others. -/
theorem State.writes_cons (s : State) (c : Issue) (l : Nat) (lanes : List Nat) (d : Reg) (n : Nat) (x : Nat → List Word) :
    s.writes c (l :: lanes) d n x = (s.writes c [l] d n x).writes c lanes d n x := by
  simp [State.writes, Warp.writes, State.mend_modUnit, State.modUnit_modUnit, State.mend_mend]

/-- Guards changed and a full register written lane by lane: the registers are written, and the guards are changed. -/
theorem State.foldl_mapGuards_give {c : Issue} {d : Reg} {n : Nat} (f : Nat → BitVec 16 → BitVec 16) (x : Nat → List Word) (lanes : List Nat)
    (s : State) (full : s.FullIn c lanes (regSpan d n)) :
    lanes.foldl (fun s l => (s.modThread c.f c.m c.u l (Thread.mapGuards (f l))).give c l d n (x l)) s =
      lanes.foldl (fun s l => s.modThread c.f c.m c.u l (Thread.mapGuards (f l))) (s.writes c lanes d n x) := by
  induction lanes generalizing s with
  | nil => simp [State.writes, Warp.writes, State.modUnit_id, State.mend_all]
  | cons l lanes ih =>
    have first : (s.modThread c.f c.m c.u l (Thread.mapGuards (f l))).give c l d n (x l) =
        (s.writes c [l] d n x).modThread c.f c.m c.u l (Thread.mapGuards (f l)) := by
      rw [State.give_ready fun w hw => full.mapGuards l (f l) w hw l List.mem_cons_self, State.writes_mapGuards]
      rfl
    have rest : ((s.writes c [l] d n x).modThread c.f c.m c.u l (Thread.mapGuards (f l))).FullIn c lanes (regSpan d n) :=
      fun w hw k hk => (full.writes [l] d n x).mapGuards l (f l) w hw k (List.mem_cons_of_mem l hk)
    rw [List.foldl_cons, List.foldl_cons, first, ih _ rest, State.writes_mapGuards, ← State.writes_cons]

/-- Guards changed in some lanes, then a full register of one lane written: the register is written, and the guards are changed. -/
theorem State.give_foldl_mapGuards {c : Issue} {d : Reg} {n l : Nat} (f : Nat → BitVec 16 → BitVec 16) (x : List Word) (lanes : List Nat)
    (s : State) (full : s.FullIn c [l] (regSpan d n)) :
    (lanes.foldl (fun s l => s.modThread c.f c.m c.u l (Thread.mapGuards (f l))) s).give c l d n x =
      lanes.foldl (fun s l => s.modThread c.f c.m c.u l (Thread.mapGuards (f l))) (s.writes c [l] d n fun _ => x) := by
  have full' : (lanes.foldl (fun s l => s.modThread c.f c.m c.u l (Thread.mapGuards (f l))) s).FullIn c [l] (regSpan d n) :=
    List.foldlRecOn lanes _ (motive := fun s : State => s.FullIn c [l] (regSpan d n)) full fun _ full k _ => full.mapGuards k (f k)
  rw [State.give_ready fun w hw => full' w hw l List.mem_cons_self]
  exact (List.foldl_hom (fun s => State.writes s c [l] d n fun _ => x) fun s k => (s.writes_mapGuards c k (f k) [l] d n _).symm).symm

/-- The guards that a PMOV leaves of old ones: those that b's low half selects, from a. -/
def selectGuards (a b : Word) (g : BitVec 16) : BitVec 16 := (g &&& ~~~(b.setWidth 16)) ||| (a.setWidth 16 &&& b.setWidth 16)

/-- R113: PMOV writes the old guards to d, in each thread its own or to a w register those of the lowest executing thread of the group, and
changes the guards of every executing thread. -/
theorem pmov_run {h : Head} {d : Reg} {a b : Src} {s : State} {c : Issue} (r : Ready s c h [one a, one b] [d]) :
    exec (.pmov h d a b) s = .next ((s.write1 c (c.targets h d) d fun l =>
      (c.snap.thread (c.source h d l)).g.setWidth 32).eachThread c (c.exec h) fun l => Thread.mapGuards (selectGuards (c.val l a) (c.val l b))) := by
  have run : exec (.pmov h d a b) s = execPmov h d a b s := rfl
  have full : s.FullIn c (c.exec h) (regSpan d 1) := (regSpan_one d).symm ▸ r.now
  rw [run, execPmov, onIssue_some _ r.issue, beginAll_ready _ r, ← State.foldl_modThread _ _ _ r.exec_nodup]
  by_cases hw : d.isW = true
  · simp only [hw, if_true, State.write1, Issue.targets, Issue.source]
    exact congrArg _ (State.give_foldl_mapGuards (fun l => selectGuards (c.val l a) (c.val l b)) _ (c.exec h) s
      fun w hw l hl => full w hw l (List.mem_singleton.mp hl ▸ lowest_mem r.executes))
  · simp only [hw, State.write1, Issue.targets, Issue.source]
    exact congrArg _ (State.foldl_mapGuards_give (fun l => selectGuards (c.val l a) (c.val l b))
      (fun l => [(c.snap.thread l).g.setWidth 32]) (c.exec h) s full)

/-- Settles O5: a compare or PLOP writes its guard in each executing thread, and PMOV's changes of guards commute with its register write. -/
theorem comparesAndGuards : Obligations.ComparesAndGuards := by
  unfold Obligations.ComparesAndGuards Rules.GuardLogic
  exact ⟨compareResults, plop_guardIs, fun _ _ _ _ _ _ r => pmov_run r⟩

end Sys2Proof.Machine

namespace Sys2Proof.Machine
open Sys2Proof

/-! ## Changes of one workgroup -/

theorem State.wg?_modWg_same (s : State) (f m : Nat) (g : Workgroup → Workgroup) : (s.modWg f m g).wg? f m = (s.wg? f m).map g := by
  simp only [State.wg?, State.flock?, State.modWg_flocks, modifyNth_same]
  cases s.flocks[f]? <;> simp [modifyNth_same]

/-- Two changes of a workgroup agree where they make the same of it. -/
theorem State.modWg_congr {s : State} {f m : Nat} {wg : Workgroup} {g g' : Workgroup → Workgroup} (there : s.wg? f m = some wg)
    (same : g wg = g' wg) : s.modWg f m g = s.modWg f m g' := by
  have flocks : modifyNth (fun fl : Flock => { fl with wgs := modifyNth g m fl.wgs }) f s.flocks =
      modifyNth (fun fl : Flock => { fl with wgs := modifyNth g' m fl.wgs }) f s.flocks := by
    refine modifyNth_congr fun fl hfl => ?_
    have wgs : modifyNth g m fl.wgs = modifyNth g' m fl.wgs := modifyNth_congr fun x hx => by
      have : x = wg := by simpa [State.wg?, State.flock?, hfl, hx] using there
      rw [this, same]
    rw [wgs]
  exact congrArg (fun fls => { s with flocks := fls }) flocks

theorem State.modWg_id (s : State) (f m : Nat) : (s.modWg f m fun wg => wg) = s := by
  simp [State.modWg, State.modFlock, modifyNth_id]

/-- Registers stay full under a change of their workgroup that keeps its units. -/
theorem State.FullIn.modWg {s : State} {c : Issue} {lanes : List Nat} {rs : List Reg} {wg : Workgroup} {g : Workgroup → Workgroup}
    (full : s.FullIn c lanes rs) (there : s.wg? c.f c.m = some wg) (units : (g wg).unit? c.u = wg.unit? c.u) :
    (s.modWg c.f c.m g).FullIn c lanes rs := by
  have same : (s.modWg c.f c.m g).unit? c.f c.m c.u = s.unit? c.f c.m c.u := by
    simpa [State.unit?, State.wg?_modWg_same, there] using units
  exact fun w hw => full w (same.symm.trans hw)

/-! ## One thread's word, and the traps that it raises -/

theorem Issue.values_one (c : Issue) (l : Nat) (a : Src) : c.values l [one a] = [c.val l a] := by
  simp [Issue.values, Warp.gets, one, Issue.val]

/-- A word with one group of threads is uniform, or executes in one thread. -/
theorem Issue.groups_eq_singleton {c : Issue} {h : Head} {d : Reg} {ls : List Nat} (only : c.groups h d = [ls]) :
    d.isW = true ∧ c.exec h = ls ∨ d.isW = false ∧ ∃ l, c.exec h = [l] ∧ ls = [l] := by
  cases hw : d.isW with
  | true => simpa [Issue.groups, hw] using only
  | false =>
    simp only [Issue.groups, hw, Bool.false_eq_true, if_false, List.map_eq_singleton_iff] at only
    obtain ⟨l, hl, rfl⟩ := only
    exact .inr ⟨rfl, l, hl, rfl⟩

/-- Such a word gives its result to the lowest of the group, which executes it. -/
theorem Issue.targets_of_groups {c : Issue} {h : Head} {d : Reg} {ls : List Nat} (only : c.groups h d = [ls]) : c.targets h d = [lowest ls] := by
  obtain ⟨hw, rfl⟩ | ⟨hw, l, hl, rfl⟩ := Issue.groups_eq_singleton only
  · simp [Issue.targets, hw]
  · simp [Issue.targets, hw, hl, lowest]

theorem Issue.lowest_mem_exec {c : Issue} {h : Head} {d : Reg} {ls : List Nat} (only : c.groups h d = [ls]) (executes : c.exec h ≠ []) :
    lowest ls ∈ c.exec h := by
  obtain ⟨-, rfl⟩ | ⟨-, l, hl, rfl⟩ := Issue.groups_eq_singleton only
  · exact lowest_mem executes
  · simp [hl, lowest]

theorem State.raises_nil (s : State) : s.raises [] = s := by
  simp [State.raises, State.modIssue]

theorem State.raises_raises (s : State) (ts us : List (Nat × Nat × DWord)) : (s.raises ts).raises us = s.raises (ts ++ us) := by
  simp [State.raises, State.modIssue, Function.comp_def]

theorem State.trapLanes_eq_raises (lanes : List Nat) (cause : Nat) (addr : DWord) (s : State) :
    s.trapLanes lanes cause addr = s.raises (lanes.map fun l => (l, cause, addr)) := by
  induction lanes generalizing s with
  | nil => exact s.raises_nil.symm
  | cons l lanes ih => exact (ih _).trans (State.raises_raises s [(l, cause, addr)] _)

/-! ## The fields of a tag entry (R213) -/

theorem tagFields_eq (e : DWord) : tagFields e = ((tagKey e).toNat, tagValid e, tagPin e, useOf e) := by
  have key : (tagKey e).toNat = e.toNat / 2 ^ 32 := by
    rw [tagKey, BitVec.toNat_setWidth, BitVec.toNat_ushiftRight, Nat.shiftRight_eq_div_pow]; omega
  rw [key]; rfl

/-- An entry is its fields side by side. -/
theorem tagEntry_eq_append (key : Word) (v pin : Bool) (use : BitVec 30) :
    tagEntry key v pin use = key ++ BitVec.ofBool v ++ BitVec.ofBool pin ++ use := by
  apply BitVec.eq_of_toNat_eq
  simp only [tagEntry, BitVec.toNat_append, BitVec.toNat_ofNat, BitVec.toNat_ofBool]
  rw [← Nat.shiftLeft_add_eq_or_of_lt use.isLt, ← Nat.shiftLeft_add_eq_or_of_lt pin.toNat_lt, ← Nat.shiftLeft_add_eq_or_of_lt v.toNat_lt]
  simp only [Nat.shiftLeft_eq]
  cases v <;> cases pin <;> simp <;> omega

/-- The entry that the next use leaves. -/
theorem tagEntry_next_use (key : Word) (v pin : Bool) (use : BitVec 30) :
    tagEntry key v pin (use + 1) = tagOf key.toNat v pin ((use.toNat + 1) % 2 ^ 30) := by
  have next : (use + 1).toNat = (use.toNat + 1) % 2 ^ 30 := BitVec.toNat_add ..
  rw [← next]
  cases v <;> cases pin <;> rfl

/-- An entry is made of its own fields. -/
theorem tagEntry_fields (e : DWord) : tagEntry (tagKey e) (tagValid e) (tagPin e) (BitVec.ofNat 30 (useOf e)) = e := by
  apply BitVec.eq_of_toNat_eq
  simp only [tagEntry, tagKey, tagValid, tagPin, useOf, BitVec.getLsbD, Nat.testBit_eq_decide_div_mod_eq, BitVec.toNat_ofNat,
    BitVec.toNat_setWidth, BitVec.toNat_ushiftRight, Nat.shiftRight_eq_div_pow, decide_eq_true_eq]
  have := e.isLt
  split <;> split <;> omega

/-- An entry that is no longer valid keeps its other fields: only its bit 31 is cleared. -/
theorem tagEntry_invalidated (e : DWord) :
    tagEntry (tagKey e) false (tagPin e) (BitVec.ofNat 30 (useOf e)) = e &&& ~~~(0x80000000#64) := by
  have mask : ~~~(0x80000000#64) = BitVec.allOnes 32 ++ (0#1) ++ BitVec.allOnes 1 ++ BitVec.allOnes 30 := by decide
  conv_rhs => rw [← tagEntry_fields e, tagEntry_eq_append, mask, BitVec.and_append, BitVec.and_append, BitVec.and_append,
    BitVec.and_allOnes, BitVec.and_zero, BitVec.and_allOnes, BitVec.and_allOnes]
  exact tagEntry_eq_append ..

/-! ## The suggested victim (R214) -/

/-- The first element with a property, by its position. -/
theorem findIdx?_of_first {α : Type} {p : α → Bool} {l : List α} {k : Nat} {x : α} (here : l[k]? = some x) (holds : p x = true)
    (first : ∀ j y, j < k → l[j]? = some y → p y = false) : l.findIdx? p = some k := by
  obtain ⟨hk, rfl⟩ := List.getElem?_eq_some_iff.mp here
  refine List.findIdx?_eq_some_iff_getElem.mpr ⟨hk, holds, fun j hj => ?_⟩
  simp [first j _ hj (List.getElem?_eq_getElem (hj.trans hk))]

theorem victim_of_invalid {tags : List DWord} {k : Nat} {e : DWord} (here : tags[k]? = some e) (invalid : tagValid e = false)
    (first : ∀ j x, j < k → tags[j]? = some x → tagValid x = true) : victim tags = some k := by
  have found : (tags.findIdx? fun e => !tagValid e) = some k :=
    findIdx?_of_first here (by simp [invalid]) fun j x hj hx => by simp [first j x hj hx]
  simp only [victim, found]

/-- The entries that are not pinned, each with its slot. -/
def unpinned (tags : List DWord) : List (DWord × Nat) := tags.zipIdx.filter fun q => !tagPin q.1

theorem mem_unpinned {tags : List DWord} {q : DWord × Nat} : q ∈ unpinned tags ↔ tags[q.2]? = some q.1 ∧ tagPin q.1 = false := by
  simp [unpinned, List.mem_zipIdx_iff_getElem?]

theorem unpinned_ascending (tags : List DWord) : (unpinned tags).Pairwise fun q r => q.2 < r.2 := by
  refine List.Pairwise.filter _ (List.pairwise_map.mp ?_)
  rw [List.zipIdx_map_snd]
  exact List.pairwise_lt_range'

/-- Of two entries, the one to evict: the second one only if it is used less. -/
def lessUsed (q r : DWord × Nat) : DWord × Nat := if useOf r.1 < useOf q.1 then r else q

theorem victim_of_valid {tags : List DWord} (valid : ∀ e ∈ tags, tagValid e = true) :
    victim tags = (unpinned tags).head?.map fun q => ((unpinned tags).tail.foldl lessUsed q).2 := by
  have absent : (tags.findIdx? fun e => !tagValid e) = none := by
    rw [List.findIdx?_eq_none_iff]; intro e he; simp [valid e he]
  simp only [victim, absent]
  unfold unpinned
  cases tags.zipIdx.filter _ <;> rfl

/-- Whether one entry goes before another: it is used less, or as much and its slot is not the higher one. -/
def EvictedBefore (q r : DWord × Nat) : Prop := useOf q.1 < useOf r.1 ∨ useOf q.1 = useOf r.1 ∧ q.2 ≤ r.2

theorem EvictedBefore.trans {p q r : DWord × Nat} (pq : EvictedBefore p q) (qr : EvictedBefore q r) : EvictedBefore p r := by
  unfold EvictedBefore at *; omega

/-- The choice between two entries goes before both. -/
theorem lessUsed_evictedBefore {q r : DWord × Nat} (ascending : q.2 < r.2) :
    EvictedBefore (lessUsed q r) q ∧ EvictedBefore (lessUsed q r) r := by
  unfold lessUsed EvictedBefore
  split <;> omega

theorem lessUsed_mem (q r : DWord × Nat) (rest : List (DWord × Nat)) : lessUsed q r ∈ q :: r :: rest := by
  unfold lessUsed
  split <;> simp

/-- The entry chosen among some in ascending slots is one of them and goes before each. -/
theorem foldl_lessUsed {q : DWord × Nat} {rest : List (DWord × Nat)} (ascending : (q :: rest).Pairwise fun q r => q.2 < r.2) :
    rest.foldl lessUsed q ∈ q :: rest ∧ ∀ r ∈ q :: rest, EvictedBefore (rest.foldl lessUsed q) r := by
  induction rest generalizing q with
  | nil => simp [EvictedBefore]
  | cons p rest ih =>
    simp only [List.pairwise_cons, List.forall_mem_cons] at ascending
    obtain ⟨⟨qp, qrest⟩, prest, asc⟩ := ascending
    have later : ∀ r ∈ rest, (lessUsed q p).2 < r.2 := by
      intro r hr; unfold lessUsed; split
      · exact prest r hr
      · exact qrest r hr
    obtain ⟨mem, before⟩ := ih (List.pairwise_cons.mpr ⟨later, asc⟩)
    obtain ⟨first, rests⟩ := List.forall_mem_cons.mp before
    obtain ⟨beforeQ, beforeP⟩ := lessUsed_evictedBefore qp
    refine ⟨?_, List.forall_mem_cons.mpr ⟨first.trans beforeQ, List.forall_mem_cons.mpr ⟨first.trans beforeP, rests⟩⟩⟩
    rcases List.mem_cons.mp mem with e | hr
    · rw [List.foldl_cons, e]; exact lessUsed_mem q p rest
    · exact List.mem_cons_of_mem _ (List.mem_cons_of_mem _ hr)

/-- With every entry valid, the victim is the slot of the unpinned entry that goes before every other one. -/
theorem victim_eq_some_iff {tags : List DWord} {k : Nat} {e : DWord} (valid : ∀ x ∈ tags, tagValid x = true) (here : tags[k]? = some e) :
    victim tags = some k ↔ (e, k) ∈ unpinned tags ∧ ∀ r ∈ unpinned tags, EvictedBefore (e, k) r := by
  rw [victim_of_valid valid]
  have ascending := unpinned_ascending tags
  have slots : ∀ q ∈ unpinned tags, tags[q.2]? = some q.1 := fun q hq => (mem_unpinned.mp hq).1
  generalize unpinned tags = free at ascending slots ⊢
  cases free with
  | nil => simp
  | cons q rest =>
    obtain ⟨mem, before⟩ := foldl_lessUsed ascending
    simp only [List.head?_cons, List.tail_cons, Option.map_some, Option.some.injEq]
    constructor
    · rintro rfl
      have chosen : (e, (rest.foldl lessUsed q).2) = rest.foldl lessUsed q :=
        Prod.ext (Option.some.inj (here.symm.trans (slots _ mem))) rfl
      rw [chosen]; exact ⟨mem, before⟩
    · rintro ⟨hmem, hbefore⟩
      have there := before _ hmem
      have back := hbefore _ mem
      unfold EvictedBefore at there back
      omega

/-- R214: the victim of a table whose entries are all valid. -/
theorem suggestedVictim : Rules.SuggestedVictim := by
  unfold Rules.SuggestedVictim
  intro tags k e valid here
  simp only [tagFields_eq] at valid ⊢
  rw [victim_eq_some_iff valid here, mem_unpinned]
  simp only [here, true_and, mem_unpinned, Prod.forall, EvictedBefore, and_imp]
  exact and_congr_right fun _ => forall_comm

theorem victim_of_pinned {tags : List DWord} (all : ∀ e ∈ tags, tagValid e = true ∧ tagPin e = true) : victim tags = none := by
  have empty : unpinned tags = [] := List.eq_nil_iff_forall_not_mem.mpr fun q hq => by
    obtain ⟨here, free⟩ := mem_unpinned.mp hq
    simp [(all _ (List.mem_of_getElem? here)).2] at free
  rw [victim_of_valid fun e he => (all e he).1, empty]; rfl

/-! ## TAGQ and TAGW (R253, R254) -/

/-- A lookup that hits counts as a use of the entry. -/
theorem Workgroup.tagLookup_hit {wg : Workgroup} {key : Word} {k : Nat} {e : DWord} (here : wg.tags[k]? = some e)
    (hit : tagKey e = key ∧ tagValid e = true) (first : ∀ j x, j < k → wg.tags[j]? = some x → ¬(tagKey x = key ∧ tagValid x = true)) :
    wg.tagLookup key = ({ wg with
      tagUse := wg.tagUse + 1
      tags := wg.tags.set k (tagOf key.toNat true (tagPin e) ((wg.tagUse.toNat + 1) % 2 ^ 30)) }, wN (2 ^ 31 + k)) := by
  obtain ⟨rfl, valid⟩ := hit
  have found : (wg.tags.findIdx? fun x => tagValid x && tagKey x == tagKey e) = some k :=
    findIdx?_of_first here (by simp [valid]) fun j x hj hx => by
      simpa [imp_not_comm] using first j x hj hx
  have entry : modifyNth (fun x => tagEntry (tagKey x) true (tagPin x) (wg.tagUse + 1)) k wg.tags =
      wg.tags.set k (tagOf (tagKey e).toNat true (tagPin e) ((wg.tagUse.toNat + 1) % 2 ^ 30)) := by
    rw [← tagEntry_next_use, List.set_eq_modify]
    exact modifyNth_congr fun x hx => by rw [Option.some.inj (hx.symm.trans here)]
  simp only [Workgroup.tagLookup, found, entry, wN]

/-- A lookup that misses changes nothing. -/
theorem Workgroup.tagLookup_miss {wg : Workgroup} {key : Word} (miss : ∀ e ∈ wg.tags, ¬(tagKey e = key ∧ tagValid e = true)) :
    wg.tagLookup key = (wg, (victim wg.tags).elim (wN (2 ^ 30)) fun k => wN (256 * k)) := by
  have absent : (wg.tags.findIdx? fun x => tagValid x && tagKey x == key) = none := by
    rw [List.findIdx?_eq_none_iff]
    intro e he; simpa [imp_not_comm] using miss e he
  simp only [Workgroup.tagLookup, absent]
  cases victim wg.tags with
  | none => rfl
  | some k => exact congrArg (fun n => (wg, wN n)) (Nat.mul_comm k 256)

/-- A write of a slot that the workgroup has returns the old entry. -/
theorem Workgroup.tagWrite_eq {wg : Workgroup} {k : Nat} {old : DWord} (v pin : Bool) (key : Word) (here : wg.tags[k]? = some old) :
    wg.tagWrite k v pin key = ({ wg with
      tagUse := wg.tagUse + 1
      tags := (wg.tags.map fun e => if v = true ∧ tagKey e = key ∧ tagValid e = true then e &&& ~~~(0x80000000#64) else e).set k
        (tagOf key.toNat v pin ((wg.tagUse.toNat + 1) % 2 ^ 30)) }, old) := by
  have was : nth 0 wg.tags k = old := by simp [nth, here]
  have others (e : DWord) : (if (v && tagValid e && tagKey e == key) = true then
      tagEntry (tagKey e) false (tagPin e) (BitVec.ofNat 30 (useOf e)) else e) =
      if v = true ∧ tagKey e = key ∧ tagValid e = true then e &&& ~~~(0x80000000#64) else e := by
    rw [tagEntry_invalidated]
    refine if_congr ?_ rfl rfl
    simp only [Bool.and_eq_true, beq_iff_eq, and_assoc, and_comm (a := tagKey e = key)]
  rw [← tagEntry_next_use, List.set_eq_modify]
  simp only [Workgroup.tagWrite, was, others, modifyNth]

theorem bitsOf_low_byte (x : Word) : bitsOf x.toNat 7 0 = x.toNat % 2 ^ 8 := by simp [bitsOf]

theorem dwords_eq_pairOf (x : DWord) : dwords x = pairOf x.toNat := by
  have low : x.setWidth 32 = wN x.toNat := BitVec.eq_of_toNat_eq (by simp)
  have high : (x >>> 32).setWidth 32 = wN (x.toNat / 2 ^ 32) := BitVec.eq_of_toNat_eq (by simp [Nat.shiftRight_eq_div_pow])
  rw [dwords, pairOf, low, high]

section
variable {s : State} {c : Issue} {h : Head} {uses : List Use} {d : Reg} {n : Nat} {ls : List Nat} {wg : Workgroup}
  {op : Workgroup → List Word → Option (Workgroup × List Word)} {slot : List Word → DWord}
  (only : c.groups h d = [ls]) (there : s.wg? c.f c.m = some wg) (sound : s.bad = [])
include only there sound

/-- A tag operation of one group of threads gives its result to the lowest of them, or raises PROTFAULT in each. -/
theorem tagWord_ready (r : Ready s c h uses (regSpan d n)) :
    tagWord s h uses d n op slot = .next ((op wg (c.values (lowest ls) uses)).elim
      (s.raises (ls.map fun l => (l, causeProtfault, slot (c.values (lowest ls) uses))))
      fun q => (s.modWg c.f c.m fun _ => q.1).give c (lowest ls) d n q.2) := by
  have good : s.badTag c = false := by simp [State.badTag, sound]
  rw [tagWord, onIssue_some _ r.issue, begin_ready _ r, ← State.trapLanes_eq_raises]
  obtain ⟨hw, hl⟩ | ⟨hw, l, hl, rfl⟩ := Issue.groups_eq_singleton only
  all_goals
    simp only [hw, hl, good, there, Bool.false_eq_true, if_true, if_false, List.foldl_cons, List.foldl_nil]
    cases op wg _ <;> rfl

/-- A tag operation that succeeds changes the workgroup and writes its result. -/
theorem tagWord_some {g : Workgroup → Workgroup} {vals : List Word} (r : Ready s c h uses (regSpan d n))
    (result : op wg (c.values (lowest ls) uses) = some (g wg, vals))
    (units : (g wg).unit? c.u = wg.unit? c.u) :
    tagWord s h uses d n op slot = .next ((s.modWg c.f c.m g).writes c (c.targets h d) d n fun _ => vals) := by
  have full : (s.modWg c.f c.m g).FullIn c (c.exec h) (regSpan d n) := State.FullIn.modWg r.now there units
  have written : s.modWg c.f c.m (fun _ => g wg) = s.modWg c.f c.m g := State.modWg_congr there rfl
  rw [tagWord_ready only there sound r, result, Option.elim_some, written,
    State.give_ready fun w hw => full w hw _ (Issue.lowest_mem_exec only r.executes), Issue.targets_of_groups only]

/-- A tag operation that fails raises PROTFAULT in every thread of its group. -/
theorem tagWord_none (r : Ready s c h uses (regSpan d n))
    (result : op wg (c.values (lowest ls) uses) = none) :
    tagWord s h uses d n op slot = .next (s.raises (ls.map fun l => (l, causeProtfault, slot (c.values (lowest ls) uses)))) := by
  rw [tagWord_ready only there sound r, result, Option.elim_none]

end

section
variable {s : State} {c : Issue} {h : Head} {d : Reg} {a b : Src} {ls : List Nat} {wg : Workgroup}
  (only : c.groups h d = [ls]) (there : s.wg? c.f c.m = some wg) (sound : s.bad = [])
include only there sound

/-- TAGQ changes the workgroup and writes its result as the lookup of its key does. -/
theorem tagq_run {g : Workgroup → Workgroup} {x : Word} (r : Ready s c h [one a] [d])
    (result : wg.tagLookup (c.val (lowest ls) a) = (g wg, x))
    (units : (g wg).unit? c.u = wg.unit? c.u) :
    exec (.tagq h d a) s = .next ((s.modWg c.f c.m g).write1 c (c.targets h d) d fun _ => x) := by
  have run : exec (.tagq h d a) s = execTagq h d a s := rfl
  rw [run, execTagq]
  refine tagWord_some only there sound ((regSpan_one d).symm ▸ r) ?_ units
  simp only [Issue.values_one, x0, nth, List.getD_cons_zero, result]

/-- A lookup that misses leaves the state as it is but for its result. -/
theorem tagq_miss {x : Word} (r : Ready s c h [one a] [d])
    (miss : ∀ e ∈ wg.tags, ¬(tagKey e = c.val (lowest ls) a ∧ tagValid e = true))
    (suggests : (victim wg.tags).elim (wN (2 ^ 30)) (fun k => wN (256 * k)) = x) :
    exec (.tagq h d a) s = .next (s.write1 c (c.targets h d) d fun _ => x) := by
  have run := tagq_run (g := fun wg => wg) only there sound r (suggests ▸ Workgroup.tagLookup_miss miss) rfl
  rwa [State.modWg_id] at run

/-- TAGW of a slot that the workgroup lacks. -/
theorem tagw_absent (r : Ready s c h [one a, one b] (regSpan d 2))
    (past : wg.tags.length ≤ (c.val (lowest ls) a).toNat % 2 ^ 8) :
    exec (.tagw h d a b) s = .next (s.raises (ls.map fun l => (l, causeProtfault, BitVec.ofNat 64 ((c.val (lowest ls) a).toNat % 2 ^ 8)))) := by
  have run : exec (.tagw h d a b) s = execTagw h d a b s := rfl
  rw [run, execTagw]
  refine (tagWord_none only there sound r ?_).trans ?_
  all_goals simp only [Issue.values_two, x0, nth, List.getD_cons_zero, bitsOf_low_byte, past, if_true]

/-- TAGW of a slot that the workgroup has changes the workgroup as the write of that slot does, and returns the old entry. -/
theorem tagw_run {g : Workgroup → Workgroup} {old : DWord} (r : Ready s c h [one a, one b] (regSpan d 2))
    (has : (c.val (lowest ls) a).toNat % 2 ^ 8 < wg.tags.length)
    (result : wg.tagWrite ((c.val (lowest ls) a).toNat % 2 ^ 8) ((c.val (lowest ls) a).getLsbD 8) ((c.val (lowest ls) a).getLsbD 9)
      (c.val (lowest ls) b) = (g wg, old))
    (units : (g wg).unit? c.u = wg.unit? c.u) :
    exec (.tagw h d a b) s = .next ((s.modWg c.f c.m g).writes c (c.targets h d) d 2 fun _ => pairOf old.toNat) := by
  have run : exec (.tagw h d a b) s = execTagw h d a b s := rfl
  rw [run, execTagw]
  refine tagWord_some only there sound r ?_ units
  simp only [Issue.values_two, x0, x1, nth, List.getD_cons_zero, List.getD_cons_succ, bitsOf_low_byte, Nat.not_le.mpr has, if_false, result,
    dwords_eq_pairOf]

end

/-- R253, R254: the words of one thread on its workgroup's table. -/
theorem tagTableWords : Rules.TagTable := by
  unfold Rules.TagTable
  intro s c h d a b ls wg only there sound
  simp only [tagFields_eq, BitVec.toNat_inj]
  refine ⟨fun r => ⟨?hit, fun miss => ⟨?invalid, ?pinned⟩⟩, fun r => ⟨?absent, ?write⟩⟩
  case hit =>
    intro k e here hit first
    exact tagq_run only there sound r (Workgroup.tagLookup_hit here hit first) rfl
  case invalid =>
    intro k e here invalid first
    exact tagq_miss only there sound r miss (by rw [victim_of_invalid here invalid first]; rfl)
  case pinned =>
    intro all
    exact tagq_miss only there sound r miss (by rw [victim_of_pinned all]; rfl)
  case absent => exact tagw_absent only there sound r
  case write =>
    intro old here
    exact tagw_run only there sound r (List.getElem?_eq_some_iff.mp here).1 (Workgroup.tagWrite_eq _ _ _ here) rfl

/-- Settles O31: a ready word runs the table's operation once for its group, and the victim is the first entry in the order of eviction. -/
theorem tagTable : Obligations.TagTable := ⟨tagTableWords, suggestedVictim⟩

end Sys2Proof.Machine

namespace Sys2Proof.Machine
open Sys2Proof

/-! ## Changes of a unit in one lane after another -/

/-- A change of a unit that leaves every thread but lane l's. -/
def OnlyLane (l : Nat) (g : Warp → Warp) : Prop := ∀ w k, k ≠ l → (g w).threads[k]? = w.threads[k]?

theorem Warp.onlyLane_modThread (l : Nat) (f : Thread → Thread) : OnlyLane l fun w => w.modThread l f :=
  fun w _ ne => modifyNth_other f w.threads ne

theorem Warp.onlyLane_empty (l : Nat) (d : Reg) : OnlyLane l fun w => w.empty l d := by
  cases d with
  | v n => exact Warp.onlyLane_modThread l _
  | w n => exact fun _ _ _ => rfl

theorem OnlyLane.comp {l : Nat} {g g' : Warp → Warp} (first : OnlyLane l g) (next : OnlyLane l g') : OnlyLane l fun w => g' (g w) :=
  fun w k ne => (next (g w) k ne).trans (first w k ne)

/-- It leaves the v registers of every other lane as full as they were. -/
theorem OnlyLane.isFull {l k : Nat} {g : Warp → Warp} {d : Reg} (only : OnlyLane l g) (w : Warp) (hv : d.isW = false) (ne : k ≠ l) :
    (g w).isFull k d = w.isFull k d := by
  cases d with
  | v n => simp only [Warp.isFull, Warp.thread, List.getD_eq_getElem?_getD, only w k ne]
  | w n => exact Bool.noConfusion hv

/-- It leaves what a word that takes random words sees of the thread of every other lane. -/
theorem OnlyLane.live_modUnit {l k : Nat} {g : Warp → Warp} (only : OnlyLane l g) (s : State) (c : Issue) (ne : k ≠ l) :
    (s.modUnit c.f c.m c.u g).live c k = s.live c k := by
  have thread : (s.modUnit c.f c.m c.u g).thread? c.f c.m c.u k = s.thread? c.f c.m c.u k := by
    simp only [State.thread?, State.unit?_modUnit_same, Option.bind_map]
    exact congrArg _ (funext fun w => only w k ne)
  rw [State.live, thread, State.live]

/-- Some lanes have a register d each. -/
def OwnRegister (d : Reg) (lanes : List Nat) : Prop := lanes.Pairwise fun k l => d.isW = false ∧ k ≠ l

theorem OwnRegister.one (d : Reg) (l : Nat) : OwnRegister d [l] := List.pairwise_singleton ..

theorem OwnRegister.of_nodup {d : Reg} {lanes : List Nat} (hv : d.isW = false) (distinct : lanes.Nodup) : OwnRegister d lanes :=
  List.Pairwise.imp (fun ne => ⟨hv, ne⟩) distinct

theorem OwnRegister.nodup {d : Reg} {lanes : List Nat} (own : OwnRegister d lanes) : lanes.Nodup := List.Pairwise.imp And.right own

/-- What is done lane by lane to a full register, each time in its lane only, is what is done to it while it is full. -/
theorem State.foldl_of_full {c : Issue} {d : Reg} {f f' : State → Nat → State} (g : Nat → Warp → Warp)
    (step : ∀ s l, s.FullIn c [l] [d] → f s l = f' s l) (unit : ∀ s l, (f' s l).unit? c.f c.m c.u = (s.unit? c.f c.m c.u).map (g l))
    (only : ∀ l, OnlyLane l (g l)) (lanes : List Nat) (s : State) (full : s.FullIn c lanes [d]) (own : OwnRegister d lanes) :
    lanes.foldl f s = lanes.foldl f' s := by
  induction lanes generalizing s with
  | nil => rfl
  | cons l lanes ih =>
    obtain ⟨apart, own⟩ := List.pairwise_cons.mp own
    have here : s.FullIn c [l] [d] := fun w hw k hk => full w hw k (List.mem_singleton.mp hk ▸ List.mem_cons_self)
    have rest : (f' s l).FullIn c lanes [d] := by
      intro w hw k hk r hr
      obtain rfl := List.mem_singleton.mp hr
      obtain ⟨hv, ne⟩ := apart k hk
      obtain ⟨old, was, rfl⟩ := Option.map_eq_some_iff.mp ((unit s l).symm.trans hw)
      exact ((only l).isFull old hv ne.symm).trans (full old was k (List.mem_cons_of_mem l hk) r (List.mem_singleton_self r))
    rw [List.foldl_cons, List.foldl_cons, step s l here, ih _ rest own]

/-! ## Full registers made empty (R24, R55) -/

/-- A full register made empty overrides nothing in flight. -/
theorem State.emptyRegs_full {s : State} {c : Issue} {l : Nat} {d : Reg} (full : s.FullIn c [l] [d]) :
    s.emptyRegs c.f c.m c.u l [d] = s.modUnit c.f c.m c.u fun w => w.empty l d := by
  cases hu : s.unit? c.f c.m c.u with
  | none => simp only [State.emptyRegs, hu, if_true]
  | some w => simp only [State.emptyRegs, hu, full w hu l (List.mem_singleton_self l) d (List.mem_singleton_self d), if_true]

theorem Warp.empties_one (w : Warp) (lanes : List Nat) (d : Reg) : w.empties lanes d 1 = lanes.foldl (fun w l => w.empty l d) w := by
  simp only [Warp.empties, regSpan_one, List.foldl_cons, List.foldl_nil]

/-- Full registers of different lanes made empty, one after another, are one change of the unit. -/
theorem State.foldl_emptyRegs {s : State} {c : Issue} {d : Reg} {lanes : List Nat} (full : s.FullIn c lanes [d]) (own : OwnRegister d lanes) :
    lanes.foldl (fun s l => s.emptyRegs c.f c.m c.u l [d]) s = s.modUnit c.f c.m c.u fun w => w.empties lanes d 1 := by
  simp only [Warp.empties_one]
  rw [← State.foldl_modUnit]
  exact State.foldl_of_full (fun l w => w.empty l d) (fun _ _ => State.emptyRegs_full) (fun s _ => s.unit?_modUnit_same ..)
    (fun l => Warp.onlyLane_empty l d) lanes s full own

/-! ## QPOP (R96, R179) -/

/-- A thread's SEQ once it has taken one random word: it has advanced, unless the chain takes no effect in the thread. -/
def Issue.advances (c : Issue) (l : Nat) (w : Warp) : Warp :=
  if c.gone.contains l then w else w.modThread l fun t => { t with seq := t.seq + 1 }

theorem Issue.onlyLane_advances (c : Issue) (l : Nat) : OnlyLane l (c.advances l) := by
  unfold Issue.advances
  split
  · exact fun _ _ _ => rfl
  · exact Warp.onlyLane_modThread l _

theorem State.advanceSeq_one (s : State) (c : Issue) (l : Nat) : s.advanceSeq c l 1 = s.modUnit c.f c.m c.u (c.advances l) := by
  unfold State.advanceSeq Issue.advances
  split
  · exact (s.modUnit_id ..).symm
  · rfl

/-- SEQ and the full/empty bits of registers change in either order. -/
theorem Warp.advances_empty (w : Warp) (c : Issue) (k l : Nat) (d : Reg) :
    c.advances k (w.empty l d) = (c.advances k w).empty l d := by
  unfold Issue.advances
  split
  · rfl
  · cases d with
    | w n => rfl
    | v n =>
      simp only [Warp.empty, Warp.modThread]
      congr 1
      refine List.ext_getElem? fun i => ?_
      simp only [modifyNth_getElem?]
      split <;> split <;> simp [Function.comp_def]

/-- Lane by lane, or all registers first and then all SEQs. -/
theorem Warp.foldl_empty_advances (c : Issue) (d : Reg) (lanes : List Nat) (w : Warp) :
    lanes.foldl (fun w l => c.advances l (w.empty l d)) w = lanes.foldl (fun w l => c.advances l w) (w.empties lanes d 1) := by
  rw [Warp.empties_one]
  induction lanes generalizing w with
  | nil => rfl
  | cons l lanes ih =>
    have swap : lanes.foldl (fun w k => w.empty k d) (c.advances l (w.empty l d)) =
        c.advances l (lanes.foldl (fun w k => w.empty k d) (w.empty l d)) :=
      List.foldl_hom (c.advances l) fun w k => (w.advances_empty c l k d).symm
    rw [List.foldl_cons, ih, swap]
    rfl

/-- The SEQs of different threads advance where the chain takes effect. -/
theorem State.modUnit_advances (s : State) (c : Issue) {lanes : List Nat} (distinct : lanes.Nodup) :
    (s.modUnit c.f c.m c.u fun w => lanes.foldl (fun w l => c.advances l w) w) =
      s.eachThread c (lanes.filter fun l => !c.gone.contains l) fun _ t => { t with seq := t.seq + 1 } := by
  rw [← State.foldl_modThread _ _ _ (distinct.filter _), List.foldl_filter, ← State.foldl_modUnit]
  congr 1
  funext s l
  unfold Issue.advances
  cases c.gone.contains l
  · rfl
  · exact s.modUnit_id ..

/-- The random word that a thread asks for, by its SEQ and SRSEED. -/
def State.randomAsked (s : State) (c : Issue) (d : Reg) (l : Nat) : RandomRequest :=
  { f := c.f, m := c.m, u := c.u, lanes := [l], lane := l, seq := (s.live c l).seq, srseed := (s.live c l).srseed
    dest := d, convert := none, drop := false }

/-- QPOP of q2 in one thread: its register is empty, its SEQ advances, and it asks for the word of the SEQ that it had. -/
def State.takesRandom (s : State) (c : Issue) (d : Reg) (l : Nat) : State :=
  { s.modUnit c.f c.m c.u (fun w => c.advances l (w.empty l d)) with randoms := s.randoms ++ [s.randomAsked c d l] }

theorem Issue.onlyLane_takes (c : Issue) (d : Reg) (l : Nat) : OnlyLane l fun w => c.advances l (w.empty l d) :=
  (Warp.onlyLane_empty l d).comp (c.onlyLane_advances l)

/-- Different threads that take random words each ask for the word of the SEQ that they had at first. -/
theorem State.foldl_takesRandom (s : State) (c : Issue) (d : Reg) {lanes : List Nat} (distinct : lanes.Nodup) :
    lanes.foldl (fun s l => s.takesRandom c d l) s =
      { s.modUnit c.f c.m c.u (fun w => lanes.foldl (fun w l => c.advances l (w.empty l d)) w) with
        randoms := s.randoms ++ lanes.map (s.randomAsked c d) } := by
  induction lanes generalizing s with
  | nil => simp [State.modUnit_id]
  | cons l lanes ih =>
    obtain ⟨new, distinct⟩ := List.nodup_cons.mp distinct
    have asked : lanes.map ((s.takesRandom c d l).randomAsked c d) = lanes.map (s.randomAsked c d) := List.map_congr_left fun k hk => by
      have live : (s.takesRandom c d l).live c k = s.live c k := (c.onlyLane_takes d l).live_modUnit s c fun e => new (e ▸ hk)
      simp only [State.randomAsked, live]
    have unit : (s.takesRandom c d l).modUnit c.f c.m c.u (fun w => lanes.foldl (fun w l => c.advances l (w.empty l d)) w) =
        { s.modUnit c.f c.m c.u (fun w => (l :: lanes).foldl (fun w l => c.advances l (w.empty l d)) w) with
          randoms := s.randoms ++ [s.randomAsked c d l] } :=
      congrArg (fun t : State => { t with randoms := s.randoms ++ [s.randomAsked c d l] }) (s.modUnit_modUnit ..)
    rw [List.foldl_cons, ih _ distinct, asked, unit, List.map_cons]
    simp only [State.takesRandom, List.append_assoc, List.singleton_append]

/-- QPOP of q2 in different threads whose registers are full. -/
theorem State.foldl_qpop_random {s : State} {c : Issue} {d : Reg} {lanes : List Nat} (full : s.FullIn c lanes [d]) (own : OwnRegister d lanes) :
    lanes.foldl (fun s l =>
        let t := (s.emptyRegs c.f c.m c.u l [d]).advanceSeq c l 1
        { t with randoms := t.randoms ++ [s.randomAsked c d l] }) s =
      { (s.modUnit c.f c.m c.u fun w => w.empties lanes d 1).eachThread c (lanes.filter fun l => !c.gone.contains l)
          (fun _ t => { t with seq := t.seq + 1 }) with
        randoms := s.randoms ++ lanes.map (s.randomAsked c d) } := by
  refine (State.foldl_of_full (f' := fun s l => s.takesRandom c d l) (fun l w => c.advances l (w.empty l d)) (fun s l here => ?step)
    (fun s _ => s.unit?_modUnit_same ..) (c.onlyLane_takes d) lanes s full own).trans ?_
  case step =>
    simp only [State.emptyRegs_full here, State.advanceSeq_one, State.modUnit_modUnit]
    rfl
  rw [State.foldl_takesRandom s c d own.nodup]
  simp only [Warp.foldl_empty_advances]
  rw [← State.modUnit_advances _ c own.nodup, State.modUnit_modUnit]

/-- A w register is full for one lane as for another. -/
theorem Warp.isFull_uniform {d : Reg} (hw : d.isW = true) (w : Warp) (k l : Nat) : w.isFull k d = w.isFull l d := by
  cases d with
  | v n => exact Bool.noConfusion hw
  | w n => rfl

section
variable {s : State} {c : Issue} {h : Head} {uses : List Use} {d : Reg}

/-- The w register that a ready word writes is full, whatever thread stands for it. -/
theorem Ready.fullIn_uniform (r : Ready s c h uses [d]) (hw : d.isW = true) (k : Nat) : s.FullIn c [k] [d] := by
  intro w hu l _ q hq
  obtain rfl := List.mem_singleton.mp hq
  exact (w.isFull_uniform hw _ _).trans (r.now w hu _ (lowest_mem r.executes) q hq)

/-- The threads that take a ready word's result have a full register each. -/
theorem Ready.targets_fullIn (r : Ready s c h uses [d]) : s.FullIn c (c.targets h d) [d] := by
  unfold Issue.targets
  split
  · exact r.fullIn_uniform ‹_› _
  · exact r.now

theorem Ready.targets_own (r : Ready s c h uses [d]) : OwnRegister d (c.targets h d) := by
  unfold Issue.targets
  split
  · exact .one ..
  · exact .of_nodup (Bool.eq_false_of_not_eq_true ‹_›) r.exec_nodup

end

/-- R96, R179: q2 gives each thread its word, and to a w destination the highest one's; the other queues' pops wait in the order of issue. -/
theorem queuePop : Rules.QueuePop := by
  unfold Rules.QueuePop
  intro s c h d n r _
  have run : exec (.qpop h n d) s = execQpop h n d s := rfl
  rw [run, execQpop, onIssue_some _ r.issue, beginAll_ready _ r]
  by_cases q2 : n = 2
  · by_cases hw : d.isW = true
    · simp only [q2, hw, and_self, if_true]
      exact congrArg _ (State.foldl_qpop_random (r.fullIn_uniform hw _) (.one ..))
    · simp only [q2, hw, if_true, Issue.targets]
      exact congrArg _ (State.foldl_qpop_random r.now (.of_nodup (Bool.eq_false_of_not_eq_true hw) r.exec_nodup))
  · simp only [q2, false_and, if_false]
    rw [← State.foldl_emptyRegs r.targets_fullIn r.targets_own]
    rfl

/-! ## GANG (R287) -/

theorem popCount_eq_countP (x : Word) : popCount x = (List.range 32).countP fun i => x.getLsbD i :=
  List.countP_eq_length_filter.symm

/-- The test by which GANG raises GANGBAD holds of a herder, and of every mask that is neither 0 nor legal. -/
theorem gangbad_iff (c : Issue) (x : Word) (nwarp : Nat) :
    (c.isHerder || (x ≠ 0 && (decide (popCount x < 2) || decide (6 < popCount x) || !x.getLsbD c.u || decide (2 ^ nwarp ≤ x.toNat)))) = true ↔
      ¬(c.u ≠ 32 ∧ (x = 0 ∨ (2 ≤ popCount x ∧ popCount x ≤ 6 ∧ x.getLsbD c.u = true ∧ x.toNat < 2 ^ nwarp))) := by
  simp only [Issue.isHerder, herderUnit, Bool.or_eq_true, Bool.and_eq_true, Bool.not_eq_true', beq_iff_eq, decide_eq_true_eq, not_and_or, not_or,
    not_not, not_le, not_lt, Bool.not_eq_true, or_assoc, ne_eq]

/-- R287: a refused mask traps every thread in which the word takes effect, and any other is written. -/
theorem gangRegister : Rules.GangRegister := by
  unfold Rules.GangRegister
  intro s c h a l r launch
  have run : exec (.gang h a) s = execGang h a s := rfl
  rw [run, execGang, onIssue_some _ r.issue, beginAll_ready _ r]
  simp only [launch, ← popCount_eq_countP, State.trapLanes_eq_raises, gangbad_iff, ite_not]
  rfl

/-- Settles O23: QPOP changes its threads one by one, each in its own register and SEQ, and GANG refuses the masks that are not legal. -/
theorem queuePopAndGangRegister : Obligations.QueuePopAndGangRegister := ⟨queuePop, gangRegister⟩

end Sys2Proof.Machine
